-- ==== Sys2Proof/Word.lean ====
section
/-!
DEFINITION. The word types of the TK8 and their plainest arithmetic.
-/
namespace Sys2Proof

/-- Every scalar register, PC and global address is 64 bits wide (R22, R38, R89). -/
abbrev Word := BitVec 64

/-- The smallest addressable unit is a byte (R197). -/
abbrev Byte := BitVec 8

/-- Bits [lo + n - 1 : lo] of a number, as a bit vector (R5: bit 0 is the least significant). -/
def field (x lo n : Nat) : BitVec n := BitVec.ofNat n (x / 2 ^ lo)

/-- Bits [lo + n - 1 : lo] of a number, as a number. -/
def bitsOf (x lo n : Nat) : Nat := x / 2 ^ lo % 2 ^ n

/-- One bit of a number. -/
def bitOf (x i : Nat) : Bool := x / 2 ^ i % 2 == 1

/-- A flag as the number it stands for in a field. -/
def flag (b : Bool) : Nat := if b then 1 else 0

end Sys2Proof
end

