-- ==== Sys2Proof/Config.lean ====
section
/-!
DEFINITION. What the specification leaves open as a value: constants without a body, so that no proof sees what they
are, and the sizes that it fixes for every chip.
-/
namespace Sys2Proof.Config

/-- Free value number n: a value that the specification does not state (log entry 5). -/
opaque freeWord : Nat → Word

/-- Which of the results that R87 allows a special function gives: by function, format and operand bits (log entry 7).
Each result depends only on its own operand (R145). -/
opaque sfuChoice : Nat → Bool → Nat → Nat

/-- The information word of an error record of type 3, of an operation and a width in bytes: the record carries both, and their
packing is not stated (log entry 13). -/
opaque readHalfInfo : Nat → Nat → Word

/-- Bytes of the private key that secure flash holds of the chip with a serial number, by what they are used for: the identifiers of its
trees, the secrets of its one-time keys and the randomizers of its signatures (log entry 9). -/
opaque secretByte : List Word → List Nat → Byte

/-- Bytes of a scratchpad bank and of a bank of the bank array (R19). -/
def bankBytes : Nat := 8192

/-- Entries of the fixed queues (R16). -/
def cqSize : Nat := 16
def bqSize : Nat := 16
def viqSize : Nat := 16

end Sys2Proof.Config
end

