-- ==== Sys2Proof/Syntax.lean ====
section
/-!
DEFINITION. The instructions of the TK8 and the steps of its agents: one constructor per row of the opcode table.
A decoded instruction carries the fields of its tail layout (R57); a step of an agent that has no encoding carries
the unit it happens at and what comes from outside the machine.
-/
namespace Sys2Proof

/-- Layout T16a of R57: three scalar register fields. -/
structure T16a where
  d : BitVec 5
  a : BitVec 5
  b : BitVec 5
  deriving DecidableEq, Repr

/-- Layout T16b of R57: three mask fields and a scalar register field. -/
structure T16b where
  md : BitVec 3
  ma : BitVec 3
  mb : BitVec 3
  x : BitVec 5
  deriving DecidableEq, Repr

/-- Layout T32a of R57: two scalar register fields and a signed 22-bit immediate. -/
structure T32a where
  d : BitVec 5
  a : BitVec 5
  imm : BitVec 22
  deriving DecidableEq, Repr

/-- Layout T32b of R57: a branch; disp is a signed count of lines. -/
structure T32b where
  a : BitVec 5
  b : BitVec 5
  cond : BitVec 3
  slot : BitVec 5
  disp : BitVec 14
  deriving DecidableEq, Repr

/-- Layout T32c of R57: four scalar register fields and a 12-bit immediate. -/
structure T32c where
  d : BitVec 5
  a : BitVec 5
  b : BitVec 5
  c : BitVec 5
  imm : BitVec 12
  deriving DecidableEq, Repr

/-- Layout T32d of R57: a vector instruction of at most two sources. -/
structure T32d where
  vd : BitVec 7
  va : BitVec 7
  vb : BitVec 7
  m : BitVec 3
  men : Bool
  mn : Bool
  rm : BitVec 2
  e : Bool
  me : BitVec 3
  deriving DecidableEq, Repr

/-- Layout T32e of R57: scalar registers, a completion counter, a scope and a 10-bit immediate. -/
structure T32e where
  d : BitVec 5
  a : BitVec 5
  b : BitVec 5
  cc : BitVec 4
  scope : BitVec 3
  imm : BitVec 10
  deriving DecidableEq, Repr

/-- Layout T32f of R57: fabric, engine and matrix commands. -/
structure T32f where
  a : BitVec 5
  b : BitVec 5
  c : BitVec 5
  cc : BitVec 4
  t : BitVec 2
  mm : Bool
  op : BitVec 4
  imm : BitVec 6
  deriving DecidableEq, Repr

/-- Layout T32g of R57: queue and tile-slice instructions. -/
structure T32g where
  v : BitVec 7
  x : BitVec 5
  t : BitVec 2
  m : BitVec 3
  men : Bool
  mn : Bool
  q : BitVec 3
  imm : BitVec 10
  deriving DecidableEq, Repr

/-- Layout T48a of R57: a register and a 32-bit immediate. -/
structure T48a where
  d : BitVec 5
  imm : BitVec 32
  deriving DecidableEq, Repr

/-- Layout T48b of R57: a vector instruction of up to three sources with a function code. -/
structure T48b where
  vd : BitVec 7
  va : BitVec 7
  vb : BitVec 7
  vc : BitVec 7
  m : BitVec 3
  men : Bool
  mn : Bool
  rm : BitVec 2
  e : Bool
  me : BitVec 3
  x : BitVec 5
  fn : BitVec 4
  deriving DecidableEq, Repr

/-- Layout T48c of R57: memory accesses, with a signed 13-bit immediate. -/
structure T48c where
  d : BitVec 5
  a : BitVec 5
  b : BitVec 5
  c : BitVec 5
  cc : BitVec 4
  nb : Bool
  ff : Bool
  sc : Bool
  w : BitVec 2
  sx : Bool
  ord : BitVec 2
  scope : BitVec 3
  imm : BitVec 13
  deriving DecidableEq, Repr

/-- Layout T48d of R57: T32b and a 16-bit immediate. -/
structure T48d where
  a : BitVec 5
  b : BitVec 5
  cond : BitVec 3
  slot : BitVec 5
  disp : BitVec 14
  imm : BitVec 16
  deriving DecidableEq, Repr

/-- Layout T48e of R57: block-format loads and stores. -/
structure T48e where
  d : BitVec 5
  a : BitVec 5
  b : BitVec 5
  cc : BitVec 4
  nb : Bool
  ff : Bool
  bf : Bool
  mw : BitVec 3
  deriving DecidableEq, Repr

/-- What a port sees of the frame and the headers that carry a packet (R387): bytes of the frame, IEEE 802.1Q tags, whether the IP
header has options or extension headers, and the UDP port. -/
structure Frame where
  size    : Nat
  tags    : Nat
  options : Bool
  udp     : Nat
  deriving DecidableEq, Repr

/-- What the consumers of a chip would draw unthrottled, in W (R3). -/
structure Demand where
  matrix : Nat
  vector : Nat
  sram   : Nat
  hbm    : Nat
  optics : Nat
  misc   : Nat
  deriving DecidableEq, Repr

/-- The sender that a PTP message names: its domain, and its port identity (R440). -/
structure PtpSender where
  domain : Nat
  src    : Nat
  deriving DecidableEq, Repr

/-- An inbound RoCEv2 packet as the port receives it (R391): arrival port, source address, queue pair, PSN and the fields of the
request. seg is that of an RDMA WRITE: 0 First, 1 Middle, 2 Last, 3 Only; any other number stands for an opcode that R387 does
not list. -/
structure Rdma where
  port : Nat
  src  : Nat
  qpn  : Nat
  psn  : Nat
  seg  : Nat
  rkey : Nat
  va   : Nat
  len  : Nat
  data : List Byte
  cmp  : Word
  swap : Word
  ce   : Bool
  frame : Frame
  deriving DecidableEq, Repr

/-- A firmware slot of secure flash (R394): the version in its header, the public key and the signature that go with it, and the
images that it loads. -/
structure Slot where
  ver    : Nat
  key    : List Byte
  sig    : List Byte
  images : List (List Byte)
  deriving DecidableEq, Repr

/-- What the boot ROM and on-package secure flash supply at a cold reset (R394, R395) and the values that firmware loads without
the manual giving a number (R9): the chip's number, the SHA-256 of the firmware's public key, both firmware slots, the minimum
version that an update raises to once its new slot, slot 0, has booted, the page-table root of context 0, the four port addresses, the node of the chip, the voltages of the
islands, the leaf counter and the serial number.
DESIGN CHOICE, log entry 10. -/
structure Firmware where
  self       : Nat
  rom        : List Byte
  slot0      : Slot
  slot1      : Slot
  minVer     : Nat
  root       : List Word
  mac        : List Word
  ip         : List Word
  node       : Nat
  mv         : List Nat
  leaf       : Nat
  serial     : List Word
  supervisor : Word × Word
  deriving DecidableEq, Repr

/-- The instruction set: 195 encoded instructions, then the 132 steps that the table lists without an encoding. -/
inductive Instr where
  /-- NOP, opcode 0x000 (R43, R45). -/
  | nop
  /-- EXIT, opcode 0x001 (R192, R208, R317, R318). -/
  | exit
  /-- YIELD, opcode 0x002 (R317). -/
  | yield
  /-- BKPT, opcode 0x003 (R317). -/
  | bkpt
  /-- LBRK, opcode 0x004 (R314). -/
  | lbrk
  /-- ADD, opcode 0x008 (R42, R43, R44, R50). -/
  | add (f : T16a)
  /-- SUB, opcode 0x009 (R90). -/
  | sub (f : T16a)
  /-- MUL, opcode 0x00A (R90). -/
  | mul (f : T16a)
  /-- MULH, opcode 0x00B (R90). -/
  | mulh (f : T16a)
  /-- MULHU, opcode 0x00C (R90). -/
  | mulhu (f : T16a)
  /-- DIV, opcode 0x00D (R91). -/
  | div (f : T16a)
  /-- DIVU, opcode 0x00E (R91). -/
  | divu (f : T16a)
  /-- REM, opcode 0x00F (R91). -/
  | rem (f : T16a)
  /-- REMU, opcode 0x010 (R91). -/
  | remu (f : T16a)
  /-- AND, opcode 0x011 (R90). -/
  | and (f : T16a)
  /-- OR, opcode 0x012 (R90). -/
  | or (f : T16a)
  /-- XOR, opcode 0x013 (R90). -/
  | xor (f : T16a)
  /-- ANDN, opcode 0x014 (R90). -/
  | andn (f : T16a)
  /-- SLL, opcode 0x015 (R90). -/
  | sll (f : T16a)
  /-- SRL, opcode 0x016 (R90). -/
  | srl (f : T16a)
  /-- SRA, opcode 0x017 (R90). -/
  | sra (f : T16a)
  /-- MIN, opcode 0x018 (R90). -/
  | min (f : T16a)
  /-- MAX, opcode 0x019 (R90). -/
  | max (f : T16a)
  /-- MINU, opcode 0x01A (R90). -/
  | minu (f : T16a)
  /-- MAXU, opcode 0x01B (R90). -/
  | maxu (f : T16a)
  /-- SLT, opcode 0x01C (R90). -/
  | slt (f : T16a)
  /-- SLTU, opcode 0x01D (R90). -/
  | sltu (f : T16a)
  /-- SEQ, opcode 0x01E (R90). -/
  | seq (f : T16a)
  /-- CLZ, opcode 0x020 (R92). -/
  | clz (f : T16a)
  /-- CTZ, opcode 0x021 (R92). -/
  | ctz (f : T16a)
  /-- POPC, opcode 0x022 (R92). -/
  | popc (f : T16a)
  /-- JR, opcode 0x023 (R38, R39, R40, R309). -/
  | jr (f : T16a)
  /-- ADDI, opcode 0x028 (R93). -/
  | addi (f : T32a)
  /-- ANDI, opcode 0x029 (R93). -/
  | andi (f : T32a)
  /-- ORI, opcode 0x02A (R93). -/
  | ori (f : T32a)
  /-- XORI, opcode 0x02B (R93). -/
  | xori (f : T32a)
  /-- SLLI, opcode 0x02C (R93). -/
  | slli (f : T32a)
  /-- SRLI, opcode 0x02D (R93). -/
  | srli (f : T32a)
  /-- SRAI, opcode 0x02E (R93). -/
  | srai (f : T32a)
  /-- SGET, opcode 0x02F (R8, R10, R31, R32). -/
  | sget (f : T32a)
  /-- SSET, opcode 0x030 (R8, R10, R53, R147). -/
  | sset (f : T32a)
  /-- TRAP, opcode 0x031 (R407). -/
  | trap (f : T32a)
  /-- LIDX, opcode 0x032 (R315). -/
  | lidx (f : T32a)
  /-- SEL, opcode 0x038 (R94). -/
  | sel (f : T32c)
  /-- BFX, opcode 0x039 (R94). -/
  | bfx (f : T32c)
  /-- BFI, opcode 0x03A (R94). -/
  | bfi (f : T32c)
  /-- B_CC, opcode 0x040 (R38, R39, R40, R309). -/
  | bcc (f : T32b)
  /-- JMP, opcode 0x041 (R38, R39, R40, R309). -/
  | jmp (f : T32b)
  /-- JAL, opcode 0x042 (R38, R39, R40, R310). -/
  | jal (f : T32b)
  /-- LOOP, opcode 0x043 (R309, R312, R313). -/
  | loop (f : T32b)
  /-- LOOPI, opcode 0x048 (R312, R313). -/
  | loopi (f : T48d)
  /-- LI, opcode 0x050 (R95). -/
  | li (f : T48a)
  /-- LIH, opcode 0x051 (R95). -/
  | lih (f : T48a)
  /-- LD, opcode 0x100 (R26, R27, R42, R43). -/
  | ld (f : T48c)
  /-- ST, opcode 0x101 (R27, R198, R201, R204). -/
  | st (f : T48c)
  /-- FENCE, opcode 0x102 (R40, R208, R210, R212). -/
  | fence (f : T32e)
  /-- VLQ, opcode 0x108 (R27, R198, R205, R214). -/
  | vlq (f : T48c)
  /-- VLQS, opcode 0x109 (R238, R239, R240). -/
  | vlqs (f : T48c)
  /-- VLQX, opcode 0x10A (R238, R239, R240). -/
  | vlqx (f : T48c)
  /-- VLQI, opcode 0x10B (R233, R238, R239, R240). -/
  | vlqi (f : T48c)
  /-- VLQT, opcode 0x10C (R238, R239, R240). -/
  | vlqt (f : T48c)
  /-- VSQ, opcode 0x10D (R205, R238, R239, R241). -/
  | vsq (f : T48c)
  /-- VSQS, opcode 0x10E (R238, R239, R241). -/
  | vsqs (f : T48c)
  /-- VSQX, opcode 0x10F (R238, R239, R241). -/
  | vsqx (f : T48c)
  /-- VSQI, opcode 0x110 (R238, R239, R241). -/
  | vsqi (f : T48c)
  /-- VLQB, opcode 0x111 (R77, R78, R80, R247). -/
  | vlqb (f : T48e)
  /-- VSQB, opcode 0x112 (R77, R79, R80, R247). -/
  | vsqb (f : T48e)
  /-- VSETL, opcode 0x118 (R100, R103). -/
  | vsetl (f : T32e)
  /-- LPREQ, opcode 0x119 (R337, R339). -/
  | lpreq (f : T32e)
  /-- LPREL, opcode 0x11A (R338, R339). -/
  | lprel (f : T32e)
  /-- CQPUSH, opcode 0x11B (R325). -/
  | cqpush (f : T32e)
  /-- BQB, opcode 0x11C (R320, R332). -/
  | bqb (f : T32e)
  /-- QSLIP, opcode 0x11D (R323). -/
  | qslip (f : T32e)
  /-- QDRAIN, opcode 0x11E (R326). -/
  | qdrain (f : T32e)
  /-- CBATCH, opcode 0x120 (R250, R251). -/
  | cbatch (f : T32e)
  /-- CWAIT, opcode 0x121 (R223, R251, R252). -/
  | cwait (f : T32e)
  /-- CCGET, opcode 0x122 (R249, R251). -/
  | ccget (f : T32e)
  /-- WAITW, opcode 0x123 (R253). -/
  | waitw (f : T32e)
  /-- BAR, opcode 0x124 (R30, R208, R228, R254). -/
  | bar (f : T32e)
  /-- AMO, opcode 0x128 (R258, R260, R262). -/
  | amo (f : T32c)
  /-- AMOCAS, opcode 0x129 (R260, R262). -/
  | amocas (f : T32c)
  /-- RED, opcode 0x12A (R260, R263). -/
  | red (f : T32c)
  /-- VAMO, opcode 0x12B (R264, R265). -/
  | vamo (f : T48c)
  /-- VRED, opcode 0x12C (R264, R265). -/
  | vred (f : T48c)
  /-- MCAS, opcode 0x12D (R208, R226, R270, R271). -/
  | mcas (f : T32e)
  /-- CPY, opcode 0x130 (R191, R192, R365, R366). -/
  | cpy (f : T32f)
  /-- CPY2, opcode 0x131 (R365). -/
  | cpy2 (f : T32f)
  /-- CPYX, opcode 0x132 (R365). -/
  | cpyx (f : T32f)
  /-- PUT, opcode 0x133 (R250, R286, R296, R297). -/
  | put (f : T32f)
  /-- GET, opcode 0x134 (R296). -/
  | get (f : T32f)
  /-- RWMAP, opcode 0x138 (R26, R220, R286, R287). -/
  | rwmap (f : T32f)
  /-- RWINV, opcode 0x139 (R220, R289). -/
  | rwinv (f : T32f)
  /-- PUB, opcode 0x13A (R286, R292). -/
  | pub (f : T32f)
  /-- EDWAIT, opcode 0x13B (R220, R227, R290, R295). -/
  | edwait (f : T32f)
  /-- EDGET, opcode 0x13C (R295). -/
  | edget (f : T32f)
  /-- VCOLL, opcode 0x140 (R286, R299, R300, R302). -/
  | vcoll (f : T32f)
  /-- TEN, opcode 0x148 (R160, R163, R165, R176). -/
  | ten (f : T32f)
  /-- TDIS, opcode 0x149 (R166). -/
  | tdis (f : T32f)
  /-- TZERO, opcode 0x14A (R163, R168). -/
  | tzero (f : T32f)
  /-- TMASK, opcode 0x14B (R162, R167). -/
  | tmask (f : T32f)
  /-- MMA, opcode 0x14C (R160, R163, R164, R169). -/
  | mma (f : T32f)
  /-- MMAG, opcode 0x14D (R160, R163, R164, R169). -/
  | mmag (f : T32f)
  /-- TLD, opcode 0x14E (R163, R164, R169, R176). -/
  | tld (f : T32f)
  /-- TST, opcode 0x14F (R79, R163, R164, R169). -/
  | tst (f : T32f)
  /-- TSYNC, opcode 0x150 (R179). -/
  | tsync (f : T32f)
  /-- TGPOST, opcode 0x158 (R19, R28, R29, R343). -/
  | tgpost (f : T32e)
  /-- TGDONE, opcode 0x159 (R358, R359). -/
  | tgdone (f : T32e)
  /-- TGHWM, opcode 0x15A (R362). -/
  | tghwm (f : T32e)
  /-- TGWAIT, opcode 0x15B (R360). -/
  | tgwait (f : T32e)
  /-- RTCNT, opcode 0x160 (R154, R158). -/
  | rtcnt (f : T32e)
  /-- RTSNAP, opcode 0x161 (R155, R158). -/
  | rtsnap (f : T32e)
  /-- RTBIAS, opcode 0x162 (R156, R158). -/
  | rtbias (f : T32e)
  /-- RTSWAP, opcode 0x163 (R149, R157, R158). -/
  | rtswap (f : T32e)
  /-- VTAKE, opcode 0x200 (R96, R97, R105, R190). -/
  | vtake (f : T32g)
  /-- VTAKEQ, opcode 0x201 (R96, R97, R106). -/
  | vtakeq (f : T32g)
  /-- CQPOP, opcode 0x202 (R107, R320). -/
  | cqpop (f : T32g)
  /-- VBRQ, opcode 0x203 (R331). -/
  | vbrq (f : T32g)
  /-- VIQ, opcode 0x204 (R328). -/
  | viq (f : T32g)
  /-- VQDROP, opcode 0x205 (R327). -/
  | vqdrop (f : T32g)
  /-- VADD, opcode 0x210 (R42, R43, R44, R55). -/
  | vadd (f : T32d)
  /-- VSUB, opcode 0x211 (R117). -/
  | vsub (f : T32d)
  /-- VMUL, opcode 0x212 (R117). -/
  | vmul (f : T32d)
  /-- VMULH, opcode 0x213 (R117). -/
  | vmulh (f : T32d)
  /-- VAND, opcode 0x214 (R117). -/
  | vand (f : T32d)
  /-- VOR, opcode 0x215 (R117). -/
  | vor (f : T32d)
  /-- VXOR, opcode 0x216 (R117). -/
  | vxor (f : T32d)
  /-- VSLL, opcode 0x217 (R117). -/
  | vsll (f : T32d)
  /-- VSRL, opcode 0x218 (R117). -/
  | vsrl (f : T32d)
  /-- VSRA, opcode 0x219 (R117). -/
  | vsra (f : T32d)
  /-- VMIN, opcode 0x21A (R117). -/
  | vmin (f : T32d)
  /-- VMAX, opcode 0x21B (R117). -/
  | vmax (f : T32d)
  /-- VMINU, opcode 0x21C (R117). -/
  | vminu (f : T32d)
  /-- VMAXU, opcode 0x21D (R117). -/
  | vmaxu (f : T32d)
  /-- VCMP, opcode 0x21E (R118). -/
  | vcmp (f : T48b)
  /-- VSEL, opcode 0x21F (R119). -/
  | vsel (f : T32d)
  /-- VMV, opcode 0x220 (R120). -/
  | vmv (f : T32d)
  /-- VBC, opcode 0x221 (R120). -/
  | vbc (f : T32d)
  /-- VID, opcode 0x222 (R121). -/
  | vid (f : T32d)
  /-- VIOTA, opcode 0x223 (R121). -/
  | viota (f : T32d)
  /-- VICVT, opcode 0x224 (R109, R122). -/
  | vicvt (f : T48b)
  /-- VFADD, opcode 0x230 (R70, R71, R72, R108). -/
  | vfadd (f : T32d)
  /-- VFSUB, opcode 0x231 (R124). -/
  | vfsub (f : T32d)
  /-- VFMUL, opcode 0x232 (R124). -/
  | vfmul (f : T32d)
  /-- VFMA, opcode 0x233 (R70, R124). -/
  | vfma (f : T48b)
  /-- VFMS, opcode 0x234 (R124). -/
  | vfms (f : T48b)
  /-- VFNMA, opcode 0x235 (R124). -/
  | vfnma (f : T48b)
  /-- VFDIV, opcode 0x236 (R124). -/
  | vfdiv (f : T32d)
  /-- VFSQRT, opcode 0x237 (R124). -/
  | vfsqrt (f : T32d)
  /-- VFMIN, opcode 0x238 (R125). -/
  | vfmin (f : T32d)
  /-- VFMAX, opcode 0x239 (R125). -/
  | vfmax (f : T32d)
  /-- VFSGN, opcode 0x23A (R126). -/
  | vfsgn (f : T32d)
  /-- VFCMP, opcode 0x23B (R127). -/
  | vfcmp (f : T48b)
  /-- VFCVT, opcode 0x23C (R73, R109, R128). -/
  | vfcvt (f : T48b)
  /-- VFCLASS, opcode 0x23D (R129). -/
  | vfclass (f : T48b)
  /-- VFEXP2, opcode 0x240 (R144). -/
  | vfexp2 (f : T32d)
  /-- VFLOG2, opcode 0x241 (R144). -/
  | vflog2 (f : T32d)
  /-- VFRCP, opcode 0x242 (R144). -/
  | vfrcp (f : T32d)
  /-- VFRSQ, opcode 0x243 (R144). -/
  | vfrsq (f : T32d)
  /-- VFTANH, opcode 0x244 (R144). -/
  | vftanh (f : T32d)
  /-- VFSIGM, opcode 0x245 (R144). -/
  | vfsigm (f : T32d)
  /-- VFERF, opcode 0x246 (R144). -/
  | vferf (f : T32d)
  /-- VCOMPRESS, opcode 0x250 (R131, R132, R133). -/
  | vcompress (f : T48b)
  /-- VEXPAND, opcode 0x251 (R131, R134). -/
  | vexpand (f : T32d)
  /-- VSLUP, opcode 0x252 (R131, R135). -/
  | vslup (f : T48b)
  /-- VSLDN, opcode 0x253 (R131, R135). -/
  | vsldn (f : T48b)
  /-- VRGAT, opcode 0x254 (R131, R136). -/
  | vrgat (f : T32d)
  /-- VEXT, opcode 0x255 (R131, R137). -/
  | vext (f : T48b)
  /-- VINS, opcode 0x256 (R131, R137). -/
  | vins (f : T48b)
  /-- VREDSUM, opcode 0x258 (R139, R140). -/
  | vredsum (f : T48b)
  /-- VREDMAX, opcode 0x259 (R139, R140). -/
  | vredmax (f : T48b)
  /-- VREDMIN, opcode 0x25A (R139, R140). -/
  | vredmin (f : T48b)
  /-- VFREDSUM, opcode 0x25B (R139, R140). -/
  | vfredsum (f : T48b)
  /-- VFREDMAX, opcode 0x25C (R139, R140). -/
  | vfredmax (f : T48b)
  /-- VFREDMIN, opcode 0x25D (R139, R140). -/
  | vfredmin (f : T48b)
  /-- VSCAN, opcode 0x25E (R139, R141). -/
  | vscan (f : T48b)
  /-- VFSCAN, opcode 0x25F (R139, R141). -/
  | vfscan (f : T48b)
  /-- MAND, opcode 0x260 (R130). -/
  | mand (f : T16b)
  /-- MOR, opcode 0x261 (R130). -/
  | mor (f : T16b)
  /-- MXOR, opcode 0x262 (R130). -/
  | mxor (f : T16b)
  /-- MNOT, opcode 0x263 (R130). -/
  | mnot (f : T16b)
  /-- MPOP, opcode 0x264 (R130). -/
  | mpop (f : T16b)
  /-- MFIRST, opcode 0x265 (R130). -/
  | mfirst (f : T16b)
  /-- MSET, opcode 0x266 (R130). -/
  | mset (f : T16b)
  /-- VTRD, opcode 0x268 (R160, R186, R187, R190). -/
  | vtrd (f : T32g)
  /-- VTCD, opcode 0x269 (R160, R186, R187). -/
  | vtcd (f : T32g)
  /-- VTWR, opcode 0x26A (R160, R186, R188). -/
  | vtwr (f : T32g)
  /-- VRINS, opcode 0x270 (R150). -/
  | vrins (f : T48b)
  /-- VRCLS, opcode 0x271 (R147, R151). -/
  | vrcls (f : T48b)
  /-- VRPICK, opcode 0x272 (R152). -/
  | vrpick (f : T48b)
  /-- ERET, opcode 0x300 (R39, R40, R42, R85). -/
  | eret
  /-- IDLE, opcode 0x301 (R438). -/
  | idle
  /-- TLBINV, opcode 0x308 (R381, R382). -/
  | tlbinv (f : T32e)
  /-- CRSAVE, opcode 0x309 (R412, R413). -/
  | crsave (f : T32e)
  /-- CRLOAD, opcode 0x30A (R412, R414). -/
  | crload (f : T32e)
  /-- FILL, opcode 0x30B (R437). -/
  | fill (f : T32e)
  /-- R100, R103: step 2 of the vsetl at which the access sequencer of crew k waits. -/
  | vsetlGrant (k : Nat)
  /-- R253: the core reads the word awaited by crew k again. -/
  | waitwReread (k : Nat)
  /-- R254, R255: the barrier set of crew k departs once all have arrived. -/
  | barrierRelease (k : Nat)
  /-- R466: the oldest waiting division of the slice starts. -/
  | divisionStart (core : Nat) (xs : Bool)
  /-- R466: the running division of the slice writes d. -/
  | divisionResult (core : Nat) (xs : Bool)
  /-- R308: the head convoy of the VIQ of crew k issues. -/
  | viqHeadIssue (k : Nat)
  /-- R308: the issued convoy of crew k advances one element group. -/
  | elementGroupAdvance (k : Nat)
  /-- R101: a raise of the core class ends. -/
  | coreClassRaiseComplete (core : Nat)
  /-- R101: banks return to the core cache. -/
  | coreClassFallComplete (core : Nat)
  /-- R231, R240, R322: load i in issue of crew k pushes one element group. -/
  | loadTokenPush (k : Nat) (i : Nat)
  /-- R241: the vector store that waits in crew k performs when its token stands there. -/
  | vectorStorePerform (k : Nat)
  /-- R207: line i of the write-combining buffer of crew k drains. -/
  | wcbLineDrain (k : Nat) (i : Nat)
  /-- R213: the next element of the .sc access of crew k draws a ticket and is performed. -/
  | scTicketDraw (k : Nat)
  /-- R280: request i is performed at its home. -/
  | homeAccessPerform (i : Nat)
  /-- R279, R206: the reply of request i returns to its issuer. -/
  | accessReplyReturn (i : Nat)
  /-- R217: read span request of a core on words of a 256-byte block. -/
  | readSpan (core : Nat) (blk : Nat) (first : Nat) (cnt : Nat)
  /-- R217: own span request. -/
  | ownSpan (core : Nat) (blk : Nat) (first : Nat) (cnt : Nat)
  /-- R217: write back span; keep leaves the words clean. -/
  | writeBackSpan (core : Nat) (blk : Nat) (first : Nat) (cnt : Nat) (keep : Bool)
  /-- R217: the directory invalidates the words of a core. -/
  | invalidateSpan (core : Nat) (blk : Nat) (first : Nat) (cnt : Nat)
  /-- R259: the returning atomic at which crew k waits is performed. -/
  | atomicPerform (k : Nat)
  /-- R266: a slice accepts its oldest waiting contribution. -/
  | contributionAccept (slice : Nat)
  /-- R266: chain i of a slice applies its contributions and writes once. -/
  | chainClose (slice : Nat) (i : Nat)
  /-- R271: the next home of the mcas of crew k checks, locks and reads its entries. -/
  | mcasHomeLock (k : Nat)
  /-- R271: the status and commit of the mcas of crew k are decided. -/
  | mcasDecision (k : Nat)
  /-- R271: the next locked home writes if committed and unlocks. -/
  | mcasHomeUnlock (k : Nat)
  /-- R271: observed values and status are written to the slate and d. -/
  | mcasFinish (k : Nat)
  /-- R274: a home cut off by a dark path releases its locks unchanged. -/
  | mcasDarkRelease (k : Nat)
  /-- R285: the receiver checks the version of packet i. -/
  | packetReceive (i : Nat)
  /-- R285: the sender of packet i receives the NACK and holds the packet. -/
  | versionNackReceive (i : Nat)
  /-- R285: held packet i is sent again, or its access fails. -/
  | packetResend (i : Nat)
  /-- R282: a cumulative credit count returns on the reverse path. -/
  | creditReturnReceive (die : Nat) (peer : Nat) (freed : Nat)
  /-- R283: the receiver acknowledges sequence numbers up to seq. -/
  | flitAcknowledge (die : Nat) (peer : Nat) (seq : Nat)
  /-- R283: a lane of an in-package path goes dark. -/
  | laneDark (die : Nat) (peer : Nat) (lane : Nat)
  /-- R284: die marks its route entry for peer dark. -/
  | pathDarkMark (die : Nat) (peer : Nat)
  /-- R284: request i is not acknowledged by T_dark after marking. -/
  | darkRequestTimeout (i : Nat)
  /-- R290: block blk of window w of crew k arrives and is cached. -/
  | windowBlockFill (k : Nat) (w : Nat) (blk : Nat)
  /-- R290: a cached window block is evicted. -/
  | windowBlockEviction (k : Nat) (w : Nat) (blk : Nat)
  /-- R293: the publication engine accepts the next pub of channel ch. -/
  | publicationAccept (die : Nat) (ch : Nat)
  /-- R293: the next packet of publication p lands at member die mem. -/
  | publicationPacketLand (p : Nat) (mem : Nat)
  /-- R366: the copy unit of a core takes its oldest waiting job. -/
  | copyJobTake (core : Nat)
  /-- R297, R365: the next packet of job j lands. -/
  | jobPacketLand (core : Nat) (j : Nat)
  /-- R297: job j writes its signal word and completes. -/
  | jobSignalWrite (core : Nat) (j : Nat)
  /-- R191: the armed command of crew k enters the matrix command queue. -/
  | followOnPlace (k : Nat)
  /-- R302: the contribution of a member die to one element arrives at its owner. -/
  | collectiveContributionArrive (c : Nat) (die : Nat) (elem : Nat)
  /-- R302: the results of a block arrive at a member die. -/
  | collectiveResultArrive (c : Nat) (die : Nat) (blk : Nat)
  /-- R303: a member die learns that a block failed. -/
  | failureNoticeReceive (c : Nat) (die : Nat) (blk : Nat) (dark : Nat) (rep : Nat) (code : Nat)
  /-- R163: the matrix unit starts the next queued command. -/
  | matrixCommandStart (core : Nat)
  /-- R172, R176: the next block row of the running mma completes. -/
  | mmaBlockRowComplete (core : Nat)
  /-- R163, R180: the running matrix command completes. -/
  | matrixCommandComplete (core : Nat)
  /-- R182: the gang whose base is this core runs its next K step. -/
  | gangStepStart (core : Nat)
  /-- R347: the pool takes the node that crew k waits to post. -/
  | nodePost (k : Nat)
  /-- R351: the highest-ranked ready node of a class is dispatched; a copy node goes to the named core. -/
  | nodeDispatch (die : Nat) (cls : Nat) (core : Nat)
  /-- R354, R355: the next placement group of the node in a pool slot is placed on the crew slots named, in WID order. -/
  | crewPlacement (die : Nat) (slot : Nat) (crews : List Nat)
  /-- R356: the sequencers of a placed crew start. -/
  | crewStart (k : Nat)
  /-- R362: the high-water index of its producer reaches crew k. -/
  | highWaterArrive (k : Nat)
  /-- R319: crew k retires. -/
  | crewRetire (k : Nat)
  /-- R380: a last-level miss takes a walker. -/
  | pageWalkStart (die : Nat) (ctx : Nat) (va : Nat)
  /-- R380: walk i completes. -/
  | pageWalkComplete (die : Nat) (i : Nat)
  /-- R382: target die of tlbinv i drops its entries and acknowledges. -/
  | tlbinvTargetDrop (i : Nat) (die : Nat)
  /-- R399, R401: crew k has stopped after a trap and becomes trapped. -/
  | runOnStop (k : Nat)
  /-- R399: 1,024 cycles after the trap the running slice stops at an instruction boundary. -/
  | runOnLimit (k : Nat)
  /-- R404: the arbiter writes its oldest waiting trap record. -/
  | trapRecordWrite (die : Nat)
  /-- R404: the arbiter takes the latched record of lowest sequence number. -/
  | latchTake (die : Nat)
  /-- R405, R410: command 1 reaches crew k. -/
  | tctlPreempt (k : Nat)
  /-- R410: crew k has stopped and becomes pre-empted. -/
  | preemptStop (k : Nat)
  /-- R405, R409: command 2 reaches crew k. -/
  | tctlEnd (k : Nat)
  /-- R409: an ended crew retires. -/
  | crewEndComplete (k : Nat)
  /-- R405: the resume PC of one slice of a stopped crew is set. -/
  | targetEpcWrite (k : Nat) (xs : Bool) (v : Word)
  /-- R413: the save of crew k is written and its slot freed. -/
  | contextSaveWrite (k : Nat)
  /-- R414: the load into crew slot k is checked and completes. -/
  | contextLoadComplete (k : Nat)
  /-- R417: the exchange of the core images of partition p starts or is refused. -/
  | pswapGo (die : Nat) (p : Nat)
  /-- R417: the images held under tag p are discarded. -/
  | pswapClear (die : Nat) (p : Nat)
  /-- R417: the exchange ends. -/
  | pswapDone (die : Nat)
  /-- R336: a write of sys.lpart. -/
  | lpartWrite (core : Nat) (v : Word)
  /-- R373: a write of a partition entry. -/
  | partitionTableWrite (die : Nat) (p : Nat) (v : Word)
  /-- R291, R300: a write of word 0 of a group entry. -/
  | groupEntryWrite (die : Nat) (g : Nat) (v : Word)
  /-- R291: a write of word 0 of a publication entry. -/
  | publicationEntryWrite (die : Nat) (ch : Nat) (v : Word)
  /-- R291: a write of word 0 of a subscription entry. -/
  | subscriptionEntryWrite (die : Nat) (n : Nat) (v : Word)
  /-- R390: a write of word 0 of a queue-pair entry. -/
  | qpEntryWrite (die : Nat) (q : Nat) (v : Word)
  /-- R389: a write of a word of the key table. -/
  | keyEntryWrite (die : Nat) (sel : Nat) (v : Word)
  /-- R278, R426: a write of a route entry. -/
  | routeEntryWrite (die : Nat) (peer : Nat) (v : Word)
  /-- R426: a training of a path pair ends with these measurements. -/
  | linkTrainingComplete (die : Nat) (peer : Nat) (flight : Nat) (lanes : Nat) (ident : Nat)
  /-- R305: sys.cfail is read and cleared. -/
  | sysCfailRead (k : Nat)
  /-- R404: sys.tdrop is read and cleared. -/
  | sysTdropRead (die : Nat)
  /-- R387: the drops word of a port is read and cleared. -/
  | portDropsRead (die : Nat) (p : Nat)
  /-- R430: sys.droop is read; ndroop and nthr clear. -/
  | droopCounterRead (die : Nat)
  /-- R441: a read of sys.ptps latches sys.ptpn. -/
  | ptpSecondsRead (chip : Nat)
  /-- R423: crew k writes the request block address v to sys.fcreq. -/
  | circuitChangeRequest (k : Nat) (v : Word)
  /-- R425: the controller receives the request of another chip. -/
  | peerChangeRequestReceive (chip : Nat) (ident : Nat)
  /-- R424: the grant arrives and the chip quiesces. -/
  | grantReceive (chip : Nat)
  /-- R424: no grant by T_grant. -/
  | grantTimeout (chip : Nat)
  /-- R424: the drain marker of a path has arrived and its flits are acknowledged. -/
  | drainMarkerArrive (die : Nat) (peer : Nat)
  /-- R424: paths not drained by T_drain are marked dark. -/
  | drainTimeout (chip : Nat)
  /-- R424: the mirrors have moved. -/
  | mirrorNoticeReceive (chip : Nat)
  /-- R424: no notice by T_grant. -/
  | mirrorTimeout (chip : Nat)
  /-- R424, R427: every chip adopts the next version. -/
  | trainingPhaseEnd (chip : Nat)
  /-- R394: cold reset and boot with the given contents of secure flash. -/
  | coldReset (chip : Nat) (fw : Firmware)
  /-- R396: crew k writes the request block address v. -/
  | attestationRequest (k : Nat) (v : Word)
  /-- R396: the report and the status are written. -/
  | attestationComplete (chip : Nat)
  /-- R419: the HBM controller reads a word that shows bad erroneous bits; from word 2^42 on, a soft error of another array. -/
  | hbmScrubRead (word : Nat) (bad : Nat)
  /-- R391, R229: an inbound RDMA WRITE packet. -/
  | rdmaWrite (die : Nat) (pkt : Rdma)
  /-- R391: an inbound RDMA READ Request. -/
  | rdmaReadRequest (die : Nat) (pkt : Rdma)
  /-- R391: an inbound Compare-and-Swap. -/
  | compareAndSwap (die : Nat) (pkt : Rdma)
  /-- R391: an inbound Fetch-and-Add. -/
  | fetchAndAdd (die : Nat) (pkt : Rdma)
  /-- R387: an ARP request for an address. -/
  | arpRequest (die : Nat) (p : Nat) (ip : Nat)
  /-- R387: an IPv6 neighbour solicitation. -/
  | neighbourSolicitation (die : Nat) (p : Nat) (ip : Nat)
  /-- R387: a PFC frame. -/
  | priorityFlowControlFrame (die : Nat) (p : Nat) (pri : Nat) (pause : Bool)
  /-- R387: a frame outside the supported parts. -/
  | ethernetFrameDrop (die : Nat) (p : Nat)
  /-- R440, R441: a PTP Sync message of the port identity src, with its receive time and, one-step, its origin time in ns. -/
  | sync (chip : Nat) (p : Nat) (sender : PtpSender) (t2 : Nat) (t1 : Nat) (twoStep : Bool)
  /-- R440: a Follow_Up message. -/
  | followUp (chip : Nat) (p : Nat) (sender : PtpSender) (t1 : Nat)
  /-- R440: the slave sends Delay_Req. -/
  | delayReq (chip : Nat) (t3 : Nat)
  /-- R440: a Delay_Resp message. -/
  | delayResp (chip : Nat) (p : Nat) (sender : PtpSender) (t4 : Nat)
  /-- R440: an Announce message with its data set in the order of comparison. -/
  | announce (chip : Nat) (p : Nat) (sender : PtpSender) (dataset : List Nat)
  /-- R442: D0 sends a sample command at this PTP instant. -/
  | telemetrySampleCommand (chip : Nat) (sec : Nat) (ns : Nat)
  /-- R442: a die samples its average power, in units of 0.25 W. -/
  | diePowerSample (die : Nat) (power : Nat)
  /-- R442: D0 writes the telemetry record. -/
  | telemetryRecordWrite (chip : Nat)
  /-- R3, R434, R435, R439: a control interval with this demand and the filler that idle matrix units can draw, in W. -/
  | limiterInterval (chip : Nat) (demand : Demand) (fillable : Nat)
  /-- R437: a floor set by fill reaches D0. -/
  | floorArrive (chip : Nat)
  /-- R436: a write of sys.ramp. -/
  | rampWrite (chip : Nat) (v : Word)
  /-- R430: the supply of an island falls thr below its set point. -/
  | droopDetect (die : Nat) (island : Nat)
  /-- R430: a window of 16 cycles ends with this signature. -/
  | signatureWindowEnd (core : Nat) (sig : Nat)
  /-- R430: a throttle ends. -/
  | throttleEnd (core : Nat)
  /-- R430: every entry gets confidence 0. -/
  | droopTableClear (die : Nat)
  /-- R431: a lane group is gated. -/
  | laneGroupGate (core : Nat) (lg : Nat)
  /-- R431: a lane group wakes. -/
  | laneGroupWake (core : Nat) (lg : Nat)
  /-- R432: a write of sys.vf. -/
  | vfChangeRequest (die : Nat) (island : Nat) (v : Word)
  /-- R432: the change of an island completes at this voltage. -/
  | vfChangeComplete (die : Nat) (island : Nat) (mv : Nat)
  /-- R444: the junction of a die reaches, or leaves, 100 degrees. -/
  | junctionCap (die : Nat) (on : Bool)
  /-- R444: a junction reaches 110 degrees. -/
  | thermalTrip (chip : Nat)
  /-- R387: the link of a port trains. -/
  | portLinkTrained (die : Nat) (p : Nat)
  /-- R387: the link of a port is lost. -/
  | portLinkLoss (die : Nat) (p : Nat)
  /-- R433: the chip loses its supply. -/
  | lossOfSupply (chip : Nat)
  deriving DecidableEq, Repr

end Sys2Proof
end

