-- ==== Sys2Proof/WellFormed.lean ====
section
/-!
DEFINITION. Which instructions are well formed (R43, R55, R57, R58): the checks on the fields of an instruction that
decode makes, each with a name. An instruction with a defect raises ILLOP.
-/
namespace Sys2Proof

/-- Why an encoding is no instruction (R43). -/
inductive IllForm where
  /-- The opcode is not in the opcode map (R60). -/
  | opcode
  /-- The tail length differs from the layout's. -/
  | length
  /-- A reserved bit of the tail is not zero. -/
  | reservedBit
  /-- A field that the instruction leaves unused is not zero (R58). -/
  | unusedField
  /-- A field holds a value that its layout or its owning chapter declares reserved. -/
  | reservedValue
  /-- A vector operand specifier is reserved or stands in a role that its range does not allow (R55). -/
  | operandRole
  /-- Two pop specifiers name the same queue. -/
  | samePop
  /-- c = 1 on an opcode that is not convoy-eligible (R46). -/
  | convoy
  deriving DecidableEq, Repr

/-- A check: the defect e unless b holds. -/
def need (e : IllForm) (b : Bool) : Option IllForm := if b then none else some e

/-- The first defect of a list of checks. -/
def firstDefect : List (Option IllForm) → Option IllForm
  | [] => none
  | some e :: _ => some e
  | none :: r => firstDefect r

/-- All the bit fields named are zero. -/
def unused (xs : List Nat) : Option IllForm := need .unusedField (xs.all (· == 0))

namespace VSpec

/-- The specifier names a vector register. -/
def isReg (x : BitVec 7) : Bool := decide (x.toNat < 0x40)

/-- The specifier may stand as a source (R55). -/
def isSrc (x : BitVec 7) : Bool := decide (x.toNat < 0x50) || decide (0x60 ≤ x.toNat)

/-- The specifier may stand as a destination (R55). -/
def isDst (x : BitVec 7) : Bool := isReg x || (decide (0x50 ≤ x.toNat) && decide (x.toNat ≤ 0x54))

/-- The specifier is a scalar broadcast. -/
def isBcast (x : BitVec 7) : Bool := decide (0x60 ≤ x.toNat)

/-- The queue that the specifier pops. -/
def pop (x : BitVec 7) : Option Nat :=
  if 0x40 ≤ x.toNat ∧ x.toNat < 0x48 then some (x.toNat - 0x40) else none

end VSpec

/-- No queue is popped by two of the source specifiers. -/
def popsDiffer : List (BitVec 7) → Bool
  | [] => true
  | x :: r => (match VSpec.pop x with
      | none => true
      | some q => r.all (fun y => VSpec.pop y != some q)) && popsDiffer r

/-- The mask fields: m and mn are zero when men = 0 (R58). -/
def maskRule (m : BitVec 3) (men mn : Bool) : Option IllForm :=
  need .unusedField (men || (m == 0 && !mn))

/-- No mask is used. -/
def noMask (m : BitVec 3) (men mn : Bool) : Option IllForm :=
  need .unusedField (m == 0 && !men && !mn)

/-- me is zero when e = 0 (R58). -/
def excRule (e : Bool) (me : BitVec 3) : Option IllForm := need .unusedField (e || me == 0)

/-- A scope code of R33. -/
def scopeRule (s : BitVec 3) : Option IllForm := need .reservedValue (decide (s.toNat ≤ 5))

/-- A value not above the largest one that is assigned. -/
def atMost {n : Nat} (x : BitVec n) (hi : Nat) : Option IllForm := need .reservedValue (decide (x.toNat ≤ hi))

/-- How an element instruction of layout T32d uses its fields. -/
inductive RndUse where
  | none | exc | both
  deriving DecidableEq, Repr

/-- Rounding and exception fields (R58): unused, only the exception mask, or both. -/
def rndRule (u : RndUse) (rm : BitVec 2) (e : Bool) (me : BitVec 3) : List (Option IllForm) :=
  match u with
  | .none => [unused [rm.toNat, flag e, me.toNat]]
  | .exc => [unused [rm.toNat], excRule e me]
  | .both => [excRule e me]

/-- An element instruction in T32d with the sources named. -/
def elem2 (useA useB : Bool) (u : RndUse) (f : T32d) : Option IllForm :=
  firstDefect ([need .operandRole (VSpec.isDst f.vd),
    if useA then need .operandRole (VSpec.isSrc f.va) else unused [f.va.toNat],
    if useB then need .operandRole (VSpec.isSrc f.vb) else unused [f.vb.toNat],
    need .samePop (popsDiffer [f.va, f.vb]),
    maskRule f.m f.men f.mn] ++ rndRule u f.rm f.e f.me)

/-- An element instruction in T48b: which sources it has, its rounding fields, whether x is used, the largest fn. -/
def elem3 (useB useC : Bool) (u : RndUse) (fn : Nat) (f : T48b) : Option IllForm :=
  firstDefect ([need .operandRole (VSpec.isDst f.vd), need .operandRole (VSpec.isSrc f.va),
    if useB then need .operandRole (VSpec.isSrc f.vb) else unused [f.vb.toNat],
    if useC then need .operandRole (VSpec.isSrc f.vc) else unused [f.vc.toNat],
    unused [f.x.toNat], atMost f.fn fn,
    need .samePop (popsDiffer [f.va, f.vb, f.vc]),
    maskRule f.m f.men f.mn] ++ rndRule u f.rm f.e f.me)

/-- A compare (R118, R127): vd holds a mask number, fn the condition. -/
def compareRule (u : RndUse) (fn : Nat) (f : T48b) : Option IllForm :=
  firstDefect ([need .operandRole (decide (f.vd.toNat ≤ 7)), need .operandRole (VSpec.isSrc f.va),
    need .operandRole (VSpec.isSrc f.vb), unused [f.vc.toNat, f.x.toNat], atMost f.fn fn,
    need .samePop (popsDiffer [f.va, f.vb]),
    maskRule f.m f.men f.mn] ++ rndRule u f.rm f.e f.me)

/-- A reduction to an x register (R139): x destination, seed vb an x specifier. -/
def reduceRule (u : RndUse) (fn : Nat) (f : T48b) : Option IllForm :=
  firstDefect ([need .operandRole (VSpec.isSrc f.va), need .operandRole (VSpec.isBcast f.vb),
    unused [f.vd.toNat, f.vc.toNat], atMost f.fn fn,
    maskRule f.m f.men f.mn] ++ rndRule u f.rm f.e f.me)

/-- A scan (R141): vector destination, seed vb an x specifier. -/
def scanRule (u : RndUse) (fn : Nat) (f : T48b) : Option IllForm :=
  firstDefect ([need .operandRole (VSpec.isDst f.vd), need .operandRole (VSpec.isSrc f.va),
    need .operandRole (VSpec.isBcast f.vb), unused [f.vc.toNat, f.x.toNat], atMost f.fn fn,
    maskRule f.m f.men f.mn] ++ rndRule u f.rm f.e f.me)

/-- An acquire or release field (R57): 0 plain, or the one code allowed, with a scope of R33; scope 0 when plain. -/
def ordRule (ord : BitVec 2) (scope : BitVec 3) (allowed : Nat) : Option IllForm :=
  firstDefect [need .reservedValue (ord == 0 || ord.toNat == allowed), scopeRule scope,
    need .reservedValue (ord != 0 || scope == 0)]

/-- A counter is named exactly when nb is set (R239). -/
def counterRule (nb : Bool) (cc : BitVec 4) : Option IllForm := need .reservedValue (nb || cc == 0)

/-- A vector load or store in T48c (R238, R239): queue number, which of b and c are used. -/
def vmemRule (isLoad useB useC : Bool) (f : T48c) : Option IllForm :=
  firstDefect [unused [flag f.sx], need .reservedValue (decide (f.d.toNat ≤ if isLoad then 7 else 3)),
    if useB then none else unused [f.b.toNat], if useC then none else unused [f.c.toNat],
    need .reservedValue (isLoad || !f.ff), need .reservedValue (!(f.ff && f.nb)),
    need .reservedValue (!(f.sc && (f.ff || f.nb || f.ord != 0))),
    ordRule f.ord f.scope (if isLoad then 1 else 2), counterRule f.nb f.cc]

/-- A scalar load or store in T48c (R235). -/
def memRule (isLoad : Bool) (f : T48c) : Option IllForm :=
  firstDefect [unused [f.b.toNat, f.c.toNat, f.cc.toNat, flag f.nb, flag f.ff],
    need .reservedValue (!f.sx || (isLoad && f.w != 3)),
    ordRule f.ord f.scope (if isLoad then 1 else 2),
    need .reservedValue (!(f.sc && f.ord != 0))]

/-- A vector atomic in T48c (R264). -/
def vatomicRule (returns : Bool) (f : T48c) : Option IllForm :=
  let aop := f.c.toNat
  firstDefect [need .reservedValue (decide (aop ≤ if returns then 9 else 8)),
    need .reservedValue (decide (2 ≤ f.w.toNat)),
    need .reservedValue (!f.ff && !f.sc && !f.sx),
    need .reservedValue (returns || f.nb),
    need .reservedValue (f.ord == 0 || f.ord == 2 || (returns && f.ord == 1)),
    scopeRule f.scope, need .reservedValue (f.ord != 0 || f.scope == 0),
    need .reservedValue (!(aop == 8 && f.w == 3)), counterRule f.nb f.cc,
    need .unusedField (returns || bitsOf f.d.toNat 0 3 == 0)]

/-- Fields of the imm of a scalar atomic (R260). -/
def atomicAop (imm : BitVec 12) : Nat := bitsOf imm.toNat 0 4

/-- 64-bit atomic (R260). -/
def atomicWide (imm : BitVec 12) : Bool := bitOf imm.toNat 4

/-- Ordering of an atomic: 0 plain, 1 acquire, 2 release, 3 both (R260). -/
def atomicOrder (imm : BitVec 12) : Nat := bitsOf imm.toNat 5 2

/-- Scope of the ordering of an atomic (R260). -/
def atomicScope (imm : BitVec 12) : Nat := bitsOf imm.toNat 7 3

/-- A scalar atomic in T32c (R260): the largest operation code and the orders allowed. -/
def atomicRule (aopMax : Nat) (orders : List Nat) (f : T32c) : Option IllForm :=
  firstDefect [need .reservedValue (decide (atomicAop f.imm ≤ aopMax)),
    need .reservedValue (!(atomicAop f.imm == 8 && atomicWide f.imm)),
    need .reservedValue (orders.contains (atomicOrder f.imm)),
    need .reservedValue (decide (atomicScope f.imm ≤ 5)),
    need .reservedValue (atomicOrder f.imm != 0 || atomicScope f.imm == 0),
    need .reservedBit (bitsOf f.imm.toNat 10 2 == 0)]

/-- A block-format access in T48e (R247). -/
def blockRule (isLoad : Bool) (f : T48e) : Option IllForm :=
  firstDefect [need .reservedValue (decide (f.d.toNat ≤ if isLoad then 7 else 3)),
    need .reservedValue (decide (f.mw.toNat ≤ 6)), need .reservedValue (isLoad || !f.ff),
    need .reservedValue (!(f.ff && f.nb)), counterRule f.nb f.cc]

/-- A form of T32e that uses only the register fields d and a when told, and no counter, scope or immediate. -/
def onlyDA (useD useA : Bool) (f : T32e) : Option IllForm :=
  unused ([f.b.toNat, f.cc.toNat, f.scope.toNat, f.imm.toNat] ++ (if useD then [] else [f.d.toNat])
    ++ (if useA then [] else [f.a.toNat]))

/-- A matrix command in T32f (R164): which registers it uses, the codes op[2] and op[1:0] may hold. -/
def matrixRule (useA useB useC useT ceOk dOk : Bool) (kindMax : Nat) (f : T32f) : Option IllForm :=
  let op := f.op.toNat
  firstDefect [unused [flag f.mm],
    unused ((if useA then [] else [f.a.toNat]) ++ (if useB then [] else [f.b.toNat])
      ++ (if useC then [] else [f.c.toNat]) ++ (if useT then [] else [f.t.toNat])),
    need .reservedValue (ceOk || !bitOf op 3), need .reservedValue (dOk || !bitOf op 2),
    need .reservedValue (decide (bitsOf op 0 2 ≤ kindMax)),
    need .unusedField (bitOf op 3 || f.cc == 0)]

/-- A tile slice in T32g (R186). -/
def sliceRule (isRead : Bool) (f : T32g) : Option IllForm :=
  firstDefect [need .operandRole (if isRead then VSpec.isDst f.v else VSpec.isSrc f.v),
    unused [f.q.toNat, f.imm.toNat], maskRule f.m f.men f.mn]

/-- A queue instruction in T32g that uses only x and q when told. -/
def onlyXQ (useX useQ : Bool) (f : T32g) : Option IllForm :=
  unused ([f.v.toNat, f.t.toNat, f.m.toNat, flag f.men, flag f.mn, f.imm.toNat]
    ++ (if useX then [] else [f.x.toNat]) ++ (if useQ then [] else [f.q.toNat]))

/-- The first defect of a decoded instruction (R43, R58 and the owning chapters), or none. A step without an encoding
has none. -/
def Instr.defect : Instr → Option IllForm
  | .clz f | .ctz f | .popc f | .jr f => unused [f.b.toNat]
  | .slli f | .srli f | .srai f => need .reservedValue (decide (f.imm.toNat ≤ 63))
  | .sget f => unused [f.a.toNat]
  | .sset f => unused [f.d.toNat]
  | .trap f => unused [f.d.toNat, f.a.toNat]
  | .lidx f => firstDefect [unused [f.a.toNat], need .reservedValue (decide (bitsOf f.imm.toNat 0 3 ≤ 5)),
      unused [bitsOf f.imm.toNat 4 18]]
  | .sel f => unused [f.imm.toNat]
  | .bfx f | .bfi f => firstDefect [unused [f.b.toNat, f.c.toNat],
      need .reservedValue (decide (bitsOf f.imm.toNat 0 6 + (bitsOf f.imm.toNat 6 6 + 1) ≤ 64))]
  | .bcc f => atMost f.cond 5
  | .jmp f => unused [f.a.toNat, f.b.toNat, f.cond.toNat]
  | .jal f | .loop f => unused [f.b.toNat, f.cond.toNat]
  | .loopi f => unused [f.a.toNat, f.b.toNat, f.cond.toNat]
  | .ld f => memRule true f
  | .st f => memRule false f
  | .fence f => firstDefect [unused [f.d.toNat, f.a.toNat, f.b.toNat, f.cc.toNat, f.imm.toNat], scopeRule f.scope]
  | .vlq f => vmemRule true false false f
  | .vlqs f | .vlqi f => vmemRule true true false f
  | .vlqx f | .vlqt f => vmemRule true true true f
  | .vsq f => vmemRule false false false f
  | .vsqs f | .vsqi f => vmemRule false true false f
  | .vsqx f => vmemRule false true true f
  | .vlqb f => blockRule true f
  | .vsqb f => blockRule false f
  | .vsetl f => firstDefect [unused [f.b.toNat, f.cc.toNat, f.scope.toNat], need .reservedValue (bitsOf f.imm.toNat 6 4 == 0)]
  | .lpreq f | .lprel f | .tgwait f | .rtsnap f | .fill f => onlyDA true true f
  | .cqpush f | .rtbias f => onlyDA false true f
  | .bqb f => onlyDA true false f
  | .tgdone f | .rtswap f => onlyDA false false f
  | .qslip f => unused [f.d.toNat, f.a.toNat, f.b.toNat, f.cc.toNat, f.scope.toNat]
  | .qdrain f => firstDefect [unused [f.d.toNat, f.a.toNat, f.b.toNat, f.cc.toNat, f.scope.toNat], atMost f.imm 511]
  | .cbatch f => unused [f.d.toNat, f.a.toNat, f.b.toNat, f.scope.toNat, f.imm.toNat]
  | .cwait f => unused [f.a.toNat, f.b.toNat, f.scope.toNat]
  | .ccget f => firstDefect [unused [f.a.toNat, f.b.toNat, f.scope.toNat], atMost f.imm 1]
  | .waitw f => firstDefect [unused [f.cc.toNat], need .reservedValue (decide (bitsOf f.imm.toNat 0 3 ≤ 5)),
      need .reservedValue (bitsOf f.imm.toNat 4 6 == 0), scopeRule f.scope]
  | .bar f => firstDefect [unused [f.d.toNat, f.a.toNat, f.b.toNat, f.cc.toNat], atMost f.imm 5, scopeRule f.scope]
  | .amo f => firstDefect [unused [f.c.toNat], atomicRule 9 [0, 1, 2, 3] f]
  | .amocas f => atomicRule 0 [0, 1, 2, 3] f
  | .red f => firstDefect [unused [f.d.toNat, bitsOf f.c.toNat 4 1], atomicRule 8 [0, 2] f]
  | .vamo f => vatomicRule true f
  | .vred f => vatomicRule false f
  | .mcas f => firstDefect [unused [f.b.toNat, f.cc.toNat, f.imm.toNat], scopeRule f.scope]
  | .cpy f | .cpy2 f | .cpyx f => unused [f.b.toNat, f.c.toNat, f.t.toNat, f.op.toNat, f.imm.toNat]
  | .put f | .get f => unused [f.b.toNat, f.c.toNat, f.t.toNat, flag f.mm, f.op.toNat, f.imm.toNat]
  | .rwmap f => firstDefect [unused [f.cc.toNat, f.t.toNat, flag f.mm, bitsOf f.op.toNat 1 3, bitsOf f.imm.toNat 4 2],
      need .unusedField (f.op != 0 || f.c == 0)]
  | .rwinv f => unused [f.a.toNat, f.b.toNat, f.c.toNat, f.cc.toNat, f.t.toNat, flag f.mm, f.op.toNat, bitsOf f.imm.toNat 4 2]
  | .pub f => unused [f.c.toNat, f.t.toNat, flag f.mm, f.op.toNat]
  | .edwait f => unused [f.c.toNat, f.cc.toNat, f.t.toNat, flag f.mm, f.op.toNat]
  | .edget f => unused [f.b.toNat, f.c.toNat, f.cc.toNat, f.t.toNat, flag f.mm, f.op.toNat]
  | .vcoll f => firstDefect [unused [flag f.mm], need .reservedValue (decide (bitsOf f.op.toNat 0 3 ≤ 4)), atMost f.t 2,
      need .reservedValue (!(bitsOf f.op.toNat 0 3 == 2 || bitsOf f.op.toNat 0 3 == 3) || f.t == 0)]
  | .ten f | .tdis f | .tsync f => firstDefect [matrixRule false false false true false false 0 f, unused [f.imm.toNat]]
  | .tzero f => firstDefect [matrixRule false false false true true false 0 f, unused [f.imm.toNat]]
  | .tmask f => firstDefect [matrixRule true true false true false false 0 f, unused [f.imm.toNat]]
  | .mma f => firstDefect [matrixRule true true true true true true 1 f, unused [f.imm.toNat]]
  | .mmag f => firstDefect [matrixRule true false false false true true 0 f, unused [f.imm.toNat]]
  | .tld f => firstDefect [matrixRule true true false true true true 1 f, unused [f.imm.toNat]]
  | .tst f => firstDefect [matrixRule true true true true true false 2 f,
      if bitsOf f.op.toNat 0 2 == 2 then atMost f.imm 6 else unused [f.c.toNat, f.imm.toNat]]
  | .tgpost f => firstDefect [unused [f.b.toNat, f.scope.toNat], atMost f.imm 1, need .unusedField (f.imm != 0 || f.cc == 0)]
  | .tghwm f => firstDefect [unused [f.d.toNat, f.b.toNat, f.cc.toNat, f.imm.toNat], scopeRule f.scope]
  | .rtcnt f => firstDefect [unused [f.a.toNat, f.b.toNat, f.cc.toNat, f.scope.toNat], atMost f.imm 1]
  | .vtake f | .cqpop f => onlyXQ true false f
  | .vtakeq f => onlyXQ true true f
  | .vqdrop f => onlyXQ false true f
  | .vbrq f => firstDefect [unused [f.v.toNat, f.t.toNat, f.q.toNat], need .reservedValue f.men, atMost f.imm 2]
  | .viq f => firstDefect [unused [f.v.toNat, f.t.toNat, f.q.toNat], maskRule f.m f.men f.mn]
  | .vadd f | .vsub f | .vmul f | .vmulh f | .vand f | .vor f | .vxor f | .vsll f | .vsrl f | .vsra f
  | .vmin f | .vmax f | .vminu f | .vmaxu f => elem2 true true .none f
  | .vcmp f => compareRule .none 9 f
  | .vsel f => firstDefect [elem2 true true .none f, need .reservedValue f.men]
  | .vmv f => elem2 true false .none f
  | .vbc f => firstDefect [elem2 true true .none f, need .operandRole (VSpec.isBcast f.vb)]
  | .vid f | .viota f => elem2 false false .none f
  | .vicvt f => elem3 false false .none 15 f
  | .vfadd f | .vfsub f | .vfmul f | .vfdiv f => elem2 true true .both f
  | .vfma f | .vfms f | .vfnma f => elem3 true true .both 0 f
  | .vfsqrt f => elem2 true false .both f
  | .vfmin f | .vfmax f => elem2 true true .exc f
  | .vfsgn f => elem2 true true .none f
  | .vfcmp f => compareRule .exc 7 f
  | .vfcvt f => elem3 false false .both 13 f
  | .vfclass f => elem3 false false .none 0 f
  | .vfexp2 f | .vflog2 f | .vfrcp f | .vfrsq f | .vftanh f | .vfsigm f | .vferf f => elem2 true false .exc f
  | .vcompress f => firstDefect ([need .operandRole (VSpec.isReg f.vd && VSpec.isSrc f.va),
      unused [f.vb.toNat, f.vc.toNat, f.fn.toNat], maskRule f.m f.men f.mn] ++ rndRule .none f.rm f.e f.me)
  | .vexpand f => elem2 true false .none f
  | .vslup f | .vsldn f => firstDefect ([need .operandRole (VSpec.isDst f.vd && VSpec.isSrc f.va && VSpec.isSrc f.vb),
      unused [f.vc.toNat, f.fn.toNat], need .samePop (popsDiffer [f.va, f.vb]), maskRule f.m f.men f.mn]
      ++ rndRule .none f.rm f.e f.me)
  | .vrgat f => elem2 true true .none f
  | .vext f => firstDefect ([need .operandRole (VSpec.isSrc f.va && VSpec.isBcast f.vb), unused [f.vd.toNat, f.vc.toNat],
      atMost f.fn 1, noMask f.m f.men f.mn] ++ rndRule .none f.rm f.e f.me)
  | .vins f => firstDefect ([need .operandRole (VSpec.isReg f.vd && VSpec.isBcast f.vb),
      unused [f.va.toNat, f.vc.toNat, f.fn.toNat], noMask f.m f.men f.mn] ++ rndRule .none f.rm f.e f.me)
  | .vredsum f => reduceRule .none 0 f
  | .vredmax f | .vredmin f => reduceRule .none 1 f
  | .vfredsum f => reduceRule .both 0 f
  | .vfredmax f | .vfredmin f => reduceRule .both 0 f
  | .vscan f => scanRule .none 4 f
  | .vfscan f => scanRule .both 2 f
  | .mand f | .mor f | .mxor f => unused [f.x.toNat]
  | .mnot f => unused [f.mb.toNat, f.x.toNat]
  | .mpop f | .mfirst f => unused [f.md.toNat, f.mb.toNat]
  | .mset f => unused [f.ma.toNat, f.mb.toNat]
  | .vtrd f | .vtcd f => sliceRule true f
  | .vtwr f => sliceRule false f
  | .vrins f => firstDefect ([need .operandRole (VSpec.isReg f.vd && VSpec.isReg f.vc && VSpec.isSrc f.va), unused [f.vb.toNat],
      atMost f.fn 7, maskRule f.m f.men f.mn] ++ rndRule .none f.rm f.e f.me)
  | .vrcls f => elem3 false false .none 0 f
  | .vrpick f => firstDefect ([need .operandRole (VSpec.isReg f.vd && VSpec.isReg f.vc && VSpec.isSrc f.va),
      unused [f.vb.toNat, f.fn.toNat], need .reservedValue (!f.men), noMask f.m f.men f.mn] ++ rndRule .none f.rm f.e f.me)
  | .tlbinv f => firstDefect [unused [f.d.toNat], atMost f.imm 2,
      need .reservedValue (decide (3 ≤ f.scope.toNat) && decide (f.scope.toNat ≤ 5)),
      need .unusedField (f.imm == 0 || f.a == 0), need .unusedField (decide (f.imm.toNat ≤ 1) || f.b == 0)]
  | .crsave f | .crload f => firstDefect [unused [f.d.toNat, f.scope.toNat], atMost f.imm 1,
      need .unusedField (f.imm != 0 || f.b == 0)]
  | .nop | .exit | .yield | .bkpt | .lbrk | .add _ | .sub _ | .mul _ | .mulh _ | .mulhu _ | .div _ | .divu _
  | .rem _ | .remu _ | .and _ | .or _ | .xor _ | .andn _ | .sll _ | .srl _ | .sra _ | .min _ | .max _ | .minu _
  | .maxu _ | .slt _ | .sltu _ | .seq _ | .addi _ | .andi _ | .ori _ | .xori _ | .li _ | .lih _ | .eret | .idle => none
  | .vsetlGrant .. | .waitwReread .. | .barrierRelease .. | .divisionStart .. | .divisionResult ..
  | .viqHeadIssue .. | .elementGroupAdvance .. | .coreClassRaiseComplete .. | .coreClassFallComplete ..
  | .loadTokenPush .. | .vectorStorePerform .. | .wcbLineDrain .. | .scTicketDraw .. | .homeAccessPerform ..
  | .accessReplyReturn .. | .readSpan .. | .ownSpan .. | .writeBackSpan .. | .invalidateSpan ..
  | .atomicPerform .. | .contributionAccept .. | .chainClose .. | .mcasHomeLock .. | .mcasDecision ..
  | .mcasHomeUnlock .. | .mcasFinish .. | .mcasDarkRelease .. | .packetReceive .. | .versionNackReceive ..
  | .packetResend .. | .creditReturnReceive .. | .flitAcknowledge .. | .laneDark .. | .pathDarkMark ..
  | .darkRequestTimeout .. | .windowBlockFill .. | .windowBlockEviction .. | .publicationAccept ..
  | .publicationPacketLand .. | .copyJobTake .. | .jobPacketLand .. | .jobSignalWrite .. | .followOnPlace ..
  | .collectiveContributionArrive .. | .collectiveResultArrive .. | .failureNoticeReceive ..
  | .matrixCommandStart .. | .mmaBlockRowComplete .. | .matrixCommandComplete .. | .gangStepStart ..
  | .nodePost .. | .nodeDispatch .. | .crewPlacement .. | .crewStart .. | .highWaterArrive .. | .crewRetire ..
  | .pageWalkStart .. | .pageWalkComplete .. | .tlbinvTargetDrop .. | .runOnStop .. | .runOnLimit ..
  | .trapRecordWrite .. | .latchTake .. | .tctlPreempt .. | .preemptStop .. | .tctlEnd .. | .crewEndComplete ..
  | .targetEpcWrite .. | .contextSaveWrite .. | .contextLoadComplete .. | .pswapGo .. | .pswapClear ..
  | .pswapDone .. | .lpartWrite .. | .partitionTableWrite .. | .groupEntryWrite .. | .publicationEntryWrite ..
  | .subscriptionEntryWrite .. | .qpEntryWrite .. | .keyEntryWrite .. | .routeEntryWrite ..
  | .linkTrainingComplete .. | .sysCfailRead .. | .sysTdropRead .. | .portDropsRead .. | .droopCounterRead ..
  | .ptpSecondsRead .. | .circuitChangeRequest .. | .peerChangeRequestReceive .. | .grantReceive ..
  | .grantTimeout .. | .drainMarkerArrive .. | .drainTimeout .. | .mirrorNoticeReceive .. | .mirrorTimeout ..
  | .trainingPhaseEnd .. | .coldReset .. | .attestationRequest .. | .attestationComplete .. | .hbmScrubRead ..
  | .rdmaWrite .. | .rdmaReadRequest .. | .compareAndSwap .. | .fetchAndAdd .. | .arpRequest ..
  | .neighbourSolicitation .. | .priorityFlowControlFrame .. | .ethernetFrameDrop .. | .sync .. | .followUp ..
  | .delayReq .. | .delayResp .. | .announce .. | .telemetrySampleCommand .. | .diePowerSample ..
  | .telemetryRecordWrite .. | .limiterInterval .. | .floorArrive .. | .rampWrite .. | .droopDetect ..
  | .signatureWindowEnd .. | .throttleEnd .. | .droopTableClear .. | .laneGroupGate .. | .laneGroupWake ..
  | .vfChangeRequest .. | .vfChangeComplete .. | .junctionCap .. | .thermalTrip .. | .portLinkTrained ..
  | .portLinkLoss .. | .lossOfSupply .. => none

/-- The instruction passes every check (R43). -/
def Instr.wellFormed (i : Instr) : Bool := i.defect == none

end Sys2Proof
end

