-- ==== Sys2Proof/Decode.lean ====
section
/-!
DEFINITION. Decode: from the bytes of a line to an instruction or a named refusal (R36 to R60), and the encoder written
from the same tables. No field of an encoding is read anywhere else.
-/
namespace Sys2Proof

/-- The fields of a T16a tail (R57). -/
def T16a.unpack (t : Nat) : T16a :=
  { d := field t 0 5, a := field t 5 5, b := field t 10 5 }

/-- The T16a tail of these fields; reserved bits are zero (R57). -/
def T16a.pack (f : T16a) : Nat :=
  f.d.toNat + f.a.toNat * 2 ^ 5 + f.b.toNat * 2 ^ 10

/-- The fields of a T16b tail (R57). -/
def T16b.unpack (t : Nat) : T16b :=
  { md := field t 0 3, ma := field t 3 3, mb := field t 6 3, x := field t 9 5 }

/-- The T16b tail of these fields; reserved bits are zero (R57). -/
def T16b.pack (f : T16b) : Nat :=
  f.md.toNat + f.ma.toNat * 2 ^ 3 + f.mb.toNat * 2 ^ 6 + f.x.toNat * 2 ^ 9

/-- The fields of a T32a tail (R57). -/
def T32a.unpack (t : Nat) : T32a :=
  { d := field t 0 5, a := field t 5 5, imm := field t 10 22 }

/-- The T32a tail of these fields; reserved bits are zero (R57). -/
def T32a.pack (f : T32a) : Nat :=
  f.d.toNat + f.a.toNat * 2 ^ 5 + f.imm.toNat * 2 ^ 10

/-- The fields of a T32b tail (R57). -/
def T32b.unpack (t : Nat) : T32b :=
  { a := field t 0 5, b := field t 5 5, cond := field t 10 3, slot := field t 13 5, disp := field t 18 14 }

/-- The T32b tail of these fields; reserved bits are zero (R57). -/
def T32b.pack (f : T32b) : Nat :=
  f.a.toNat + f.b.toNat * 2 ^ 5 + f.cond.toNat * 2 ^ 10 + f.slot.toNat * 2 ^ 13 + f.disp.toNat * 2 ^ 18

/-- The fields of a T32c tail (R57). -/
def T32c.unpack (t : Nat) : T32c :=
  { d := field t 0 5, a := field t 5 5, b := field t 10 5, c := field t 15 5, imm := field t 20 12 }

/-- The T32c tail of these fields; reserved bits are zero (R57). -/
def T32c.pack (f : T32c) : Nat :=
  f.d.toNat + f.a.toNat * 2 ^ 5 + f.b.toNat * 2 ^ 10 + f.c.toNat * 2 ^ 15 + f.imm.toNat * 2 ^ 20

/-- The fields of a T32d tail (R57). -/
def T32d.unpack (t : Nat) : T32d :=
  { vd := field t 0 7, va := field t 7 7, vb := field t 14 7, m := field t 21 3, men := bitOf t 24,
    mn := bitOf t 25, rm := field t 26 2, e := bitOf t 28, me := field t 29 3 }

/-- The T32d tail of these fields; reserved bits are zero (R57). -/
def T32d.pack (f : T32d) : Nat :=
  f.vd.toNat + f.va.toNat * 2 ^ 7 + f.vb.toNat * 2 ^ 14 + f.m.toNat * 2 ^ 21 + flag f.men * 2 ^ 24 +
  flag f.mn * 2 ^ 25 + f.rm.toNat * 2 ^ 26 + flag f.e * 2 ^ 28 + f.me.toNat * 2 ^ 29

/-- The fields of a T32e tail (R57). -/
def T32e.unpack (t : Nat) : T32e :=
  { d := field t 0 5, a := field t 5 5, b := field t 10 5, cc := field t 15 4, scope := field t 19 3,
    imm := field t 22 10 }

/-- The T32e tail of these fields; reserved bits are zero (R57). -/
def T32e.pack (f : T32e) : Nat :=
  f.d.toNat + f.a.toNat * 2 ^ 5 + f.b.toNat * 2 ^ 10 + f.cc.toNat * 2 ^ 15 + f.scope.toNat * 2 ^ 19 +
  f.imm.toNat * 2 ^ 22

/-- The fields of a T32f tail (R57). -/
def T32f.unpack (t : Nat) : T32f :=
  { a := field t 0 5, b := field t 5 5, c := field t 10 5, cc := field t 15 4, t := field t 19 2,
    mm := bitOf t 21, op := field t 22 4, imm := field t 26 6 }

/-- The T32f tail of these fields; reserved bits are zero (R57). -/
def T32f.pack (f : T32f) : Nat :=
  f.a.toNat + f.b.toNat * 2 ^ 5 + f.c.toNat * 2 ^ 10 + f.cc.toNat * 2 ^ 15 + f.t.toNat * 2 ^ 19 +
  flag f.mm * 2 ^ 21 + f.op.toNat * 2 ^ 22 + f.imm.toNat * 2 ^ 26

/-- The fields of a T32g tail (R57). -/
def T32g.unpack (t : Nat) : T32g :=
  { v := field t 0 7, x := field t 7 5, t := field t 12 2, m := field t 14 3, men := bitOf t 17,
    mn := bitOf t 18, q := field t 19 3, imm := field t 22 10 }

/-- The T32g tail of these fields; reserved bits are zero (R57). -/
def T32g.pack (f : T32g) : Nat :=
  f.v.toNat + f.x.toNat * 2 ^ 7 + f.t.toNat * 2 ^ 12 + f.m.toNat * 2 ^ 14 + flag f.men * 2 ^ 17 +
  flag f.mn * 2 ^ 18 + f.q.toNat * 2 ^ 19 + f.imm.toNat * 2 ^ 22

/-- The fields of a T48a tail (R57). -/
def T48a.unpack (t : Nat) : T48a :=
  { d := field t 0 5, imm := field t 16 32 }

/-- The T48a tail of these fields; reserved bits are zero (R57). -/
def T48a.pack (f : T48a) : Nat :=
  f.d.toNat + f.imm.toNat * 2 ^ 16

/-- The fields of a T48b tail (R57). -/
def T48b.unpack (t : Nat) : T48b :=
  { vd := field t 0 7, va := field t 7 7, vb := field t 14 7, vc := field t 21 7, m := field t 28 3,
    men := bitOf t 31, mn := bitOf t 32, rm := field t 33 2, e := bitOf t 35, me := field t 36 3,
    x := field t 39 5, fn := field t 44 4 }

/-- The T48b tail of these fields; reserved bits are zero (R57). -/
def T48b.pack (f : T48b) : Nat :=
  f.vd.toNat + f.va.toNat * 2 ^ 7 + f.vb.toNat * 2 ^ 14 + f.vc.toNat * 2 ^ 21 + f.m.toNat * 2 ^ 28 +
  flag f.men * 2 ^ 31 + flag f.mn * 2 ^ 32 + f.rm.toNat * 2 ^ 33 + flag f.e * 2 ^ 35 + f.me.toNat * 2 ^ 36 +
  f.x.toNat * 2 ^ 39 + f.fn.toNat * 2 ^ 44

/-- The fields of a T48c tail (R57). -/
def T48c.unpack (t : Nat) : T48c :=
  { d := field t 0 5, a := field t 5 5, b := field t 10 5, c := field t 15 5, cc := field t 20 4,
    nb := bitOf t 24, ff := bitOf t 25, sc := bitOf t 26, w := field t 27 2, sx := bitOf t 29,
    ord := field t 30 2, scope := field t 32 3, imm := field t 35 13 }

/-- The T48c tail of these fields; reserved bits are zero (R57). -/
def T48c.pack (f : T48c) : Nat :=
  f.d.toNat + f.a.toNat * 2 ^ 5 + f.b.toNat * 2 ^ 10 + f.c.toNat * 2 ^ 15 + f.cc.toNat * 2 ^ 20 +
  flag f.nb * 2 ^ 24 + flag f.ff * 2 ^ 25 + flag f.sc * 2 ^ 26 + f.w.toNat * 2 ^ 27 + flag f.sx * 2 ^ 29 +
  f.ord.toNat * 2 ^ 30 + f.scope.toNat * 2 ^ 32 + f.imm.toNat * 2 ^ 35

/-- The fields of a T48d tail (R57). -/
def T48d.unpack (t : Nat) : T48d :=
  { a := field t 0 5, b := field t 5 5, cond := field t 10 3, slot := field t 13 5, disp := field t 18 14,
    imm := field t 32 16 }

/-- The T48d tail of these fields; reserved bits are zero (R57). -/
def T48d.pack (f : T48d) : Nat :=
  f.a.toNat + f.b.toNat * 2 ^ 5 + f.cond.toNat * 2 ^ 10 + f.slot.toNat * 2 ^ 13 + f.disp.toNat * 2 ^ 18 +
  f.imm.toNat * 2 ^ 32

/-- The fields of a T48e tail (R57). -/
def T48e.unpack (t : Nat) : T48e :=
  { d := field t 0 5, a := field t 5 5, b := field t 10 5, cc := field t 15 4, nb := bitOf t 19,
    ff := bitOf t 20, bf := bitOf t 21, mw := field t 22 3 }

/-- The T48e tail of these fields; reserved bits are zero (R57). -/
def T48e.pack (f : T48e) : Nat :=
  f.d.toNat + f.a.toNat * 2 ^ 5 + f.b.toNat * 2 ^ 10 + f.cc.toNat * 2 ^ 15 + flag f.nb * 2 ^ 19 +
  flag f.ff * 2 ^ 20 + flag f.bf * 2 ^ 21 + f.mw.toNat * 2 ^ 22

/-- A row of the opcode map (R60): opcode, tail length in half-words, and the instruction of a tail. -/
structure OpRow where
  op    : Nat
  tl    : Nat
  build : Nat → Instr

/-- Opcodes 0x000 to 0x00F. -/
def opRows00 : List OpRow :=
  [⟨0x000, 0, fun _ => .nop⟩,
   ⟨0x001, 0, fun _ => .exit⟩,
   ⟨0x002, 0, fun _ => .yield⟩,
   ⟨0x003, 0, fun _ => .bkpt⟩,
   ⟨0x004, 0, fun _ => .lbrk⟩,
   ⟨0x008, 1, fun t => .add (T16a.unpack t)⟩,
   ⟨0x009, 1, fun t => .sub (T16a.unpack t)⟩,
   ⟨0x00A, 1, fun t => .mul (T16a.unpack t)⟩,
   ⟨0x00B, 1, fun t => .mulh (T16a.unpack t)⟩,
   ⟨0x00C, 1, fun t => .mulhu (T16a.unpack t)⟩,
   ⟨0x00D, 1, fun t => .div (T16a.unpack t)⟩,
   ⟨0x00E, 1, fun t => .divu (T16a.unpack t)⟩,
   ⟨0x00F, 1, fun t => .rem (T16a.unpack t)⟩]

/-- Opcodes 0x010 to 0x01F. -/
def opRows01 : List OpRow :=
  [⟨0x010, 1, fun t => .remu (T16a.unpack t)⟩,
   ⟨0x011, 1, fun t => .and (T16a.unpack t)⟩,
   ⟨0x012, 1, fun t => .or (T16a.unpack t)⟩,
   ⟨0x013, 1, fun t => .xor (T16a.unpack t)⟩,
   ⟨0x014, 1, fun t => .andn (T16a.unpack t)⟩,
   ⟨0x015, 1, fun t => .sll (T16a.unpack t)⟩,
   ⟨0x016, 1, fun t => .srl (T16a.unpack t)⟩,
   ⟨0x017, 1, fun t => .sra (T16a.unpack t)⟩,
   ⟨0x018, 1, fun t => .min (T16a.unpack t)⟩,
   ⟨0x019, 1, fun t => .max (T16a.unpack t)⟩,
   ⟨0x01A, 1, fun t => .minu (T16a.unpack t)⟩,
   ⟨0x01B, 1, fun t => .maxu (T16a.unpack t)⟩,
   ⟨0x01C, 1, fun t => .slt (T16a.unpack t)⟩,
   ⟨0x01D, 1, fun t => .sltu (T16a.unpack t)⟩,
   ⟨0x01E, 1, fun t => .seq (T16a.unpack t)⟩]

/-- Opcodes 0x020 to 0x02F. -/
def opRows02 : List OpRow :=
  [⟨0x020, 1, fun t => .clz (T16a.unpack t)⟩,
   ⟨0x021, 1, fun t => .ctz (T16a.unpack t)⟩,
   ⟨0x022, 1, fun t => .popc (T16a.unpack t)⟩,
   ⟨0x023, 1, fun t => .jr (T16a.unpack t)⟩,
   ⟨0x028, 2, fun t => .addi (T32a.unpack t)⟩,
   ⟨0x029, 2, fun t => .andi (T32a.unpack t)⟩,
   ⟨0x02A, 2, fun t => .ori (T32a.unpack t)⟩,
   ⟨0x02B, 2, fun t => .xori (T32a.unpack t)⟩,
   ⟨0x02C, 2, fun t => .slli (T32a.unpack t)⟩,
   ⟨0x02D, 2, fun t => .srli (T32a.unpack t)⟩,
   ⟨0x02E, 2, fun t => .srai (T32a.unpack t)⟩,
   ⟨0x02F, 2, fun t => .sget (T32a.unpack t)⟩]

/-- Opcodes 0x030 to 0x03F. -/
def opRows03 : List OpRow :=
  [⟨0x030, 2, fun t => .sset (T32a.unpack t)⟩,
   ⟨0x031, 2, fun t => .trap (T32a.unpack t)⟩,
   ⟨0x032, 2, fun t => .lidx (T32a.unpack t)⟩,
   ⟨0x038, 2, fun t => .sel (T32c.unpack t)⟩,
   ⟨0x039, 2, fun t => .bfx (T32c.unpack t)⟩,
   ⟨0x03A, 2, fun t => .bfi (T32c.unpack t)⟩]

/-- Opcodes 0x040 to 0x04F. -/
def opRows04 : List OpRow :=
  [⟨0x040, 2, fun t => .bcc (T32b.unpack t)⟩,
   ⟨0x041, 2, fun t => .jmp (T32b.unpack t)⟩,
   ⟨0x042, 2, fun t => .jal (T32b.unpack t)⟩,
   ⟨0x043, 2, fun t => .loop (T32b.unpack t)⟩,
   ⟨0x048, 3, fun t => .loopi (T48d.unpack t)⟩]

/-- Opcodes 0x050 to 0x05F. -/
def opRows05 : List OpRow :=
  [⟨0x050, 3, fun t => .li (T48a.unpack t)⟩,
   ⟨0x051, 3, fun t => .lih (T48a.unpack t)⟩]

/-- Opcodes 0x100 to 0x10F. -/
def opRows10 : List OpRow :=
  [⟨0x100, 3, fun t => .ld (T48c.unpack t)⟩,
   ⟨0x101, 3, fun t => .st (T48c.unpack t)⟩,
   ⟨0x102, 2, fun t => .fence (T32e.unpack t)⟩,
   ⟨0x108, 3, fun t => .vlq (T48c.unpack t)⟩,
   ⟨0x109, 3, fun t => .vlqs (T48c.unpack t)⟩,
   ⟨0x10A, 3, fun t => .vlqx (T48c.unpack t)⟩,
   ⟨0x10B, 3, fun t => .vlqi (T48c.unpack t)⟩,
   ⟨0x10C, 3, fun t => .vlqt (T48c.unpack t)⟩,
   ⟨0x10D, 3, fun t => .vsq (T48c.unpack t)⟩,
   ⟨0x10E, 3, fun t => .vsqs (T48c.unpack t)⟩,
   ⟨0x10F, 3, fun t => .vsqx (T48c.unpack t)⟩]

/-- Opcodes 0x110 to 0x11F. -/
def opRows11 : List OpRow :=
  [⟨0x110, 3, fun t => .vsqi (T48c.unpack t)⟩,
   ⟨0x111, 3, fun t => .vlqb (T48e.unpack t)⟩,
   ⟨0x112, 3, fun t => .vsqb (T48e.unpack t)⟩,
   ⟨0x118, 2, fun t => .vsetl (T32e.unpack t)⟩,
   ⟨0x119, 2, fun t => .lpreq (T32e.unpack t)⟩,
   ⟨0x11A, 2, fun t => .lprel (T32e.unpack t)⟩,
   ⟨0x11B, 2, fun t => .cqpush (T32e.unpack t)⟩,
   ⟨0x11C, 2, fun t => .bqb (T32e.unpack t)⟩,
   ⟨0x11D, 2, fun t => .qslip (T32e.unpack t)⟩,
   ⟨0x11E, 2, fun t => .qdrain (T32e.unpack t)⟩]

/-- Opcodes 0x120 to 0x12F. -/
def opRows12 : List OpRow :=
  [⟨0x120, 2, fun t => .cbatch (T32e.unpack t)⟩,
   ⟨0x121, 2, fun t => .cwait (T32e.unpack t)⟩,
   ⟨0x122, 2, fun t => .ccget (T32e.unpack t)⟩,
   ⟨0x123, 2, fun t => .waitw (T32e.unpack t)⟩,
   ⟨0x124, 2, fun t => .bar (T32e.unpack t)⟩,
   ⟨0x128, 2, fun t => .amo (T32c.unpack t)⟩,
   ⟨0x129, 2, fun t => .amocas (T32c.unpack t)⟩,
   ⟨0x12A, 2, fun t => .red (T32c.unpack t)⟩,
   ⟨0x12B, 3, fun t => .vamo (T48c.unpack t)⟩,
   ⟨0x12C, 3, fun t => .vred (T48c.unpack t)⟩,
   ⟨0x12D, 2, fun t => .mcas (T32e.unpack t)⟩]

/-- Opcodes 0x130 to 0x13F. -/
def opRows13 : List OpRow :=
  [⟨0x130, 2, fun t => .cpy (T32f.unpack t)⟩,
   ⟨0x131, 2, fun t => .cpy2 (T32f.unpack t)⟩,
   ⟨0x132, 2, fun t => .cpyx (T32f.unpack t)⟩,
   ⟨0x133, 2, fun t => .put (T32f.unpack t)⟩,
   ⟨0x134, 2, fun t => .get (T32f.unpack t)⟩,
   ⟨0x138, 2, fun t => .rwmap (T32f.unpack t)⟩,
   ⟨0x139, 2, fun t => .rwinv (T32f.unpack t)⟩,
   ⟨0x13A, 2, fun t => .pub (T32f.unpack t)⟩,
   ⟨0x13B, 2, fun t => .edwait (T32f.unpack t)⟩,
   ⟨0x13C, 2, fun t => .edget (T32f.unpack t)⟩]

/-- Opcodes 0x140 to 0x14F. -/
def opRows14 : List OpRow :=
  [⟨0x140, 2, fun t => .vcoll (T32f.unpack t)⟩,
   ⟨0x148, 2, fun t => .ten (T32f.unpack t)⟩,
   ⟨0x149, 2, fun t => .tdis (T32f.unpack t)⟩,
   ⟨0x14A, 2, fun t => .tzero (T32f.unpack t)⟩,
   ⟨0x14B, 2, fun t => .tmask (T32f.unpack t)⟩,
   ⟨0x14C, 2, fun t => .mma (T32f.unpack t)⟩,
   ⟨0x14D, 2, fun t => .mmag (T32f.unpack t)⟩,
   ⟨0x14E, 2, fun t => .tld (T32f.unpack t)⟩,
   ⟨0x14F, 2, fun t => .tst (T32f.unpack t)⟩]

/-- Opcodes 0x150 to 0x15F. -/
def opRows15 : List OpRow :=
  [⟨0x150, 2, fun t => .tsync (T32f.unpack t)⟩,
   ⟨0x158, 2, fun t => .tgpost (T32e.unpack t)⟩,
   ⟨0x159, 2, fun t => .tgdone (T32e.unpack t)⟩,
   ⟨0x15A, 2, fun t => .tghwm (T32e.unpack t)⟩,
   ⟨0x15B, 2, fun t => .tgwait (T32e.unpack t)⟩]

/-- Opcodes 0x160 to 0x16F. -/
def opRows16 : List OpRow :=
  [⟨0x160, 2, fun t => .rtcnt (T32e.unpack t)⟩,
   ⟨0x161, 2, fun t => .rtsnap (T32e.unpack t)⟩,
   ⟨0x162, 2, fun t => .rtbias (T32e.unpack t)⟩,
   ⟨0x163, 2, fun t => .rtswap (T32e.unpack t)⟩]

/-- Opcodes 0x200 to 0x20F. -/
def opRows20 : List OpRow :=
  [⟨0x200, 2, fun t => .vtake (T32g.unpack t)⟩,
   ⟨0x201, 2, fun t => .vtakeq (T32g.unpack t)⟩,
   ⟨0x202, 2, fun t => .cqpop (T32g.unpack t)⟩,
   ⟨0x203, 2, fun t => .vbrq (T32g.unpack t)⟩,
   ⟨0x204, 2, fun t => .viq (T32g.unpack t)⟩,
   ⟨0x205, 2, fun t => .vqdrop (T32g.unpack t)⟩]

/-- Opcodes 0x210 to 0x21F. -/
def opRows21 : List OpRow :=
  [⟨0x210, 2, fun t => .vadd (T32d.unpack t)⟩,
   ⟨0x211, 2, fun t => .vsub (T32d.unpack t)⟩,
   ⟨0x212, 2, fun t => .vmul (T32d.unpack t)⟩,
   ⟨0x213, 2, fun t => .vmulh (T32d.unpack t)⟩,
   ⟨0x214, 2, fun t => .vand (T32d.unpack t)⟩,
   ⟨0x215, 2, fun t => .vor (T32d.unpack t)⟩,
   ⟨0x216, 2, fun t => .vxor (T32d.unpack t)⟩,
   ⟨0x217, 2, fun t => .vsll (T32d.unpack t)⟩,
   ⟨0x218, 2, fun t => .vsrl (T32d.unpack t)⟩,
   ⟨0x219, 2, fun t => .vsra (T32d.unpack t)⟩,
   ⟨0x21A, 2, fun t => .vmin (T32d.unpack t)⟩,
   ⟨0x21B, 2, fun t => .vmax (T32d.unpack t)⟩,
   ⟨0x21C, 2, fun t => .vminu (T32d.unpack t)⟩,
   ⟨0x21D, 2, fun t => .vmaxu (T32d.unpack t)⟩,
   ⟨0x21E, 3, fun t => .vcmp (T48b.unpack t)⟩,
   ⟨0x21F, 2, fun t => .vsel (T32d.unpack t)⟩]

/-- Opcodes 0x220 to 0x22F. -/
def opRows22 : List OpRow :=
  [⟨0x220, 2, fun t => .vmv (T32d.unpack t)⟩,
   ⟨0x221, 2, fun t => .vbc (T32d.unpack t)⟩,
   ⟨0x222, 2, fun t => .vid (T32d.unpack t)⟩,
   ⟨0x223, 2, fun t => .viota (T32d.unpack t)⟩,
   ⟨0x224, 3, fun t => .vicvt (T48b.unpack t)⟩]

/-- Opcodes 0x230 to 0x23F. -/
def opRows23 : List OpRow :=
  [⟨0x230, 2, fun t => .vfadd (T32d.unpack t)⟩,
   ⟨0x231, 2, fun t => .vfsub (T32d.unpack t)⟩,
   ⟨0x232, 2, fun t => .vfmul (T32d.unpack t)⟩,
   ⟨0x233, 3, fun t => .vfma (T48b.unpack t)⟩,
   ⟨0x234, 3, fun t => .vfms (T48b.unpack t)⟩,
   ⟨0x235, 3, fun t => .vfnma (T48b.unpack t)⟩,
   ⟨0x236, 2, fun t => .vfdiv (T32d.unpack t)⟩,
   ⟨0x237, 2, fun t => .vfsqrt (T32d.unpack t)⟩,
   ⟨0x238, 2, fun t => .vfmin (T32d.unpack t)⟩,
   ⟨0x239, 2, fun t => .vfmax (T32d.unpack t)⟩,
   ⟨0x23A, 2, fun t => .vfsgn (T32d.unpack t)⟩,
   ⟨0x23B, 3, fun t => .vfcmp (T48b.unpack t)⟩,
   ⟨0x23C, 3, fun t => .vfcvt (T48b.unpack t)⟩,
   ⟨0x23D, 3, fun t => .vfclass (T48b.unpack t)⟩]

/-- Opcodes 0x240 to 0x24F. -/
def opRows24 : List OpRow :=
  [⟨0x240, 2, fun t => .vfexp2 (T32d.unpack t)⟩,
   ⟨0x241, 2, fun t => .vflog2 (T32d.unpack t)⟩,
   ⟨0x242, 2, fun t => .vfrcp (T32d.unpack t)⟩,
   ⟨0x243, 2, fun t => .vfrsq (T32d.unpack t)⟩,
   ⟨0x244, 2, fun t => .vftanh (T32d.unpack t)⟩,
   ⟨0x245, 2, fun t => .vfsigm (T32d.unpack t)⟩,
   ⟨0x246, 2, fun t => .vferf (T32d.unpack t)⟩]

/-- Opcodes 0x250 to 0x25F. -/
def opRows25 : List OpRow :=
  [⟨0x250, 3, fun t => .vcompress (T48b.unpack t)⟩,
   ⟨0x251, 2, fun t => .vexpand (T32d.unpack t)⟩,
   ⟨0x252, 3, fun t => .vslup (T48b.unpack t)⟩,
   ⟨0x253, 3, fun t => .vsldn (T48b.unpack t)⟩,
   ⟨0x254, 2, fun t => .vrgat (T32d.unpack t)⟩,
   ⟨0x255, 3, fun t => .vext (T48b.unpack t)⟩,
   ⟨0x256, 3, fun t => .vins (T48b.unpack t)⟩,
   ⟨0x258, 3, fun t => .vredsum (T48b.unpack t)⟩,
   ⟨0x259, 3, fun t => .vredmax (T48b.unpack t)⟩,
   ⟨0x25A, 3, fun t => .vredmin (T48b.unpack t)⟩,
   ⟨0x25B, 3, fun t => .vfredsum (T48b.unpack t)⟩,
   ⟨0x25C, 3, fun t => .vfredmax (T48b.unpack t)⟩,
   ⟨0x25D, 3, fun t => .vfredmin (T48b.unpack t)⟩,
   ⟨0x25E, 3, fun t => .vscan (T48b.unpack t)⟩,
   ⟨0x25F, 3, fun t => .vfscan (T48b.unpack t)⟩]

/-- Opcodes 0x260 to 0x26F. -/
def opRows26 : List OpRow :=
  [⟨0x260, 1, fun t => .mand (T16b.unpack t)⟩,
   ⟨0x261, 1, fun t => .mor (T16b.unpack t)⟩,
   ⟨0x262, 1, fun t => .mxor (T16b.unpack t)⟩,
   ⟨0x263, 1, fun t => .mnot (T16b.unpack t)⟩,
   ⟨0x264, 1, fun t => .mpop (T16b.unpack t)⟩,
   ⟨0x265, 1, fun t => .mfirst (T16b.unpack t)⟩,
   ⟨0x266, 1, fun t => .mset (T16b.unpack t)⟩,
   ⟨0x268, 2, fun t => .vtrd (T32g.unpack t)⟩,
   ⟨0x269, 2, fun t => .vtcd (T32g.unpack t)⟩,
   ⟨0x26A, 2, fun t => .vtwr (T32g.unpack t)⟩]

/-- Opcodes 0x270 to 0x27F. -/
def opRows27 : List OpRow :=
  [⟨0x270, 3, fun t => .vrins (T48b.unpack t)⟩,
   ⟨0x271, 3, fun t => .vrcls (T48b.unpack t)⟩,
   ⟨0x272, 3, fun t => .vrpick (T48b.unpack t)⟩]

/-- Opcodes 0x300 to 0x30F. -/
def opRows30 : List OpRow :=
  [⟨0x300, 0, fun _ => .eret⟩,
   ⟨0x301, 0, fun _ => .idle⟩,
   ⟨0x308, 2, fun t => .tlbinv (T32e.unpack t)⟩,
   ⟨0x309, 2, fun t => .crsave (T32e.unpack t)⟩,
   ⟨0x30A, 2, fun t => .crload (T32e.unpack t)⟩,
   ⟨0x30B, 2, fun t => .fill (T32e.unpack t)⟩]

/-- The opcode map (R60). -/
def opcodeMap : List OpRow :=
  opRows00 ++ opRows01 ++ opRows02 ++ opRows03 ++ opRows04 ++ opRows05 ++ opRows10 ++ opRows11
    ++ opRows12 ++ opRows13 ++ opRows14 ++ opRows15 ++ opRows16 ++ opRows20 ++ opRows21 ++ opRows22
    ++ opRows23 ++ opRows24 ++ opRows25 ++ opRows26 ++ opRows27 ++ opRows30

/-- The row of an opcode in a list of rows. -/
def findRow (op : Nat) : List OpRow → Option OpRow
  | [] => none
  | r :: rs => if r.op = op then some r else findRow op rs

/-- The opcode of an instruction; a step without an encoding has none (R60). -/
def Instr.opcode : Instr → Option Nat
  | .nop => some 0x000
  | .exit => some 0x001
  | .yield => some 0x002
  | .bkpt => some 0x003
  | .lbrk => some 0x004
  | .add _ => some 0x008
  | .sub _ => some 0x009
  | .mul _ => some 0x00A
  | .mulh _ => some 0x00B
  | .mulhu _ => some 0x00C
  | .div _ => some 0x00D
  | .divu _ => some 0x00E
  | .rem _ => some 0x00F
  | .remu _ => some 0x010
  | .and _ => some 0x011
  | .or _ => some 0x012
  | .xor _ => some 0x013
  | .andn _ => some 0x014
  | .sll _ => some 0x015
  | .srl _ => some 0x016
  | .sra _ => some 0x017
  | .min _ => some 0x018
  | .max _ => some 0x019
  | .minu _ => some 0x01A
  | .maxu _ => some 0x01B
  | .slt _ => some 0x01C
  | .sltu _ => some 0x01D
  | .seq _ => some 0x01E
  | .clz _ => some 0x020
  | .ctz _ => some 0x021
  | .popc _ => some 0x022
  | .jr _ => some 0x023
  | .addi _ => some 0x028
  | .andi _ => some 0x029
  | .ori _ => some 0x02A
  | .xori _ => some 0x02B
  | .slli _ => some 0x02C
  | .srli _ => some 0x02D
  | .srai _ => some 0x02E
  | .sget _ => some 0x02F
  | .sset _ => some 0x030
  | .trap _ => some 0x031
  | .lidx _ => some 0x032
  | .sel _ => some 0x038
  | .bfx _ => some 0x039
  | .bfi _ => some 0x03A
  | .bcc _ => some 0x040
  | .jmp _ => some 0x041
  | .jal _ => some 0x042
  | .loop _ => some 0x043
  | .loopi _ => some 0x048
  | .li _ => some 0x050
  | .lih _ => some 0x051
  | .ld _ => some 0x100
  | .st _ => some 0x101
  | .fence _ => some 0x102
  | .vlq _ => some 0x108
  | .vlqs _ => some 0x109
  | .vlqx _ => some 0x10A
  | .vlqi _ => some 0x10B
  | .vlqt _ => some 0x10C
  | .vsq _ => some 0x10D
  | .vsqs _ => some 0x10E
  | .vsqx _ => some 0x10F
  | .vsqi _ => some 0x110
  | .vlqb _ => some 0x111
  | .vsqb _ => some 0x112
  | .vsetl _ => some 0x118
  | .lpreq _ => some 0x119
  | .lprel _ => some 0x11A
  | .cqpush _ => some 0x11B
  | .bqb _ => some 0x11C
  | .qslip _ => some 0x11D
  | .qdrain _ => some 0x11E
  | .cbatch _ => some 0x120
  | .cwait _ => some 0x121
  | .ccget _ => some 0x122
  | .waitw _ => some 0x123
  | .bar _ => some 0x124
  | .amo _ => some 0x128
  | .amocas _ => some 0x129
  | .red _ => some 0x12A
  | .vamo _ => some 0x12B
  | .vred _ => some 0x12C
  | .mcas _ => some 0x12D
  | .cpy _ => some 0x130
  | .cpy2 _ => some 0x131
  | .cpyx _ => some 0x132
  | .put _ => some 0x133
  | .get _ => some 0x134
  | .rwmap _ => some 0x138
  | .rwinv _ => some 0x139
  | .pub _ => some 0x13A
  | .edwait _ => some 0x13B
  | .edget _ => some 0x13C
  | .vcoll _ => some 0x140
  | .ten _ => some 0x148
  | .tdis _ => some 0x149
  | .tzero _ => some 0x14A
  | .tmask _ => some 0x14B
  | .mma _ => some 0x14C
  | .mmag _ => some 0x14D
  | .tld _ => some 0x14E
  | .tst _ => some 0x14F
  | .tsync _ => some 0x150
  | .tgpost _ => some 0x158
  | .tgdone _ => some 0x159
  | .tghwm _ => some 0x15A
  | .tgwait _ => some 0x15B
  | .rtcnt _ => some 0x160
  | .rtsnap _ => some 0x161
  | .rtbias _ => some 0x162
  | .rtswap _ => some 0x163
  | .vtake _ => some 0x200
  | .vtakeq _ => some 0x201
  | .cqpop _ => some 0x202
  | .vbrq _ => some 0x203
  | .viq _ => some 0x204
  | .vqdrop _ => some 0x205
  | .vadd _ => some 0x210
  | .vsub _ => some 0x211
  | .vmul _ => some 0x212
  | .vmulh _ => some 0x213
  | .vand _ => some 0x214
  | .vor _ => some 0x215
  | .vxor _ => some 0x216
  | .vsll _ => some 0x217
  | .vsrl _ => some 0x218
  | .vsra _ => some 0x219
  | .vmin _ => some 0x21A
  | .vmax _ => some 0x21B
  | .vminu _ => some 0x21C
  | .vmaxu _ => some 0x21D
  | .vcmp _ => some 0x21E
  | .vsel _ => some 0x21F
  | .vmv _ => some 0x220
  | .vbc _ => some 0x221
  | .vid _ => some 0x222
  | .viota _ => some 0x223
  | .vicvt _ => some 0x224
  | .vfadd _ => some 0x230
  | .vfsub _ => some 0x231
  | .vfmul _ => some 0x232
  | .vfma _ => some 0x233
  | .vfms _ => some 0x234
  | .vfnma _ => some 0x235
  | .vfdiv _ => some 0x236
  | .vfsqrt _ => some 0x237
  | .vfmin _ => some 0x238
  | .vfmax _ => some 0x239
  | .vfsgn _ => some 0x23A
  | .vfcmp _ => some 0x23B
  | .vfcvt _ => some 0x23C
  | .vfclass _ => some 0x23D
  | .vfexp2 _ => some 0x240
  | .vflog2 _ => some 0x241
  | .vfrcp _ => some 0x242
  | .vfrsq _ => some 0x243
  | .vftanh _ => some 0x244
  | .vfsigm _ => some 0x245
  | .vferf _ => some 0x246
  | .vcompress _ => some 0x250
  | .vexpand _ => some 0x251
  | .vslup _ => some 0x252
  | .vsldn _ => some 0x253
  | .vrgat _ => some 0x254
  | .vext _ => some 0x255
  | .vins _ => some 0x256
  | .vredsum _ => some 0x258
  | .vredmax _ => some 0x259
  | .vredmin _ => some 0x25A
  | .vfredsum _ => some 0x25B
  | .vfredmax _ => some 0x25C
  | .vfredmin _ => some 0x25D
  | .vscan _ => some 0x25E
  | .vfscan _ => some 0x25F
  | .mand _ => some 0x260
  | .mor _ => some 0x261
  | .mxor _ => some 0x262
  | .mnot _ => some 0x263
  | .mpop _ => some 0x264
  | .mfirst _ => some 0x265
  | .mset _ => some 0x266
  | .vtrd _ => some 0x268
  | .vtcd _ => some 0x269
  | .vtwr _ => some 0x26A
  | .vrins _ => some 0x270
  | .vrcls _ => some 0x271
  | .vrpick _ => some 0x272
  | .eret => some 0x300
  | .idle => some 0x301
  | .tlbinv _ => some 0x308
  | .crsave _ => some 0x309
  | .crload _ => some 0x30A
  | .fill _ => some 0x30B
  | .vsetlGrant .. | .waitwReread .. | .barrierRelease .. | .divisionStart .. | .divisionResult ..
  | .viqHeadIssue .. | .elementGroupAdvance .. | .coreClassRaiseComplete .. | .coreClassFallComplete ..
  | .loadTokenPush .. | .vectorStorePerform .. | .wcbLineDrain .. | .scTicketDraw .. | .homeAccessPerform ..
  | .accessReplyReturn .. | .readSpan .. | .ownSpan .. | .writeBackSpan .. | .invalidateSpan ..
  | .atomicPerform .. | .contributionAccept .. | .chainClose .. | .mcasHomeLock .. | .mcasDecision ..
  | .mcasHomeUnlock .. | .mcasFinish .. | .mcasDarkRelease .. | .packetReceive .. | .versionNackReceive ..
  | .packetResend .. | .creditReturnReceive .. | .flitAcknowledge .. | .laneDark .. | .pathDarkMark ..
  | .darkRequestTimeout .. | .windowBlockFill .. | .windowBlockEviction .. | .publicationAccept ..
  | .publicationPacketLand .. | .copyJobTake .. | .jobPacketLand .. | .jobSignalWrite .. | .followOnPlace ..
  | .collectiveContributionArrive .. | .collectiveResultArrive .. | .failureNoticeReceive ..
  | .matrixCommandStart .. | .mmaBlockRowComplete .. | .matrixCommandComplete .. | .gangStepStart ..
  | .nodePost .. | .nodeDispatch .. | .crewPlacement .. | .crewStart .. | .highWaterArrive .. | .crewRetire ..
  | .pageWalkStart .. | .pageWalkComplete .. | .tlbinvTargetDrop .. | .runOnStop .. | .runOnLimit ..
  | .trapRecordWrite .. | .latchTake .. | .tctlPreempt .. | .preemptStop .. | .tctlEnd .. | .crewEndComplete ..
  | .targetEpcWrite .. | .contextSaveWrite .. | .contextLoadComplete .. | .pswapGo .. | .pswapClear ..
  | .pswapDone .. | .lpartWrite .. | .partitionTableWrite .. | .groupEntryWrite .. | .publicationEntryWrite ..
  | .subscriptionEntryWrite .. | .qpEntryWrite .. | .keyEntryWrite .. | .routeEntryWrite ..
  | .linkTrainingComplete .. | .sysCfailRead .. | .sysTdropRead .. | .portDropsRead .. | .droopCounterRead ..
  | .ptpSecondsRead .. | .circuitChangeRequest .. | .peerChangeRequestReceive .. | .grantReceive ..
  | .grantTimeout .. | .drainMarkerArrive .. | .drainTimeout .. | .mirrorNoticeReceive .. | .mirrorTimeout ..
  | .trainingPhaseEnd .. | .coldReset .. | .attestationRequest .. | .attestationComplete .. | .hbmScrubRead ..
  | .rdmaWrite .. | .rdmaReadRequest .. | .compareAndSwap .. | .fetchAndAdd .. | .arpRequest ..
  | .neighbourSolicitation .. | .priorityFlowControlFrame .. | .ethernetFrameDrop .. | .sync .. | .followUp ..
  | .delayReq .. | .delayResp .. | .announce .. | .telemetrySampleCommand .. | .diePowerSample ..
  | .telemetryRecordWrite .. | .limiterInterval .. | .floorArrive .. | .rampWrite .. | .droopDetect ..
  | .signatureWindowEnd .. | .throttleEnd .. | .droopTableClear .. | .laneGroupGate .. | .laneGroupWake ..
  | .vfChangeRequest .. | .vfChangeComplete .. | .junctionCap .. | .thermalTrip .. | .portLinkTrained ..
  | .portLinkLoss .. | .lossOfSupply .. => none

/-- The tail of an instruction. -/
def Instr.tail : Instr → Nat
  | .nop | .exit | .yield | .bkpt | .lbrk | .eret | .idle => 0
  | .add f | .sub f | .mul f | .mulh f | .mulhu f | .div f | .divu f | .rem f | .remu f | .and f | .or f | .xor f
  | .andn f | .sll f | .srl f | .sra f | .min f | .max f | .minu f | .maxu f | .slt f | .sltu f | .seq f | .clz f
  | .ctz f | .popc f | .jr f => f.pack
  | .addi f | .andi f | .ori f | .xori f | .slli f | .srli f | .srai f | .sget f | .sset f | .trap f | .lidx f => f.pack
  | .sel f | .bfx f | .bfi f | .amo f | .amocas f | .red f => f.pack
  | .bcc f | .jmp f | .jal f | .loop f => f.pack
  | .loopi f => f.pack
  | .li f | .lih f => f.pack
  | .ld f | .st f | .vlq f | .vlqs f | .vlqx f | .vlqi f | .vlqt f | .vsq f | .vsqs f | .vsqx f | .vsqi f
  | .vamo f | .vred f => f.pack
  | .fence f | .vsetl f | .lpreq f | .lprel f | .cqpush f | .bqb f | .qslip f | .qdrain f | .cbatch f | .cwait f
  | .ccget f | .waitw f | .bar f | .mcas f | .tgpost f | .tgdone f | .tghwm f | .tgwait f | .rtcnt f | .rtsnap f
  | .rtbias f | .rtswap f | .tlbinv f | .crsave f | .crload f | .fill f => f.pack
  | .vlqb f | .vsqb f => f.pack
  | .cpy f | .cpy2 f | .cpyx f | .put f | .get f | .rwmap f | .rwinv f | .pub f | .edwait f | .edget f | .vcoll f
  | .ten f | .tdis f | .tzero f | .tmask f | .mma f | .mmag f | .tld f | .tst f | .tsync f => f.pack
  | .vtake f | .vtakeq f | .cqpop f | .vbrq f | .viq f | .vqdrop f | .vtrd f | .vtcd f | .vtwr f => f.pack
  | .vadd f | .vsub f | .vmul f | .vmulh f | .vand f | .vor f | .vxor f | .vsll f | .vsrl f | .vsra f | .vmin f
  | .vmax f | .vminu f | .vmaxu f | .vsel f | .vmv f | .vbc f | .vid f | .viota f | .vfadd f | .vfsub f | .vfmul f
  | .vfdiv f | .vfsqrt f | .vfmin f | .vfmax f | .vfsgn f | .vfexp2 f | .vflog2 f | .vfrcp f | .vfrsq f
  | .vftanh f | .vfsigm f | .vferf f | .vexpand f | .vrgat f => f.pack
  | .vcmp f | .vicvt f | .vfma f | .vfms f | .vfnma f | .vfcmp f | .vfcvt f | .vfclass f | .vcompress f | .vslup f
  | .vsldn f | .vext f | .vins f | .vredsum f | .vredmax f | .vredmin f | .vfredsum f | .vfredmax f | .vfredmin f
  | .vscan f | .vfscan f | .vrins f | .vrcls f | .vrpick f => f.pack
  | .mand f | .mor f | .mxor f | .mnot f | .mpop f | .mfirst f | .mset f => f.pack
  | .vsetlGrant .. | .waitwReread .. | .barrierRelease .. | .divisionStart .. | .divisionResult ..
  | .viqHeadIssue .. | .elementGroupAdvance .. | .coreClassRaiseComplete .. | .coreClassFallComplete ..
  | .loadTokenPush .. | .vectorStorePerform .. | .wcbLineDrain .. | .scTicketDraw .. | .homeAccessPerform ..
  | .accessReplyReturn .. | .readSpan .. | .ownSpan .. | .writeBackSpan .. | .invalidateSpan ..
  | .atomicPerform .. | .contributionAccept .. | .chainClose .. | .mcasHomeLock .. | .mcasDecision ..
  | .mcasHomeUnlock .. | .mcasFinish .. | .mcasDarkRelease .. | .packetReceive .. | .versionNackReceive ..
  | .packetResend .. | .creditReturnReceive .. | .flitAcknowledge .. | .laneDark .. | .pathDarkMark ..
  | .darkRequestTimeout .. | .windowBlockFill .. | .windowBlockEviction .. | .publicationAccept ..
  | .publicationPacketLand .. | .copyJobTake .. | .jobPacketLand .. | .jobSignalWrite .. | .followOnPlace ..
  | .collectiveContributionArrive .. | .collectiveResultArrive .. | .failureNoticeReceive ..
  | .matrixCommandStart .. | .mmaBlockRowComplete .. | .matrixCommandComplete .. | .gangStepStart ..
  | .nodePost .. | .nodeDispatch .. | .crewPlacement .. | .crewStart .. | .highWaterArrive .. | .crewRetire ..
  | .pageWalkStart .. | .pageWalkComplete .. | .tlbinvTargetDrop .. | .runOnStop .. | .runOnLimit ..
  | .trapRecordWrite .. | .latchTake .. | .tctlPreempt .. | .preemptStop .. | .tctlEnd .. | .crewEndComplete ..
  | .targetEpcWrite .. | .contextSaveWrite .. | .contextLoadComplete .. | .pswapGo .. | .pswapClear ..
  | .pswapDone .. | .lpartWrite .. | .partitionTableWrite .. | .groupEntryWrite .. | .publicationEntryWrite ..
  | .subscriptionEntryWrite .. | .qpEntryWrite .. | .keyEntryWrite .. | .routeEntryWrite ..
  | .linkTrainingComplete .. | .sysCfailRead .. | .sysTdropRead .. | .portDropsRead .. | .droopCounterRead ..
  | .ptpSecondsRead .. | .circuitChangeRequest .. | .peerChangeRequestReceive .. | .grantReceive ..
  | .grantTimeout .. | .drainMarkerArrive .. | .drainTimeout .. | .mirrorNoticeReceive .. | .mirrorTimeout ..
  | .trainingPhaseEnd .. | .coldReset .. | .attestationRequest .. | .attestationComplete .. | .hbmScrubRead ..
  | .rdmaWrite .. | .rdmaReadRequest .. | .compareAndSwap .. | .fetchAndAdd .. | .arpRequest ..
  | .neighbourSolicitation .. | .priorityFlowControlFrame .. | .ethernetFrameDrop .. | .sync .. | .followUp ..
  | .delayReq .. | .delayResp .. | .announce .. | .telemetrySampleCommand .. | .diePowerSample ..
  | .telemetryRecordWrite .. | .limiterInterval .. | .floorArrive .. | .rampWrite .. | .droopDetect ..
  | .signatureWindowEnd .. | .throttleEnd .. | .droopTableClear .. | .laneGroupGate .. | .laneGroupWake ..
  | .vfChangeRequest .. | .vfChangeComplete .. | .junctionCap .. | .thermalTrip .. | .portLinkTrained ..
  | .portLinkLoss .. | .lossOfSupply .. => 0

/-- Opcodes that may join a convoy (R46). -/
def convoyEligible (op : Nat) : Bool :=
  (decide (0x210 ≤ op) && decide (op ≤ 0x25F)) || (decide (0x268 ≤ op) && decide (op ≤ 0x272))

/-- A decoded instruction with its stall count and convoy bit (R41). -/
structure Decoded where
  instr : Instr
  st    : Nat
  c     : Bool
  deriving DecidableEq, Repr

/-- What decode answers. -/
inductive DecodeResult where
  | ok (d : Decoded)
  /-- The encoding is no instruction: ILLOP (R43). -/
  | ill (e : IllForm)
  deriving DecidableEq, Repr

/-- Fields of a head (R41). -/
def headOp (h : Nat) : Nat := bitsOf h 0 10
def headSt (h : Nat) : Nat := bitsOf h 10 3
def headC (h : Nat) : Bool := bitOf h 13
def headTl (h : Nat) : Nat := bitsOf h 14 2

/-- The first defect of a decoded instruction, its reserved tail bits and its convoy bit. -/
def decodeDefect (i : Instr) (op tail : Nat) (c : Bool) : Option IllForm :=
  firstDefect [need .reservedBit (i.tail == tail), i.defect, need .convoy (!c || convoyEligible op)]

/-- Decode a head and its tail (R43). -/
def decode (h tail : Nat) : DecodeResult :=
  match findRow (headOp h) opcodeMap with
  | none => .ill .opcode
  | some r =>
    if headTl h ≠ r.tl then .ill .length
    else match decodeDefect (r.build tail) r.op tail (headC h) with
      | some e => .ill e
      | none => .ok ⟨r.build tail, headSt h, headC h⟩

/-- The tail length of an opcode, in half-words. -/
def tailLength (op : Nat) : Nat :=
  match findRow op opcodeMap with
  | some r => r.tl
  | none => 0

/-- Head and tail of an instruction with a stall count and a convoy bit; none for a step without an encoding. -/
def encode (i : Instr) (st : Nat) (c : Bool) : Option (Nat × Nat) :=
  match i.opcode with
  | none => none
  | some op => some (op + st * 2 ^ 10 + flag c * 2 ^ 13 + tailLength op * 2 ^ 14, i.tail)

/-! ### Lines (R36 to R39) -/

/-- The number that little-endian bytes hold (R5). -/
def leNat : List Byte → Nat
  | [] => 0
  | b :: r => b.toNat + 256 * leNat r

/-- The n low bytes of a number, little-endian. -/
def leBytes : Nat → Nat → List Byte
  | 0, _ => []
  | n + 1, x => BitVec.ofNat 8 x :: leBytes n (x / 256)

/-- n bytes of a line from byte k. -/
def slice (l : List Byte) (k n : Nat) : List Byte := (l.drop k).take n

/-- Half-word k of a line: the header for k = 0, else head k (R37). -/
def halfWord (l : List Byte) (k : Nat) : Nat := leNat (slice l (2 * k) 2)

/-- Line header fields (R36). -/
def lineIsData (l : List Byte) : Bool := bitOf (halfWord l 0) 15
def lineHeads (l : List Byte) : Nat := bitsOf (halfWord l 0) 10 5

/-- Length in bytes of the tail of head k (R37). -/
def tailBytes (l : List Byte) (k : Nat) : Nat := 2 * headTl (halfWord l k)

/-- Total length of the tails of heads 1 to k (R37). -/
def tailsTotal (l : List Byte) : Nat → Nat
  | 0 => 0
  | k + 1 => tailsTotal l k + tailBytes l (k + 1)

/-- The line fits (R37). -/
def lineFits (l : List Byte) : Bool :=
  decide (2 * (1 + lineHeads l) + tailsTotal l (lineHeads l) ≤ 64)

/-- The instruction at a slot of the line may be fetched: the line checks of R39. -/
def lineOk (l : List Byte) (slot : Nat) : Bool :=
  !lineIsData l && decide (1 ≤ lineHeads l) && bitsOf (halfWord l 0) 0 10 == 0 && lineFits l
    && decide (1 ≤ slot) && decide (slot ≤ lineHeads l)

/-- First byte of the tail of head k (R37). -/
def tailStart (l : List Byte) (k : Nat) : Nat := 64 - tailsTotal l k

/-- Head and tail of the instruction at a slot. -/
def headAt (l : List Byte) (slot : Nat) : Nat := halfWord l slot
def tailAt (l : List Byte) (slot : Nat) : Nat := leNat (slice l (tailStart l slot) (tailBytes l slot))

/-- Bytes of the line whose poison raises POISON at the instruction in place of the checks of R39: the word of the
header, and the words of the head and of the tail. -/
def fetchBytes (l : List Byte) (slot : Nat) : List Nat :=
  [0, 2 * slot] ++ (List.range (tailBytes l slot)).map (tailStart l slot + ·)

/-- Decode the instruction at a slot of a line. -/
def decodeAt (l : List Byte) (slot : Nat) : DecodeResult := decode (headAt l slot) (tailAt l slot)

/-- The code line that holds one instruction: header with nh = 1, its head, zeros, and its tail at the end (R37). -/
def lineOf (h tail : Nat) : List Byte :=
  let n := 2 * headTl h
  leBytes 2 0x0400 ++ leBytes 2 h ++ List.replicate (60 - n) 0 ++ leBytes n tail

/-- The line of an instruction whose bits are w in the numbering of the opcode table: the head is the low 16 bits and
the tail follows; bits from nbits up are zero. -/
def lineOfWord (nbits w : Nat) : List Byte :=
  let x := w % 2 ^ nbits
  lineOf (x % 2 ^ 16) (x / 2 ^ 16)

/-- The instruction that decode reads from such a word, where the line may be fetched. -/
def decodeTableWord (nbits w : Nat) : Option Instr :=
  let l := lineOfWord nbits w
  if lineOk l 1 then
    match decodeAt l 1 with
    | .ok d => some d.instr
    | .ill _ => none
  else none

end Sys2Proof
end

