-- ==== Sys2Proof/Machine/State.lean ====
section
/-!
DEFINITION. The state of one pod as plain data (01 to 15 of the specification), the reasons a step may stop, and the
state after reset. Units are numbered as R1 numbers them: a core by 64 x pod die + 32 x cluster + core, a crew by
4 x core + slot. A sparse map lists the entries that differ from the value an unlisted key reads as.
-/
namespace Sys2Proof.Machine

/-- A sparse map: keys strictly rising, one entry for each key that differs from the default. -/
abbrev SMap (α : Type) := List (Nat × α)

/-- Why a run stops for good. The machine itself reports its errors as traps, which are next states; this stop is the
model's own. -/
inductive Fault where
  /-- Raised by nothing that the specification describes: kept so that the type has an element. Safe. -/
  | unreachable
  deriving DecidableEq, Repr

/-- Why the model refuses an instruction. -/
inductive Refusal where
  /-- The instruction named has no meaning in this model yet. Safe. -/
  | notModelled (mnemonic : String)
  deriving DecidableEq, Repr

/-! ### Sequencers -/

/-- A scalar register: 64 bits and its poison mark (R18, R420). -/
structure Scalar where
  v : Word := 0
  p : Bool := false
  deriving DecidableEq, Repr

/-- A byte of a vector register or of a memory copy, with its poison mark (R420). -/
structure VByte where
  b : Byte := 0
  p : Bool := false
  deriving DecidableEq, Repr

/-- One level of the loop stack (R311). -/
structure LoopLevel where
  start : Word
  stop  : Word
  count : Nat
  index : Nat
  deriving DecidableEq, Repr

/-- An outstanding stall-counted result: what a reader at too short a distance reads, and the distance left (R52). -/
structure Pend where
  reg  : Nat
  old  : Scalar
  left : Nat
  deriving DecidableEq, Repr

/-- vtype: width code, group code, storage class (R96). -/
structure VType where
  wc  : Nat := 2
  grp : Nat := 0
  cls : Nat := 0
  deriving DecidableEq, Repr

/-- A range of lane groups: first group and count (R20). -/
structure Share where
  b : Nat := 0
  g : Nat := 0
  deriving DecidableEq, Repr

/-- Run state of a sequencer (R306, R318, R398). -/
inductive Run where
  | off | running | exited | halted
  deriving DecidableEq, Repr

/-- One sequencer (R16, R18): its registers and the state that decides its next instruction. -/
structure Seqr where
  run     : Run := .off
  pc      : Word := 0
  regs    : SMap Scalar := []
  pend    : List Pend := []
  /-- Interlocked registers that await a result (R51). -/
  busy    : List Nat := []
  /-- Innermost level first (R311). -/
  loops   : List LoopLevel := []
  vl      : Nat := 0
  vtype   : VType := {}
  share   : Share := {}
  /-- The instruction at which it waits. -/
  wait    : Option Instr := none
  /-- The last instruction executed was a taken control transfer (R47). -/
  taken   : Bool := false
  /-- The last instruction executed was convoy-eligible (R47). -/
  elig    : Bool := false
  /-- It stands at an iteration boundary of its innermost loop (R316). -/
  iter    : Bool := false
  /-- The lines that it executes from, the one at its PC first: the address of each and its bytes as they stood when it was
  fetched. More than one is held while the members of a convoy that lies in several lines enter together (R40, R46). -/
  lines   : List (Nat × List VByte) := []
  deriving DecidableEq, Repr

/-! ### Queues and vector instructions -/

/-- An element of a queue token (R231). -/
structure Elem where
  v   : Word := 0
  act : Bool := true
  p   : Bool := false
  deriving DecidableEq, Repr

/-- A token, or a poison marker, of a load, store or index queue (R231). elems holds the elements present so far;
gsz is the size of its element groups, spg the slots of a group, freed the groups already read. -/
structure Tok where
  n      : Nat := 0
  wc     : Nat := 0
  elems  : List Elem := []
  gsz    : Nat := 8
  spg    : Nat := 1
  freed  : Nat := 0
  marker : Bool := false
  deriving DecidableEq, Repr

/-- An entry of cq: a length token or a scalar (R104). -/
structure CqEntry where
  isLen : Bool
  v     : Word
  deriving DecidableEq, Repr

/-- Old contents of registers and masks that a VIQ entry reads in place of the current ones (R49, R52). -/
structure Overlay where
  regs  : List Nat := []
  cells : SMap VByte := []
  masks : SMap (BitVec 16384) := []
  deriving DecidableEq, Repr

/-- A VIQ entry (R14, R50, R415): the instruction, what it captured, and its progress. -/
structure VEntry where
  instr  : Instr
  pc     : Word
  st     : Nat
  /-- c = 1: it joins the convoy of the entry before it. -/
  join   : Bool
  /-- c = 1 although it was reached by a taken transfer or follows an instruction that is not eligible (R47). -/
  bad    : Bool
  vl     : Nat
  vt     : VType
  sh     : Share
  /-- Captured x registers, by register number. -/
  xs     : SMap Scalar
  /-- sys.rnull at entry (R151). -/
  rnull  : Word
  issued : Bool := false
  /-- Held where it stands by a trap of the VIQ (R398). -/
  held   : Bool := false
  /-- Progress index up to which it may still go although it is held: that of the member that trapped (R398). -/
  goal   : Nat := 0
  /-- Progress index: first element of the next group. -/
  prog   : Nat := 0
  /-- Partial value: accumulator, carry or running count (R138, R143); for a vqdrop, the count of its token (R327). -/
  part   : Word := 0
  /-- Bias bank captured as its first element group issued (R149). -/
  bank   : Bool := false
  /-- Elements that raised an IEEE exception so far (R75). -/
  flags  : List Nat := []
  /-- Commands issued (State.jseq) when a tile slice issued its first element group (R190). -/
  mseq   : Nat := 0
  stale  : Overlay := {}
  deriving DecidableEq, Repr

/-- An outstanding vector result: the old contents and the distance left (R52). -/
structure VPend where
  old  : Overlay
  left : Nat
  deriving DecidableEq, Repr

/-- A batch member: crew, counter and batch number (R250). -/
structure Member where
  crew : Nat
  cc   : Nat
  id   : Nat
  deriving DecidableEq, Repr

/-- What a trap records (R397, R403). -/
structure Trap where
  code   : Nat
  reason : Nat := 0
  elem   : Option Nat := none
  queue  : Nat := 0
  member : Nat := 0
  hold   : Bool := false
  tval   : Word := 0
  cinfo  : Word := 0
  deriving DecidableEq, Repr

/-- Where an access is performed: its physical bytes, its ordering kind (0 RC, 1 SO, 2 UO; R203), whether its page is
cacheable, and the level of its leaf. -/
structure Located where
  bytes  : List Nat
  kind   : Nat
  cached : Bool := false
  lev    : Nat := 3
  deriving DecidableEq, Repr

/-- An element of an access that has issued: it is inactive; it faults; it is performed there, or read there through a window;
or its address is formed and has still to be checked (R243), and leads there as far as the page tables said when it issued. -/
inductive Spot where
  | off
  | fault (t : Trap)
  | at (l : Located)
  | win (w off n : Nat)
  | ask (ga : Nat) (hint : Option Located)
  deriving DecidableEq, Repr

/-- What a vector access does with the elements of its store token: it writes them, or blocks of them with mantissas of m bits
(R247), or combines them with its operation in a vamo or vred. -/
inductive StoreOp where
  | write
  | block (bf : Bool) (m : Nat)
  | amo (aop : Nat)
  | red (aop : Nat)
  deriving DecidableEq, Repr

/-- The part of an access that writes: the store queue that it reads, the elements, or bytes of blocks, not yet performed, and
the lines that those performed have entered. A scalar st or red that has issued has its datum in hand; a vector access may hold
the token of iq that named its elements. -/
structure StorePart where
  sq    : Nat
  op    : StoreOp
  left  : List Spot
  lines : List Nat := []
  iq    : Bool := false
  data  : Option Elem := none
  deriving DecidableEq, Repr

/-- An access that has issued (R236, R322): the token that it pushes group by group, with the elements that it has in hand and
those that it has still to read, each with its place, or of a block format the places of each block's bytes (R247); what it
still stores; its member, with the cause of its failure so far. A store and a red push nothing. -/
structure LoadJob where
  q      : Nat := 0
  tok    : Tok := {}
  todo   : List Elem := []
  spots  : List Spot := []
  /-- Of a block format: whether it delivers BF16, and the bits of a mantissa. -/
  block  : Option (Bool × Nat) := none
  /-- It is an acquire: later accesses of the crew come after its elements (R242). -/
  acq    : Bool := false
  /-- Its number among the accesses that the crew has issued. -/
  num    : Nat := 0
  /-- A group of its token has been pushed. -/
  begun  : Bool := false
  /-- It is a vector load. -/
  load   : Bool := false
  member : Option Member
  fail   : Option Nat := none
  store  : Option StorePart := none
  deriving DecidableEq, Repr

/-! ### Memory side of a crew -/

/-- A line of the write-combining buffer (R207): home line number, the bytes written, by offset, and whether a core cache
may hold it. -/
structure WcbLine where
  line   : Nat
  bytes  : SMap VByte
  cached : Bool := false
  deriving DecidableEq, Repr

/-- An access whose stores stand in the write-combining buffer: it is performed, and its batch member completes, when these lines
have drained (R223). A reduction waits for the line number 2^64 + its own number, which no line has (R263). vec: it is a vector
store or vred, which R321 counts. -/
structure Owed where
  member : Option Member
  fail   : Option Nat
  lines  : List Nat
  vec    : Bool := false
  deriving DecidableEq, Repr

/-- A batch (R250): members not yet complete and the cause of the first failure. -/
structure Batch where
  id      : Nat := 0
  pending : Nat := 0
  fail    : Option Nat := none
  deriving DecidableEq, Repr

/-- A completion counter (R249). -/
structure Counter where
  /-- Members that joined the open batch. -/
  joined : Nat := 0
  batch  : Batch := {}
  /-- Closed batches not yet complete, oldest first. -/
  closed : List Batch := []
  err    : Bool := false
  ecause : Nat := 0
  deriving DecidableEq, Repr

/-- A read-only window (R287) and its cached 256-byte blocks (R290). -/
structure Window where
  base   : Word := 0
  len    : Nat := 0
  sub    : Nat := 0
  bsub   : Bool := false
  bound  : Bool := false
  seen   : Word := 0
  blocks : SMap (List VByte) := []
  deriving DecidableEq, Repr

/-- Trap registers of a crew (R403). -/
structure TrapRegs where
  cause  : Word := 0
  cause2 : Word := 0
  cinfo  : Word := 0
  tval   : Word := 0
  epca   : Word := 0
  epcx   : Word := 0
  qstate : Word := 0
  qsx    : Word := 0
  vstart : Nat := 0
  deriving DecidableEq, Repr

/-- Why a crew is stopping (R399, R410). -/
inductive StopReq where
  | none | preempt | trap
  deriving DecidableEq, Repr

/-- A matrix command as accepted or armed (R163): issuer, instruction, register values (then the words of a gang
descriptor), captured predicates, batch member, its number in the order of acceptance and arming, and its PC. -/
structure MatCmd where
  crew   : Nat
  instr  : Instr
  args   : List Word
  nr     : Nat
  nc     : Nat
  member : Option Member
  seq    : Nat := 0
  pc     : Word := 0
  /-- K steps that an mmag has done on this core, and the cause of its batch's error so far, or 0. -/
  gstep  : Nat := 0
  cause  : Nat := 0
  deriving DecidableEq, Repr

/-- State of the follow-on slot (R191). -/
inductive FollowOn where
  | empty
  | awaiting
  | armed (cmd : MatCmd)
  deriving DecidableEq, Repr

/-- One entry of an mcas (R269). -/
structure McasEntry where
  addr   : Word
  expect : Word
  new    : Word
  wide   : Bool
  /-- Home key and, once translated, the number of its word of memory plus 1. -/
  key    : Nat := 0
  phys   : Nat := 0
  obs    : Word := 0
  obsP   : Bool := false
  read   : Bool := false
  wr     : Bool := false
  deriving DecidableEq, Repr

/-- Phase of an mcas in progress (R271). -/
inductive McasPhase where
  | locking | deciding | unlocking | finishing
  deriving DecidableEq, Repr

/-- An mcas in progress (R271): entries in slate order, homes still to visit, homes locked. -/
structure Mcas where
  slate   : Nat
  d       : Nat
  dry     : Bool
  entries : List McasEntry
  todo    : List Nat
  locked  : List Nat
  phase   : McasPhase
  status  : Option Nat := none
  bad     : Nat := 0
  fcause  : Nat := 0
  freason : Nat := 0
  commit  : Bool := false
  torn    : Bool := false
  deriving DecidableEq, Repr

/-- An .sc vector access in progress (R213, R245): the elements left, each with its index, its place as checked and its data,
and the token being built. -/
structure ScAccess where
  store : Bool
  q     : Nat
  wc    : Nat
  n     : Nat
  left  : List (Nat × Located × Elem)
  done  : List Elem
  deriving DecidableEq, Repr

/-- A kind entry (R206): pod die, context, level and page of another die, and its ordering kind. -/
structure KindEntry where
  die  : Nat
  ctx  : Nat
  lev  : Nat
  page : Nat
  kind : Nat
  deriving DecidableEq, Repr

/-- A scalar access on its way to a home on another die, or to its reply (R279, R285). -/
inductive ReqPhase where
  /-- Sent, and not yet checked by the receiver. -/
  | sent
  /-- Refused for its version; the NACK is on its way back. -/
  | nacked
  /-- Held at the sender until the versions agree (R285). -/
  | held
  /-- Version accepted: it stands at the home. -/
  | arrived
  /-- The home has answered: the value read, or the fault of the element (R27), the kind entry of its page (R206), and the
  bytes that remain to be written, or read. -/
  | replied (r : Scalar) (t : Option Trap) (kind : Option KindEntry) (bytes : List Nat)
  /-- The answer has reached the issuer. -/
  | returned (r : Scalar) (t : Option Trap) (kind : Option KindEntry) (bytes : List Nat)
  deriving DecidableEq, Repr

/-- What a request asks of its home: read n bytes, or check them so that a plain load may go on while they are read (R236),
check n bytes for a reduction, write n bytes, or an atomic operation (R261) with its operand, and for amocas the new value. -/
inductive ReqOp where
  | read (n : Nat) (early : Bool)
  | check (n : Nat)
  | write (n : Nat) (v : Scalar)
  | rmw (cas : Bool) (aop n : Nat) (x new : Word)
  deriving DecidableEq, Repr

/-- The remote request of a crew: the access, whether it is an .sc element (R213), the pod dies it runs between, and the
version it was stamped with. -/
structure Req where
  op    : ReqOp
  sc    : Bool := false
  ga    : Word
  src   : Nat
  dst   : Nat
  ver   : Nat
  phase : ReqPhase
  deriving DecidableEq, Repr

/-- A plain scalar load that has been checked (R236): its register, sign extension and bytes, the pod die that holds them and its
kind; the value, once the read is performed there; its number among the accesses that the crew has issued. -/
structure ReadJob where
  d     : Nat
  sx    : Bool
  bytes : List Nat
  die   : Nat
  kind  : Nat
  value : Option Scalar := none
  num   : Nat := 0
  deriving DecidableEq, Repr

/-- A record of 64 bytes that waits in the event arbiter or in a slot's latch (R404), as eight words; the event sequence
number stands in it. -/
structure TrapRec where
  seq   : Nat
  words : List Word
  deriving DecidableEq, Repr

/-- Chain and identity registers of a crew (R357, R361, R363). -/
structure ChainRegs where
  bound : Bool := false
  fin   : Bool := false
  hwm   : Word := 0
  pos   : Word := 0
  deriving DecidableEq, Repr

/-- One crew slot (R16, R18): both sequencers, queues, vector state, counters, windows and trap state. -/
structure Crew where
  /-- State of R405: 0 empty, 1 running, 2 stopping, 3 pre-empted, 4 trapped, 5 loaded, 6 ending. -/
  state  : Nat := 0
  ctx    : Nat := 0
  wid    : Word := 0
  widths : List Nat := []
  exts   : List Word := []
  lev    : Nat := 0
  narg   : Word := 0
  node   : Word := 0
  /-- Its node: pod die of the pool and handle. -/
  home   : Option (Nat × Nat) := none
  a      : Seqr := {}
  x      : Seqr := {}
  lq     : SMap (List Tok) := []
  sq     : SMap (List Tok) := []
  iq     : List Tok := []
  cq     : List CqEntry := []
  bq     : List Word := []
  masks  : SMap (BitVec 16384) := []
  viq    : List VEntry := []
  vpend  : List VPend := []
  vdist  : Nat := 0
  loads  : List LoadJob := []
  sc     : Option ScAccess := none
  wcb    : List WcbLine := []
  owed   : List Owed := []
  cc     : SMap Counter := []
  win    : SMap Window := []
  alen   : Nat := 0
  slip   : Nat := 0
  asked  : Nat := 0
  /-- Class cap C of the launch header (R100). -/
  cap    : Nat := 0
  /-- Share that sys.place shows (R32). -/
  pshare : Share := {}
  cfail  : Word := 0
  trap   : TrapRegs := {}
  tsel   : Word := 0
  estep  : Nat := 0
  stop   : StopReq := .none
  latch  : Option TrapRec := none
  follow : FollowOn := .empty
  /-- The copy that opened the follow-on slot has landed: with its error cause, or 0 (R191, R193). -/
  landed : Option Nat := none
  /-- The mmag that pre-emption has stopped, with its next K step (R184). -/
  gang   : Option MatCmd := none
  /-- Barriers completed and arrived at, by level (R254). -/
  bars   : SMap Nat := []
  arrived : Option Nat := none
  done   : Bool := false
  /-- It counts for its node when the engine jobs and tile stores that it issued before its tgdone, those numbered below this,
  have completed (R358, R359). -/
  doneAt : Option Nat := none
  /-- Cause of the first failure of a member that was logged at its retirement (R319, R358). -/
  late   : Option Nat := none
  mcas   : Option Mcas := none
  req    : Option Req := none
  /-- Scalar loads that still await their data, oldest first (R236). -/
  reads  : List ReadJob := []
  /-- Accesses that have issued so far: the model's own count of program order (R201). -/
  acc    : Nat := 0
  /-- vsetl is in step 2 (R103). -/
  step2  : Bool := false
  hwm    : Word := 0
  chain  : ChainRegs := {}
  /-- The producer crew to which it is bound (R361): pod die and handle of its node, and its WID. -/
  prod   : Option ((Nat × Nat) × Word) := none
  /-- The handle that tgwait waits for, and the status of its node once that is complete (R360). -/
  await  : Option (Nat × Option Nat) := none
  /-- Bytes of the queue descriptors of the area that it was loaded from, until it is resumed (R413). -/
  desc   : List Byte := []
  deriving DecidableEq, Repr

/-! ### Cores -/

/-- An element of a tile (R159). -/
structure TElem where
  v : BitVec 32 := 0
  p : Bool := false
  deriving DecidableEq, Repr

/-- A tile (R159 to R162): elements by linear position, +0 where none is listed. Its row-ready bits are a function of the
matrix commands that stand before it (R176): see rowReady. -/
structure Tile where
  elems : SMap TElem := []
  en    : Bool := false
  slot  : Nat := 0
  nr    : Nat := 128
  nc    : Nat := 128
  deriving DecidableEq, Repr

/-- The running matrix command: its tile (of a gang, the tile of its K step), next block row, operand bytes read at the start (by
physical key), and whether it read poisoned data: the cause code, or 0 (R175). -/
structure MatRun where
  cmd   : MatCmd
  tile  : Nat
  row   : Nat
  opnd  : SMap VByte
  cause : Nat
  deriving DecidableEq, Repr

/-- A job of a copy unit (R296, R364, R366). kind: 0 cpy, 1 cpy2, 2 cpyx, 3 put, 4 get. -/
structure Job where
  kind    : Nat
  card    : List Word
  crew    : Nat
  ctx     : Nat
  member  : Option Member
  /-- Pod die and pool slot of a copy node. -/
  node    : Option (Nat × Nat)
  mm      : Bool
  /-- Its number in the order of issue of engine jobs (R221). -/
  seq     : Nat
  running : Bool := false
  /-- Row and offset of the next packet. -/
  row     : Nat := 0
  off     : Nat := 0
  /-- The source address of a row of which a packet has landed: a cpyx reads its index word once (R365). -/
  src     : Option Nat := none
  fail    : Option Nat := none
  deriving DecidableEq, Repr

/-- A division waiting for or occupying a divider (R466). -/
structure DivOp where
  crew : Nat
  d    : Nat
  v    : Word
  deriving DecidableEq, Repr

/-- The divider of a slice: the running division and the waiting ones, oldest first (R466). -/
structure Divider where
  run  : Option DivOp := none
  wait : List DivOp := []
  deriving DecidableEq, Repr

/-- A leaf translation held in a TLB (R379): context, level of the leaf, virtual page number and the leaf entry. -/
structure TlbEntry where
  ctx  : Nat
  lev  : Nat
  page : Nat
  leaf : Word
  deriving DecidableEq, Repr

/-- A line of a core cache (R216): the valid and the dirty bit of each of its 16 words. The bytes of a valid word are those
that memory reads as, which R218 makes the same; see log entry 19. The directory of a die is the view of its cores' lines. -/
structure CacheLine where
  valid : BitVec 16 := 0
  dirty : BitVec 16 := 0
  deriving DecidableEq, Repr

/-- One core (R14, R18, R19). -/
structure Core where
  s      : Nat := 0
  q      : Nat := 0
  c      : Nat := 0
  owner  : Option Nat := none
  /-- Node whose crews reside on it: pod die and handle. -/
  node   : Option (Nat × Nat) := none
  cls    : Nat := 0
  /-- Class that a raise in progress moves to (R101). -/
  raise  : Option Nat := none
  fall   : Bool := false
  /-- Lane share of each slot (R336). -/
  lpart  : SMap Share := []
  ckstall : Bool := false
  /-- Bytes of v0 to v63: key ((64 x register + lane) x 128 + byte). -/
  vregs  : SMap VByte := []
  tiles  : SMap Tile := []
  mq     : List MatCmd := []
  mrun   : Option MatRun := none
  rcnt   : SMap Nat := []
  bank0  : SMap (BitVec 32) := []
  bank1  : SMap (BitVec 32) := []
  act    : Bool := false
  /-- Crews whose rtcnt, rtsnap, rtbias or rtswap waits for the routing state, in order of issue (R158). -/
  rwait  : List Nat := []
  rnull  : Word := 0
  jobs   : List Job := []
  diva   : Divider := {}
  divx   : Divider := {}
  l1     : List TlbEntry := []
  kinds  : List KindEntry := []
  /-- The core cache (R216), by 64-byte line of its die's HBM. -/
  cache  : SMap CacheLine := []
  lgate  : Nat := 0xFF
  thrott : Nat := 0
  /-- Signature of the window before the current one, and of the current one (R430). -/
  sig    : Nat := 0
  /-- The slot whose VIQ head issued last (R308). -/
  vlast  : Nat := 3
  deriving DecidableEq, Repr

/-! ### Dies -/

/-- A contribution to memory-side reduction (R266), with the number of the access that made it. -/
structure Contribution where
  word   : Nat
  lane   : Nat
  aop    : Nat
  n      : Nat
  x      : Scalar
  member : Option Member
  num    : Nat := 0
  /-- Its word lies in an SO page (R204, R258). -/
  so     : Bool := false
  deriving DecidableEq, Repr

/-- An open chain (R266): its contributions in acceptance order. -/
structure Chain where
  parts : List Contribution
  deriving DecidableEq, Repr

/-- The state of an L2 slice's scatter-add unit (R266). -/
structure Slice where
  wait   : List Contribution := []
  chains : List Chain := []
  deriving DecidableEq, Repr

/-- One outbound path of a die (R282, R283): flits sent and freed, and unacknowledged flits as (sequence number,
lane). -/
structure Path where
  sent  : Nat := 0
  freed : Nat := 0
  unack : List (Nat × Nat) := []
  /-- The drain marker of a circuit change has arrived (R424). -/
  marker : Bool := false
  /-- A training of this path has been started by a write of its route entry (R426). -/
  retrain : Bool := false
  deriving DecidableEq, Repr

/-- A page walk in progress (R380). -/
structure Walk where
  ctx : Nat
  va  : Nat
  deriving DecidableEq, Repr

/-- A node in a ready pool (R343 to R351). words is its record, self resolved. phase: 0 posted, 1 dispatched,
2 complete. -/
structure Node where
  handle : Nat
  ctx    : Nat
  words  : List Word
  order  : Nat
  level  : Nat
  age    : Nat := 0
  preds  : List Nat
  chain  : Option Nat
  phase  : Nat := 0
  /-- A predecessor completed with ERROR or SKIPPED (R350). -/
  bad    : Bool := false
  status : Nat := 0
  cause  : Nat := 0
  member : Option Member := none
  /-- Crew-level WIDs placed so far with the crews that hold them, and how many have finished. -/
  placed : List (Word × Nat) := []
  fins   : Nat := 0
  /-- High-water index of each retired crew, by WID (R361). -/
  frozen : List (Word × Word) := []
  /-- No further crew is placed (R356). -/
  halted : Bool := false
  deriving DecidableEq, Repr

/-- The tag of an image in a shadow store: all core, crew and sequencer state of one core (R417). -/
structure CoreImage where
  core  : Nat
  state : Core
  crews : SMap Crew
  kib   : Nat
  deriving DecidableEq, Repr

/-- A reply of an Ethernet port (R387, R391): queue pair, opcode (0 ACK, 1 NAK PSN sequence error, 2 NAK Invalid Request,
3 NAK Remote Access Error, 4 NAK Remote Operational Error, 5 Read Response, 6 Atomic Acknowledge, 7 CNP, 8 ARP reply,
9 neighbour advertisement, 10 PFC frame, whose psn is the priority and whose data is 1 to pause and 0 to resume), PSN, data; the port that sends it, and the address and queue pair that it goes to. -/
structure Reply where
  qp   : Nat
  kind : Nat
  psn  : Nat
  data : List Byte
  port : Nat := 0
  peer : Nat := 0
  dqpn : Nat := 0
  deriving DecidableEq, Repr

/-- A write message that has begun on a queue pair (R229): its key, its range, the address of the next byte, and the bytes
kept back for the word that is its release. -/
structure NetMsg where
  rkey : Nat
  va   : Nat
  len  : Nat
  next : Nat
  tail : List Byte := []
  deriving DecidableEq, Repr

/-- An RDMA operation that has passed its checks and is not yet performed (R391, R392): its key, the physical bytes, the
data of a write with the number of its bytes that come before the release, or the operands of an atomic; or an answer that
waits for its turn. -/
structure NetOp where
  qp    : Nat
  key   : Nat
  psn   : Nat
  mtu   : Nat
  kind  : Nat
  bytes : List Nat := []
  data  : List Byte := []
  split : Nat := 0
  x     : Word := 0
  new   : Word := 0
  deriving DecidableEq, Repr

/-- One die (R13). -/
structure Die where
  /-- Die registers and tables by selector, where they differ from 0: RW and RO fields as they read. -/
  regs   : SMap Word := []
  pool   : SMap Node := []
  /-- Completed nodes whose slots are free, newest first. -/
  old    : List Node := []
  gens   : SMap Nat := []
  posts  : Nat := 0
  seqno  : Nat := 0
  traps  : List TrapRec := []
  /-- Count of collectives begun per group, and of those not yet complete (R300). -/
  cseq   : SMap Nat := []
  slices : SMap Slice := []
  paths  : SMap Path := []
  tlb    : List TlbEntry := []
  walks  : List Walk := []
  /-- Misses that found every walker busy, in order of arrival (R380). -/
  misses : List Walk := []
  shadow : SMap (List CoreImage) := []
  swap   : Option Nat := none
  /-- Droop signature table: tag and confidence (R430). -/
  droop  : SMap (Nat × Nat) := []
  /-- Its demand is capped for its junction's temperature (R444). -/
  capped : Bool := false
  /-- Ballast that the die draws, in W (R3, R435). -/
  ballast : Nat := 0
  /-- Filler that its idle matrix units draw, in units of 0.01 W (R435). -/
  filler : Nat := 0
  replies : List Reply := []
  /-- Responses to atomics already performed, for duplicates (R391). -/
  answered : List Reply := []
  /-- Write messages in progress, by queue pair (R229), and accepted operations not yet performed, oldest first. -/
  msgs   : SMap NetMsg := []
  netOps : List NetOp := []
  /-- Records that wait for a lock on their ring to be released (R273): the ring's register and the words. -/
  ringWait : List (Nat × List Nat) := []
  /-- Signal words that wait for a lock on them to be released, oldest first (R273): their bytes and values. -/
  signals : List (List Nat × Word) := []
  /-- The ports whose flow-controlled priority is paused (R387). -/
  paused : List Nat := []
  /-- Replies that a paused port holds back, oldest first. -/
  held : List Reply := []
  /-- The ports at which a packet stands that must wait, and that have asked their peer to pause (R387). -/
  pausing : List Nat := []
  deriving DecidableEq, Repr

/-! ### Chip and pod -/

/-- State held once per chip, on D0 (R213, R394 to R396, R423, R434, R441). -/
structure Chip where
  tripped : Bool := false
  supplied : Bool := true
  /-- It has booted: while no firmware slot is accepted, its ports are kept down (R394). -/
  booted  : Bool := false
  scseq   : Nat := 0
  serial  : List Word := []
  leaf    : Nat := 0
  minVer  : Nat := 0
  /-- Attestation in progress: the crew, the request block's address, and the crew's context. -/
  attest  : Option (Nat × Word × Nat) := none
  /-- Circuit change in progress: the requesting crew and the request block's address. -/
  change  : Option (Nat × Word) := none
  /-- The 32 bytes that its controller has sent to the mirror switch controller (R423). -/
  request : List Byte := []
  /-- Phase of the circuit change in which the chip takes part, 0 for none (R424). -/
  phase   : Nat := 0
  /-- The notice of the switch controller has not come by T_grant: the change ends timed out (R424). -/
  late    : Bool := false
  /-- Power drawn in the last interval, in units of 0.01 W; of the shortfall in progress, the intervals so far, its peak,
  its sum over the intervals, both in 0.01 W, and the PTP time of its start in ns (R434, R439). -/
  pdrawn  : Nat := 0
  /-- Of a shortfall in progress, the target of the last interval, which falls on at Rd (R439). -/
  target  : Nat := 0
  /-- Sum and number of the intervals since the last sample command, and the average power that it found (R442). -/
  winSum  : Nat := 0
  winN    : Nat := 0
  avg     : Nat := 0
  shortN  : Nat := 0
  peak    : Nat := 0
  energy  : Nat := 0
  shortAt : Nat := 0
  /-- Floors set by fill that have not reached D0 (R437). -/
  floors  : List Nat := []
  /-- PTP clock in ns as last read or stamped, and the servo: good Syncs in a row, times of the exchange (R441). -/
  clock   : Nat := 0
  good    : Nat := 0
  t1      : Nat := 0
  t2      : Nat := 0
  t3      : Nat := 0
  delay   : Int := 0
  /-- The masters heard, by port identity, each with the data set it last announced (R440). -/
  masters : SMap (List Nat) := []
  /-- PTP instant of the sample in progress, and the dies that have sampled. -/
  sample  : Option (Nat × Nat) := none
  sampled : List (Nat × Nat) := []
  deriving DecidableEq, Repr

/-- A publication in progress (R293): payload read at acceptance; for each member die, bytes landed, or done. -/
structure Pub where
  die     : Nat
  ch      : Nat
  edition : Nat
  crew    : Nat
  ctx     : Nat
  member  : Option Member
  src     : Word
  len     : Nat
  seq     : Nat
  accepted : Bool := false
  data    : List VByte := []
  dests   : List (Nat × Nat) := []
  fail    : Option Nat := none
  deriving DecidableEq, Repr

/-- A member's part in a collective (R299 to R303). -/
structure CollMember where
  die    : Nat
  crew   : Nat
  ctx    : Nat
  member : Option Member
  node   : Option (Nat × Nat)
  shape  : Nat × Nat × Bool × Nat × Nat
  mask   : List Nat
  src    : Word
  dst    : Word
  seq    : Nat
  /-- Blocks that have landed, and blocks that failed with their record (dark, reporter, cause). -/
  landed : List Nat := []
  failed : List (Nat × Nat × Nat × Nat) := []
  /-- Blocks with poisoned elements, or that could not be written at the member, in the same form. -/
  marks  : List (Nat × Nat × Nat × Nat) := []
  /-- allgather and broadcast: the source as read once, and the cause of its poison, or 0. -/
  sent   : Option (List VByte × Nat) := none
  /-- Bytes landed of a block of which a packet has landed and more are to come (R277). -/
  part   : SMap Nat := []
  complete : Bool := false
  deriving DecidableEq, Repr

/-- An element being combined at its owner (R302): the dies received, the accumulator and its mark, the cause of the mark
(or 0) and the die that sent it. -/
structure CollElem where
  got  : List Nat := []
  acc  : BitVec 32 := 0
  p    : Bool := false
  code : Nat := 0
  who  : Nat := 0
  deriving DecidableEq, Repr

/-- A collective: group, number in the group's sequence, members joined, elements being combined. -/
structure Coll where
  group   : Nat
  num     : Nat
  members : List CollMember
  elems   : SMap CollElem := []
  deriving DecidableEq, Repr

/-- A tlbinv in progress (R382): kind, context, address and the target dies that have not acknowledged. -/
structure Inv where
  kind    : Nat
  ctx     : Nat
  va      : Nat
  pdie    : Nat
  /-- Home die of the page. -/
  home    : Nat
  targets : List Nat
  member  : Option Member
  fail    : Option Nat := none
  /-- Entries dropped at target dies that have not acknowledged. -/
  dropped : SMap (List TlbEntry) := []
  deriving DecidableEq, Repr

/-- A context save or load in progress (R413, R414): target slot, area and tile-image addresses, issuer's context. -/
structure SaveJob where
  load   : Bool
  area   : Word
  tiles  : Option Word
  ctx    : Nat
  pdie   : Nat
  member : Option Member
  /-- Its number in the order of issue of engine jobs. -/
  seq    : Nat := 0
  deriving DecidableEq, Repr

/-- What R415 gives no place in a save area, held beside its bytes: of a queue's tokens their shape, of a VIQ entry its instruction,
and the rest of the crew. -/
structure SavedCrew where
  /-- Physical byte at which its area began, and the bytes of its queue descriptors, whose fields have no stated place. -/
  key   : Nat
  bytes : List Byte
  crew  : Crew
  /-- It has been loaded since. -/
  loaded : Bool := false
  deriving DecidableEq, Repr

/-- Whose turn is next: one instruction of a sequencer of a crew, or a step of an agent. -/
inductive Turn where
  | seq (crew : Nat) (xs : Bool)
  | event (i : Instr)
  deriving DecidableEq, Repr

/-- The issue latch: the instruction in exec belongs to this sequencer, with this stall count and convoy bit, and this
is the PC that follows it in sequence (R38). -/
structure Latch where
  crew : Nat := 0
  xs   : Bool := false
  st   : Nat := 0
  c    : Bool := false
  link : Word := 0
  deriving DecidableEq, Repr

/-- The pod. -/
structure State where
  agenda : List Turn
  cur    : Latch
  crews  : SMap Crew
  cores  : SMap Core
  dies   : SMap Die
  chips  : SMap Chip
  mem    : SMap Byte
  /-- Poisoned 8-byte words, by word number (R420). -/
  poison : SMap Bool
  /-- Words with an uncorrectable error that nothing has detected yet (R419). -/
  bad    : SMap Bool
  /-- Units of 4 bytes locked by an mcas, with the crew that holds the lock, plus 1 (R273). -/
  locks  : SMap Nat
  /-- Requests that wait at their homes, in order of arrival: each word of 8 bytes with the number of its requester (R271,
  R273). -/
  fifo   : List (Nat × Nat)
  pubs   : List Pub
  colls  : List Coll
  invs   : List Inv
  saves  : SMap SaveJob
  images : List SavedCrew
  /-- Engine jobs and matrix commands issued so far. -/
  jseq   : Nat
  /-- The model's own counter of free values used (log entry 5). -/
  free   : Nat
  /-- The sequencer that the model's own round robin looks at next. -/
  next   : Nat
  deriving DecidableEq, Repr

/-- The pod right after cold reset, before boot: no crew, every field at its reset value; registers and memory without
a reset value read as zero (log entries 3 and 4). -/
def State.reset : State where
  agenda := []
  cur := {}
  crews := []
  cores := []
  dies := []
  chips := []
  mem := []
  poison := []
  bad := []
  locks := []
  fifo := []
  pubs := []
  colls := []
  invs := []
  saves := []
  images := []
  jseq := 0
  free := 0
  next := 0

end Sys2Proof.Machine
end

