-- ==== Sys2Proof/Machine/Ops.lean ====
section
/-!
DEFINITION. The named operations over the state: sparse maps, registers, physical memory, queues, completion counters,
taking a trap and returning from one, and how an instruction finishes, waits or transfers control.
-/
namespace Sys2Proof.Machine

/-- What a meaning answers. -/
abbrev Out := Host.Outcome State Fault Refusal

/-! ### Sparse maps -/

/-- The value at key n, d where none is listed. -/
def get (d : α) : SMap α → Nat → α
  | [], _ => d
  | (k, v) :: r, n => if k = n then v else get d r n

/-- Insert or replace the entry of key n, keeping the keys in order. -/
def ins : SMap α → Nat → α → SMap α
  | [], n, v => [(n, v)]
  | (k, w) :: r, n, v =>
    if k = n then (n, v) :: r else if n < k then (n, v) :: (k, w) :: r else (k, w) :: ins r n v

/-- Remove the entry of key n. -/
def del (m : SMap α) (n : Nat) : SMap α := m.filter (fun e => e.1 != n)

/-- Write v at key n; writing the default removes the entry. -/
def put [DecidableEq α] (d : α) (m : SMap α) (n : Nat) (v : α) : SMap α :=
  if v = d then del m n else ins m n v

/-- The canonical form of a sparse map: keys strictly rising, no entry equal to the default. -/
def SMap.wf [DecidableEq α] (d : α) : SMap α → Bool
  | [] => true
  | [(_, v)] => decide (v ≠ d)
  | (k, v) :: (k', v') :: r => decide (v ≠ d) && decide (k < k') && SMap.wf d ((k', v') :: r)

/-! ### Units and their numbers (R1) -/

def crewCore (k : Nat) : Nat := k / 4
def crewSlot (k : Nat) : Nat := k % 4
def coreDie (n : Nat) : Nat := n / 64
def crewDie (k : Nat) : Nat := coreDie (crewCore k)
def dieChip (d : Nat) : Nat := d / 8
def crewChip (k : Nat) : Nat := dieChip (crewDie k)

/-- The crews of a core, in slot order. -/
def coreCrews (n : Nat) : List Nat := [4 * n, 4 * n + 1, 4 * n + 2, 4 * n + 3]

def State.crew (s : State) (k : Nat) : Crew := get {} s.crews k
def State.core (s : State) (n : Nat) : Core := get {} s.cores n
def State.die (s : State) (d : Nat) : Die := get {} s.dies d
def State.chip (s : State) (c : Nat) : Chip := get {} s.chips c

def State.setCrew (s : State) (k : Nat) (c : Crew) : State := { s with crews := ins s.crews k c }
def State.setCore (s : State) (n : Nat) (c : Core) : State := { s with cores := ins s.cores n c }
def State.setDie (s : State) (d : Nat) (x : Die) : State := { s with dies := ins s.dies d x }
def State.setChip (s : State) (c : Nat) (x : Chip) : State := { s with chips := ins s.chips c x }

def State.modCrew (s : State) (k : Nat) (f : Crew → Crew) : State := s.setCrew k (f (s.crew k))
def State.modCore (s : State) (n : Nat) (f : Core → Core) : State := s.setCore n (f (s.core n))
def State.modDie (s : State) (d : Nat) (f : Die → Die) : State := s.setDie d (f (s.die d))
def State.modChip (s : State) (c : Nat) (f : Chip → Chip) : State := s.setChip c (f (s.chip c))

/-- A die register as it stands (R8). -/
def State.reg (s : State) (d sel : Nat) : Word := get 0 (s.die d).regs sel
def State.setReg (s : State) (d sel : Nat) (v : Word) : State :=
  s.modDie d (fun x => { x with regs := put 0 x.regs sel v })

/-- A field of a register. -/
def wfield (w : Word) (lo n : Nat) : Nat := bitsOf w.toNat lo n
def wbit (w : Word) (i : Nat) : Bool := bitOf w.toNat i

/-- w with bits [lo + n - 1 : lo] replaced by the low n bits of x. -/
def putField (w : Word) (lo n x : Nat) : Word :=
  BitVec.ofNat 64 (w.toNat - bitsOf w.toNat lo n * 2 ^ lo + x % 2 ^ n * 2 ^ lo)

/-! ### The current crew and sequencer -/

/-- The crew whose instruction is in exec, and its sequencer. -/
def State.me (s : State) : Nat := s.cur.crew
def State.myCrew (s : State) : Crew := s.crew s.me
def State.myCore (s : State) : Nat := crewCore s.me
def State.myDie (s : State) : Nat := crewDie s.me

def Crew.seq (c : Crew) (xs : Bool) : Seqr := if xs then c.x else c.a
def Crew.setSeq (c : Crew) (xs : Bool) (q : Seqr) : Crew := if xs then { c with x := q } else { c with a := q }

def State.seqr (s : State) : Seqr := s.myCrew.seq s.cur.xs
def State.setSeqr (s : State) (q : Seqr) : State := s.modCrew s.me (fun c => c.setSeq s.cur.xs q)
def State.modSeqr (s : State) (f : Seqr → Seqr) : State := s.setSeqr (f s.seqr)
def State.modMe (s : State) (f : Crew → Crew) : State := s.modCrew s.me f

/-- System privilege: the sys bit of the crew's context entry on its die (R371, R372). -/
def State.sysPriv (s : State) (k : Nat) : Bool := wbit (s.reg (crewDie k) (0xC00 + 4 * (s.crew k).ctx)) 1

/-! ### Scalar registers (R54) -/

/-- Register r of a sequencer as it stands; register 0 reads as zero. -/
def Seqr.reg (q : Seqr) (r : Nat) : Scalar := if r = 0 then {} else get {} q.regs r

/-- What an instruction reads from r: the old value while a stall-counted result is outstanding (R52). -/
def Seqr.read (q : Seqr) (r : Nat) : Scalar :=
  if r = 0 then {} else
    match q.pend.find? (fun p => p.reg == r) with
    | some p => p.old
    | none => q.reg r

/-- Write r with a result of latency L (0: interlocked); a write to register 0 is discarded (R54). -/
def Seqr.write (q : Seqr) (r : Nat) (v : Scalar) (L : Nat) : Seqr :=
  if r = 0 then q else
    let rest := q.pend.filter (fun p => p.reg != r)
    { q with regs := put {} q.regs r v,
             pend := if L = 0 then rest else ⟨r, q.reg r, L⟩ :: rest }

/-- Time passes by 1 + st issues: outstanding results come nearer (R50).
DESIGN CHOICE, log entry 11. -/
def Seqr.tick (q : Seqr) (st : Nat) : Seqr :=
  { q with pend := (q.pend.map (fun p => { p with left := p.left - (1 + st) })).filter (fun p => p.left != 0) }

/-- Every outstanding result matures (R52). -/
def Seqr.mature (q : Seqr) : Seqr := { q with pend := [] }

/-- Write a register of the current sequencer. -/
def State.setR (s : State) (r : Nat) (v : Word) (L : Nat) : State := s.modSeqr (fun q => q.write r ⟨v, false⟩ L)
def State.setRP (s : State) (r : Nat) (v : Scalar) (L : Nat) : State := s.modSeqr (fun q => q.write r v L)

/-! ### Cause codes (R397) -/

namespace Cause
def illop : Nat := 1
def illslice : Nat := 2
def illfetch : Nat := 3
def priv : Nat := 4
def stall : Nat := 5
def convoy : Nat := 6
def badtype : Nat := 7
def trange : Nat := 8
def qlen : Nat := 9
def cqkind : Nat := 10
def qresid : Nat := 11
def loopstk : Nat := 12
def poison : Nat := 13
def addrflt : Nat := 14
def align : Nat := 15
def tnomap : Nat := 16
def tform : Nat := 17
def tperm : Nat := 18
def twalk : Nat := 19
def scremote : Nat := 20
def waddr : Nat := 21
def darkpath : Nat := 22
def tileoff : Nat := 23
def mopnd : Nat := 24
def mfollow : Nat := 25
def mslate : Nat := 26
def fabopnd : Nat := 27
def tgnode : Nat := 28
def bkpt : Nat := 29
def trap : Nat := 30
def estep : Nat := 31
def ue : Nat := 32
def crstate : Nat := 33
end Cause

/-- The cause word of a trap (R403). -/
def Trap.word (t : Trap) (xs : Bool) : Word :=
  BitVec.ofNat 64 (t.code + t.reason * 2 ^ 8 + flag xs * 2 ^ 12 + flag t.elem.isSome * 2 ^ 13 + flag t.hold * 2 ^ 14
    + t.elem.getD 0 * 2 ^ 16 + t.queue * 2 ^ 32 + t.member * 2 ^ 36)

/-- sys.tval of a trap (R403): the faulting address or the immediate where the cause has one, the PC of the held convoy for
a VIQ trap (R400), else 0.
DEDUCED, log entry 74. -/
def Trap.tvalReg (t : Trap) : Word :=
  if t.hold || [Cause.addrflt, Cause.align, Cause.tnomap, Cause.tform, Cause.tperm, Cause.twalk, Cause.scremote, Cause.waddr,
    Cause.mopnd, Cause.mslate, Cause.trap].contains t.code then t.tval else 0

/-- A crew takes a trap of one slice: the cause registers are written, the crew is stopping, every outstanding result
matures. The first trap goes to sys.cause, a trap of the other slice to sys.cause2 (R398, R402, R403). -/
def Crew.takeTrap (c : Crew) (xs : Bool) (t : Trap) : Crew :=
  let c := { c with a := c.a.mature, x := c.x.mature, vpend := [] }
  if c.stop = .trap then { c with trap := { c.trap with cause2 := t.word xs } }
  else
    { c with state := if c.state = 6 then 6 else 2, stop := .trap,
             trap := { c.trap with cause := t.word xs, cause2 := 0, cinfo := t.cinfo, tval := t.tvalReg } }

/-- The shared operation of taking an exception: the current slice stops at its instruction, or after it for BKPT, TRAP
and ESTEP (R400), and the crew is stopping (R398). The other slice runs on (R399). -/
def takeTrap (t : Trap) (s : State) : State :=
  let after := t.code == Cause.bkpt || t.code == Cause.trap
  s.modMe (fun c =>
    let c := c.takeTrap s.cur.xs t
    let q := c.seq s.cur.xs
    c.setSeq s.cur.xs { q with run := .halted, wait := none, pc := if after then s.cur.link else q.pc })

/-- The meaning ends by raising a trap. -/
def raise (t : Trap) (s : State) : Out := .next (takeTrap t s)

/-! ### Ends of an instruction -/

/-- Wait at the instruction: nothing has happened yet, and it runs again in full (R316). -/
def waitAt (i : Instr) (s : State) : Out := .next (s.modSeqr (fun q => { q with wait := some i }))

/-- Loop-end rule of R313: the levels after an instruction at pc completed, and the PC that follows. -/
def loopEnd (pc link : Word) : List LoopLevel → List LoopLevel × Word × Bool
  | [] => ([], link, false)
  | l :: r =>
    if pc = l.stop then
      if l.index + 1 < l.count then ({ l with index := l.index + 1 } :: r, l.start, true)
      else
        match loopEnd pc link r with
        | (ls, n, b) => (ls, n, b)
    else (l :: r, link, false)

/-- The next instruction in sequence follows: the end of a loop body is tested, and the return to its start is a taken
transfer, which leaves the line (R40, R313). -/
def Seqr.advance (q : Seqr) (l : Latch) (elig : Bool) : Seqr :=
  let atEnd := match q.loops with
    | [] => false
    | lv :: _ => q.pc == lv.stop
  match loopEnd q.pc l.link q.loops with
  | (ls, n, back) => { q with
      pc := n, loops := ls, taken := back, elig := elig, iter := atEnd, wait := none, lines := if back then [] else q.lines }

/-- The instruction of a sequencer completes: the distance of R50 passes, and the next one in sequence follows. -/
def Seqr.finish (q : Seqr) (l : Latch) (elig : Bool) : Seqr := (q.tick l.st).advance l elig

/-- ESTEP after an instruction while stepping is on (R418). -/
def stepTrap (s : State) : State :=
  let on := if s.cur.xs then bitOf s.myCrew.estep 0 else bitOf s.myCrew.estep 1
  if on then takeTrap { code := Cause.estep } s else s

/-- The current instruction completes. -/
def finish (s : State) : State := stepTrap (s.modSeqr (fun q => q.finish s.cur false))

/-- A meaning that completes in the state s. -/
def done (s : State) : Out := .next (finish s)

/-- A taken control transfer to t (R40, R313): no loop level changes, and the line is left. -/
def Seqr.jump (q : Seqr) (st : Nat) (t : Word) : Seqr :=
  { q.tick st with pc := t, taken := true, elig := false, iter := false, wait := none, lines := [] }

/-- Instructions are skipped on to t: no taken transfer (R40, R312). -/
def Seqr.skip (q : Seqr) (st : Nat) (t : Word) : Seqr :=
  { q.tick st with pc := t, taken := false, elig := false, iter := false, wait := none }

def jump (t : Word) (s : State) : Out := .next (stepTrap (s.modSeqr (fun q => q.jump s.cur.st t)))
def skipTo (t : Word) (s : State) : Out := .next (stepTrap (s.modSeqr (fun q => q.skip s.cur.st t)))

/-! ### Checks every meaning begins with -/

/-- An instruction of class 01 (R42). -/
def inA (s : State) (k : Out) : Out := if s.cur.xs then raise { code := Cause.illslice } s else k

/-- An instruction of class 10 (R42). -/
def inX (s : State) (k : Out) : Out := if s.cur.xs then k else raise { code := Cause.illslice } s

/-- An instruction of class 11: the A stream of a crew with system privilege (R42, R44). -/
def privileged (s : State) (k : Out) : Out :=
  if s.cur.xs then raise { code := Cause.illslice } s
  else if s.sysPriv s.me then k else raise { code := Cause.priv } s

/-- A control instruction may not stand at the end PC of an active level (R313). -/
def control (s : State) (k : Out) : Out :=
  if s.seqr.loops.any (fun l => l.stop == s.seqr.pc) then raise { code := Cause.loopstk, reason := 4 } s else k

/-- One of these registers awaits an interlocked result (R51, R466). -/
def Seqr.blocked (q : Seqr) (rs : List Nat) : Bool := rs.any (fun r => r != 0 && q.busy.contains r)

/-- Registers rs are read: with checking on, STALL at a distance that is too short (R52); POISON on a poisoned operand
(R115). -/
def readRegs (rs : List Nat) (s : State) (k : List Word → Out) : Out :=
  let q := s.seqr
  if (s.core s.myCore).ckstall && rs.any (fun r => r != 0 && q.pend.any (fun p => p.reg == r)) then
    raise { code := Cause.stall } s
  else if rs.any (fun r => (q.read r).p) then raise { code := Cause.poison } s
  else k (rs.map (fun r => (q.read r).v))

/-- Registers rs are read and ws written: wait while one is interlocked (R51, R466), then read. -/
def useRegs (i : Instr) (rs ws : List Nat) (s : State) (k : List Word → Out) : Out :=
  if s.seqr.blocked (rs ++ ws) then waitAt i s else readRegs rs s k

/-! ### Physical memory (R197, R376, R419, R420)

A physical byte is a number: HBM of a pod die from die x 2^37, by striped address; scratchpad from 2^45, by core and
offset. -/

def hbmByte (pdie striped : Nat) : Nat := pdie * 2 ^ 37 + striped
def spadByte (core off : Nat) : Nat := 2 ^ 45 + core * 2 ^ 20 + off

/-- The striped address of byte o of channel k (R376). -/
def channelByte (k o : Nat) : Nat := o / 256 * 2 ^ 14 + k * 256 + o % 256

/-- The pod die that holds a physical byte. -/
def byteDie (p : Nat) : Nat := if p < 2 ^ 45 then p / 2 ^ 37 else (p - 2 ^ 45) / 2 ^ 26

/-- The L2 slice of an HBM byte within its die (R24). -/
def byteSlice (p : Nat) : Nat := p / 256 % 64 / 2

/-- What an unlisted byte of memory reads as (log entry 4). -/
def emptyByte : Byte := 0

/-- Memory in its canonical form: addresses strictly rising, and no byte listed that an unlisted address reads as. -/
def Memory.wf (m : SMap Byte) : Bool := SMap.wf emptyByte m

/-- A byte of memory as it stands. -/
def State.byte (s : State) (p : Nat) : Byte := get emptyByte s.mem p

/-- A byte with the poison mark of its word. -/
def State.vbyte (s : State) (p : Nat) : VByte := ⟨s.byte p, get false s.poison (p / 8)⟩

/-- Write one byte. -/
def State.setByte (s : State) (p : Nat) (b : Byte) : State := { s with mem := put emptyByte s.mem p b }

def State.setBytes : State → List (Nat × Byte) → State
  | s, [] => s
  | s, (p, b) :: r => (s.setByte p b).setBytes r

/-- The words of 8 bytes that hold the bytes written, without repeats. -/
def wordsOf (ps : List Nat) : List Nat := (ps.map (· / 8)).eraseDups

/-- The mark of one word after a write of these bytes: poisoned if a byte written is marked; clean if all 8 bytes are
written unmarked; unchanged otherwise (R420). -/
def State.markWord (s : State) (cells : List (Nat × VByte)) (w : Nat) : State :=
  let own := cells.filter (fun c => c.1 / 8 == w)
  if own.any (fun c => c.2.p) then
    { s with poison := put false s.poison w true, bad := put false s.bad w false }
  else if (List.range 8).all (fun i => own.any (fun c => c.1 == 8 * w + i)) then
    { s with poison := put false s.poison w false, bad := put false s.bad w false }
  else s

def State.markWords (s : State) (cells : List (Nat × VByte)) (ws : List Nat) : State :=
  ws.foldl (fun s w => s.markWord cells w) s

/-- Perform one write of marked bytes (R420). -/
def State.write (s : State) (cells : List (Nat × VByte)) : State :=
  (s.setBytes (cells.map (fun c => (c.1, c.2.b)))).markWords cells (wordsOf (cells.map (·.1)))

/-- The next event sequence number of a die (R421). -/
def State.nextSeq (s : State) (d : Nat) : Nat × State :=
  ((s.die d).seqno, s.modDie d (fun x => { x with seqno := (x.seqno + 1) % 2 ^ 32 }))

/-- n consecutive physical bytes with the little-endian bytes of a number, unmarked. -/
def cellsOf (p n x : Nat) : List (Nat × VByte) :=
  ((List.range n).zip (leBytes n x)).map (fun e => (p + e.1, ⟨e.2, false⟩))

/-- The number that n consecutive bytes hold. -/
def State.num (s : State) (p n : Nat) : Nat := leNat ((List.range n).map (fun i => s.byte (p + i)))

/-- The physical byte of a ring's base: a scratchpad address of a core of the die (R404). -/
def ringBase (pdie : Nat) (v : Word) : Nat :=
  let ga := v.toNat / 64 * 64
  spadByte (64 * pdie + bitsOf ga 50 1 * 32 + bitsOf ga 45 5) (bitsOf ga 0 20)

/-- No mcas holds one of these bytes (R273). -/
def State.unheld (s : State) (ps : List Nat) : Bool := ps.all (fun p => get 0 s.locks (p / 4) == 0)

/-- No mcas holds one of these bytes, and no chain is open on a word of them (R259, R273). -/
def State.clear (s : State) (ps : List Nat) : Bool :=
  s.unheld ps && (wordsOf ps).all (fun w =>
    (get {} (s.die (byteDie (8 * w))).slices (byteSlice (8 * w))).chains.all
      (fun c => c.parts.all (fun x => x.word != w)))

/-! Requests that wait at their homes stand in one order of arrival, word by word (R271, R273). A requester is 2k for the instruction
of crew k, 2k + 1 for what the crew has issued, 2^39 + 2d for inbound RDMA at the ports of die d, and 2^40 + 2n for job or command n of
an engine. -/

/-- The requester that job or command n of an engine is. -/
def engineId (n : Nat) : Nat := 2 ^ 40 + 2 * n

/-- The requester that the oldest RDMA operation of a die is. -/
def netId (die : Nat) : Nat := 2 ^ 39 + 2 * die

/-- Of those that wait for these words, none but requester r, or its crew, stands first (R273). -/
def State.turnOf (s : State) (r : Nat) (ps : List Nat) : Bool :=
  s.fifo.isEmpty || (wordsOf ps).all (fun w => match s.fifo.find? (fun e => e.1 == w) with
    | none => true
    | some e => e.2 / 2 == r / 2)

/-- Requester r waits behind the others for those of these words that are locked or waited for (R273). -/
def State.queueUp (s : State) (r : Nat) (ps : List Nat) : State :=
  { s with fifo := s.fifo ++ ((wordsOf ps).filter (fun w =>
      (!s.unheld (ps.filter (fun p => p / 8 == w)) || s.fifo.any (fun e => e.1 == w)) && !s.fifo.contains (w, r))).map (·, r) }

/-- Requester r waits behind the others for every one of these words (R273). -/
def State.queueAll (s : State) (r : Nat) (ps : List Nat) : State :=
  { s with fifo := s.fifo ++ ((wordsOf ps).filter (fun w => !s.fifo.contains (w, r))).map (·, r) }

/-- Requester r cannot go on at these bytes: it takes its place in their order, if it has none yet. -/
def State.await (s : State) (r : Nat) (ps : List Nat) : Option State :=
  let t := s.queueUp r ps
  if t.fifo = s.fifo then none else some t

/-- What requester r, or its crew, waited for at these bytes has been done. -/
def State.leave (s : State) (r : Nat) (ps : List Nat) : State :=
  if s.fifo.isEmpty then s
  else { s with fifo := s.fifo.filter (fun e => !(e.2 / 2 == r / 2 && (wordsOf ps).contains e.1)) }

/-- The home lets requester r, an engine, at these bytes now (R259, R273). -/
def State.admitsEngine (s : State) (r : Nat) (ps : List Nat) : Bool := s.clear ps && s.turnOf r ps

/-- Requester r waits for nothing any more. -/
def State.leaveAll (s : State) (r : Nat) : State :=
  if s.fifo.isEmpty then s else { s with fifo := s.fifo.filter (fun e => e.2 != r) }

/-- The header of the ring at a base, and the record that its write count names (R404). -/
def ringBytes (base n wr : Nat) : List Nat :=
  (List.range 24).map (base + ·) ++ (List.range 64).map (base + 64 + 64 * (wr % n) + ·)

/-- Append a record of eight words to a ring that does not wait: dropped when full, with word 2 counted (R422, R442). While a
word of the ring is locked, the record waits behind those that wait already (R273).
DEDUCED, log entry 78. -/
def State.ringAppend (s : State) (d sel : Nat) (words : List Nat) : State :=
  let v := s.reg d sel
  let n := wfield v 0 6
  if n = 0 then s else
    let base := ringBase d v
    let wr := s.num base 8
    if !s.unheld (ringBytes base n wr) || (s.die d).ringWait.any (fun e => e.1 == sel) then
      s.modDie d (fun x => { x with ringWait := x.ringWait ++ [(sel, words)] })
    else if wr - s.num (base + 8) 8 < n then
      let dst := base + 64 + 64 * (wr % n)
      (s.write ((words.zip (List.range 8)).flatMap (fun e => cellsOf (dst + 8 * e.2) 8 e.1))).write
        (cellsOf base 8 (wr + 1))
    else s.write (cellsOf (base + 16) 8 (s.num (base + 16) 8 + 1))

/-- The records that waited for a lock are appended, in order, once it is released (R273). -/
def State.ringFlush (s : State) (d : Nat) : State :=
  (s.die d).ringWait.foldl (fun s e => s.ringAppend d e.1 e.2) (s.modDie d (fun x => { x with ringWait := [] }))

/-- Log an error record at a die (R422). -/
def State.logError (s : State) (d type array count : Nat) (addr info : Nat) : State :=
  match s.nextSeq d with
  | (q, s) => s.ringAppend d 0x111 [q + type * 2 ^ 32 + array * 2 ^ 40 + count % 2 ^ 16 * 2 ^ 48, addr, info, 0, 0, 0, 0, 0]

/-- The array that holds a byte, as an error record names it: 0 HBM, 2 bank array (R422). -/
def byteArray (p : Nat) : Nat := if p < 2 ^ 45 then 0 else 2

/-- The address of a physical byte as records give it: its physical address, or for a scratchpad byte its global
address. -/
def byteAddr (p : Nat) : Nat :=
  if p < 2 ^ 45 then p % 2 ^ 37
  else
    let x := p - 2 ^ 45
    2 ^ 60 + x / 2 ^ 29 * 2 ^ 54 + x / 2 ^ 26 % 8 * 2 ^ 51 + x / 2 ^ 20 % 64 * 2 ^ 45 + x % 2 ^ 20

/-- A read finds word w uncorrectable for the first time: it is marked and logged (R419). -/
def State.detect (s : State) (w : Nat) : State :=
  if get false s.bad w then
    ({ s with bad := put false s.bad w false, poison := put false s.poison w true }).logError
      (byteDie (8 * w)) 2 (byteArray (8 * w)) 1 (byteAddr (8 * w)) 0
  else s

/-- Some word of these bytes holds an error that nothing has detected. -/
def State.anyBad (s : State) (ps : List Nat) : Bool := (wordsOf ps).any (fun w => get false s.bad w)

/-- Read bytes: first detections happen (R419), then each byte comes with the mark of its word. -/
def State.readBytes (s : State) (ps : List Nat) : List VByte × State :=
  let s := (wordsOf ps).foldl State.detect s
  (ps.map s.vbyte, s)

/-- The number that bytes hold, and their common mark. -/
def bytesNum (bs : List VByte) : Nat := leNat (bs.map (·.b))
def bytesMark (bs : List VByte) : Bool := bs.any (·.p)

/-- Sign extension from n bits. -/
def sext (n x : Nat) : Word := BitVec.ofInt 64 (BitVec.ofNat n x).toInt

/-- The next free value: a value that the specification does not state (log entry 5). -/
def State.freeVal (s : State) : Word × State := (Config.freeWord s.free, { s with free := s.free + 1 })

/-! ### Completion counters (R249, R250) -/

def Counter.finishOne (c : Counter) : Counter :=
  match c.closed with
  | [] => c
  | b :: r =>
    match b.fail with
    | some e => { c with closed := r, err := true, ecause := if c.err then c.ecause else e }
    | none => { c with closed := r }

/-- Close order (R250): completed batches leave from the oldest on. -/
def Counter.settle : Nat → Counter → Counter
  | 0, c => c
  | n + 1, c =>
    match c.closed with
    | b :: _ => if b.pending = 0 then Counter.settle n c.finishOne else c
    | [] => c

/-- Close the open batch: an empty one is left as it is (R251). -/
def Counter.close (c : Counter) : Counter :=
  if c.joined = 0 then c
  else Counter.settle 16 { c with joined := 0, batch := { id := c.batch.id + 1 }, closed := c.closed ++ [c.batch] }

/-- The counter cannot take a member or a close now (R250, R251). -/
def Counter.full (c : Counter) : Bool := c.closed.length ≥ 15

/-- A join that must wait: the open batch is full and cannot be closed (R250). -/
def Counter.blocked (c : Counter) : Bool := c.joined ≥ 65535 && c.full

def Counter.join (c : Counter) : Counter :=
  let c := if c.joined ≥ 65535 then c.close else c
  { c with joined := c.joined + 1, batch := { c.batch with pending := c.batch.pending + 1 } }

def Batch.complete1 (b : Batch) (fail : Option Nat) : Batch :=
  { b with pending := b.pending - 1, fail := b.fail <|> fail }

/-- A member of batch id completes, with the cause of its failure if it failed (R250). -/
def Counter.memberDone (c : Counter) (id : Nat) (fail : Option Nat) : Counter :=
  if c.batch.id = id then { c with batch := c.batch.complete1 fail }
  else Counter.settle 16 { c with closed := c.closed.map (fun (b : Batch) => if b.id = id then b.complete1 fail else b) }

def Crew.counter (c : Crew) (n : Nat) : Counter := get {} c.cc n

/-- The crew's next member of counter cc. -/
def State.joinBatch (s : State) (k cc : Nat) : Member × State :=
  let c := ((s.crew k).counter cc).join
  (⟨k, cc, c.batch.id⟩, s.modCrew k (fun w => { w with cc := ins w.cc cc c }))

/-- A member leaves its batch without a result: its instruction will join again (R184). -/
def Counter.withdraw (c : Counter) (id : Nat) : Counter :=
  if c.batch.id = id then { c with joined := c.joined - 1, batch := c.batch.complete1 none } else c.memberDone id none

def State.withdraw (s : State) (m : Option Member) : State :=
  match m with
  | some m => s.modCrew m.crew (fun w => { w with cc := ins w.cc m.cc ((w.counter m.cc).withdraw m.id) })
  | none => s

/-- The next number of an engine job or a matrix command. -/
def State.nextJob (s : State) : Nat × State := (s.jseq, { s with jseq := s.jseq + 1 })

/-- A member of a batch is complete; after its crew's sequencers have both stopped, a failure is logged (R250, R319). -/
def State.memberDone (s : State) (m : Member) (fail : Option Nat) : State :=
  let c := s.crew m.crew
  let s := s.modCrew m.crew (fun w => { w with cc := ins w.cc m.cc ((w.counter m.cc).memberDone m.id fail) })
  match fail with
  | some e => if c.a.run = .exited ∧ c.x.run = .exited then
      (s.modCrew m.crew (fun w => { w with late := w.late <|> some e })).logError (crewDie m.crew) 10 6 1 0 e else s
  | none => s

def State.memberDone? (s : State) (m : Option Member) (fail : Option Nat) : State :=
  match m with
  | some m => s.memberDone m fail
  | none => s

/-- Record the first fabric failure of a crew (R305). -/
def State.recordFail (s : State) (k dark rep idx kind ecode seq : Nat) : State :=
  s.modCrew k (fun c =>
    if wbit c.cfail 24 then c
    else { c with cfail := BitVec.ofNat 64 (dark + rep * 2 ^ 8 + idx * 2 ^ 16 + kind * 2 ^ 22 + 2 ^ 24 + ecode * 2 ^ 25
      + seq % 2 ^ 32 * 2 ^ 32) })

/-- An access of crew k finds the path to die d dark: logged through the event arbiter of its die, with the record of a dark
path, and recorded (R284, R305).
DEDUCED, log entry 16. -/
def State.darkFail (s : State) (k d ga : Nat) : State :=
  (s.logError (crewDie k) 6 6 1 ga d).recordFail k d (crewDie k) 0 3 Cause.darkpath 0

/-! ### Queues (R17, R231, R321) -/

def Crew.lqAt (c : Crew) (n : Nat) : List Tok := get [] c.lq n
def Crew.sqAt (c : Crew) (n : Nat) : List Tok := get [] c.sq n
def Crew.setLq (c : Crew) (n : Nat) (l : List Tok) : Crew := { c with lq := put [] c.lq n l }
def Crew.setSq (c : Crew) (n : Nat) (l : List Tok) : Crew := { c with sq := put [] c.sq n l }

/-- Slots of one element group of g lane groups at a width code: ⌈8g x width / 256⌉, at least one (R231). -/
def groupSlots (g wc : Nat) : Nat := max 1 ((8 * g * 2 ^ wc + 255) / 256)

/-- Element groups of a token that are present: a token of count 0 counts one (R231). -/
def Tok.groups (t : Tok) : Nat := if t.n = 0 then 1 else (t.elems.length + t.gsz - 1) / t.gsz

/-- Slots that a token occupies. -/
def Tok.slots (t : Tok) : Nat := if t.marker then 0 else (t.groups - t.freed) * t.spg

def slotsOf (ts : List Tok) : Nat := ts.foldl (fun a t => a + t.slots) 0

/-- Slots held by the load queues, and by the store and index queues (R321). -/
def Crew.lqSlots (c : Crew) : Nat := c.lq.foldl (fun a e => a + slotsOf e.2) 0
def Crew.sqSlots (c : Crew) : Nat := c.sq.foldl (fun a e => a + slotsOf e.2) (slotsOf c.iq)

/-- A push of this many slots finds room in the share of the store queues and in the whole share (R17, R321). -/
def Crew.pushRoom (c : Crew) (q need : Nat) : Bool :=
  decide (c.sqSlots + need ≤ 8 * q - c.slip) && decide (c.lqSlots + c.sqSlots + need ≤ 8 * q)

/-- The token is complete. -/
def Tok.whole (t : Tok) : Bool := !t.marker && t.elems.length == t.n

/-! ### Whether the partner can still supply a wait (R320, R399) -/

/-- A trap of the VIQ holds entries (R398). -/
def Crew.vheld (c : Crew) : Bool := c.viq.any (·.held)

/-- The crew is pre-empted, trapped or loaded (R405): nothing of its VIQ moves. -/
def Crew.parked (c : Crew) : Bool := c.state == 3 || c.state == 4 || c.state == 5

/-- It is a scalar st or red that has issued. -/
def LoadJob.scalar (j : LoadJob) : Bool :=
  match j.store with
  | none => false
  | some p => p.data.isSome

/-- The access pushes a token. -/
def LoadJob.pushes (j : LoadJob) : Bool :=
  match j.store with
  | none => true
  | some p => p.op matches .amo _

/-- The A-slice of a crew may still push into the load queues, or free slots of the store queues, without a new
instruction. -/
def Crew.aPending (c : Crew) : Bool := c.loads.any (fun j => !j.scalar) || c.sc.isSome

/-- The X-slice of a crew may still push into the store, index or branch queues without a new instruction. -/
def Crew.xPending (c : Crew) : Bool := !c.viq.isEmpty && !c.vheld

/-- A queue wait of the current slice: QRESID where the partner has exited (R320), a stop where the crew is stopping and
the partner can supply nothing more (R399), else a wait. queue is the code of R403. -/
def queueWait (i : Instr) (queue : Nat) (empty : Bool) (s : State) : Out :=
  let c := s.myCrew
  let partner := c.seq (!s.cur.xs)
  let more := if s.cur.xs then c.aPending else c.xPending
  if empty && partner.run == .exited && !more then
    raise { code := Cause.qresid, reason := if s.cur.xs then 5 else 4, queue := queue } s
  else if c.stop == .trap && partner.run == .halted && !more then
    .next (s.modSeqr (fun q => { q with run := .halted, wait := some i }))
  else if c.stop == .preempt then .next (s.modSeqr (fun q => { q with run := .halted, wait := some i }))
  else waitAt i s

/-- A wait at which a pending stop is taken: those that R316 names, tgwait among them (R399, R410).
DEDUCED, log entry 82. -/
def namedWait (i : Instr) (s : State) : Out :=
  if s.myCrew.stop = .none then waitAt i s
  else .next (s.modSeqr (fun q => { q with run := .halted, wait := some i }))

end Sys2Proof.Machine
end

