-- ==== Sys2Proof/Machine/Float.lean ====
section
/-!
DEFINITION. FP32 and BF16 arithmetic (R66 to R76, R81, R86): values are exact signed numbers m x 2^e, and every operation
rounds once.
-/
namespace Sys2Proof.Machine

/-- The two formats (R66). -/
inductive Fmt where
  | fp32 | bf16
  deriving DecidableEq, Repr

/-- Precision p (R67), and the width in bits. -/
def Fmt.prec : Fmt → Nat
  | .fp32 => 24
  | .bf16 => 8
def Fmt.bits : Fmt → Nat
  | .fp32 => 32
  | .bf16 => 16

/-- The value of an encoding (R67): num n m e is (-1)^n x m x 2^e. -/
inductive Fp where
  | nan (signalling : Bool)
  | inf (neg : Bool)
  | num (neg : Bool) (m : Nat) (e : Int)
  deriving DecidableEq, Repr

/-- Sign bit of an encoding. -/
def Fmt.sign (f : Fmt) (x : Nat) : Bool := bitOf x (f.bits - 1)

/-- Exponent and fraction fields. -/
def Fmt.expf (f : Fmt) (x : Nat) : Nat := bitsOf x (f.prec - 1) 8
def Fmt.frac (f : Fmt) (x : Nat) : Nat := bitsOf x 0 (f.prec - 1)

def Fmt.decode (f : Fmt) (x : Nat) : Fp :=
  let ex := f.expf x
  let fr := f.frac x
  if ex = 255 then (if fr = 0 then .inf (f.sign x) else .nan (!bitOf fr (f.prec - 2)))
  else if ex = 0 then .num (f.sign x) fr (-126 - ((f.prec - 1 : Nat) : Int))
  else .num (f.sign x) (2 ^ (f.prec - 1) + fr) ((ex : Int) - 127 - ((f.prec - 1 : Nat) : Int))

/-- Canonical quiet NaN (R68), infinity, largest finite value, and zero. -/
def Fmt.qnan (f : Fmt) : Nat := 0x1FF * 2 ^ (f.prec - 2)
def Fmt.signed (f : Fmt) (neg : Bool) (mag : Nat) : Nat := (if neg then 2 ^ (f.bits - 1) else 0) + mag
def Fmt.infMag (f : Fmt) : Nat := 255 * 2 ^ (f.prec - 1)
def Fmt.infinity (f : Fmt) (neg : Bool) : Nat := f.signed neg f.infMag
def Fmt.largest (f : Fmt) (neg : Bool) : Nat := f.signed neg (f.infMag - 1)
def Fmt.zero (f : Fmt) (neg : Bool) : Nat := f.signed neg 0

/-- An encoding that an operation delivers, and whether its element raised an IEEE exception (R74). -/
structure FRes where
  bits : Nat
  exc  : Bool := false
  deriving DecidableEq, Repr

/-- Rounding modes (R57, R70). -/
def RNE : Nat := 0
def RDN : Nat := 2

/-- Whether the magnitude n + (rem + sticky) / 2^d rounds up (R70). -/
def roundsUp (rm : Nat) (neg : Bool) (n rem d : Nat) (sticky : Bool) : Bool :=
  let half := 2 ^ d / 2
  let inexact := rem != 0 || sticky
  match rm with
  | 0 => d != 0 && (decide (rem > half) || (rem == half && (sticky || n % 2 == 1)))
  | 1 => false
  | 2 => neg && inexact
  | _ => !neg && inexact

/-- The magnitude m x 2^e (and a little more, under sticky) as a multiple of 2^q: the multiple and whether it is
inexact. -/
def roundAt (rm : Nat) (neg : Bool) (m : Nat) (e : Int) (sticky : Bool) (q : Int) : Nat × Bool :=
  if q ≤ e then (m * 2 ^ (e - q).toNat, sticky)
  else
    let d := (q - e).toNat
    let n := m / 2 ^ d
    let rem := m % 2 ^ d
    (if roundsUp rm neg n rem d sticky then n + 1 else n, rem != 0 || sticky)

/-- An overflowed result (R71). -/
def Fmt.overflow (f : Fmt) (rm : Nat) (neg : Bool) : Nat :=
  match rm with
  | 0 => f.infinity neg
  | 1 => f.largest neg
  | 2 => if neg then f.infinity neg else f.largest neg
  | _ => if neg then f.largest neg else f.infinity neg

/-- Round a non-zero magnitude to the format (R70, R71, R74). -/
def Fmt.round (f : Fmt) (rm : Nat) (neg : Bool) (m : Nat) (e : Int) (sticky : Bool := false) : FRes :=
  let p1 : Int := ((f.prec - 1 : Nat) : Int)
  let lead := (m.log2 : Int) + e
  let q := max lead (-126) - p1
  match roundAt rm neg m e sticky q with
  | (n, inexact) =>
    let mag := (q + p1 + 126).toNat * 2 ^ (f.prec - 1) + n
    if mag ≥ f.infMag then ⟨f.overflow rm neg, true⟩
    else
      let tiny := decide (lead < -126) && decide ((roundAt rm neg m e sticky (lead - p1)).1 < 2 ^ ((-126 - (lead - p1)).toNat))
      ⟨f.signed neg mag, inexact && tiny⟩

/-! ### Sums -/

/-- A term of a sum as an exact integer multiple of 2^e. -/
def termAt (e : Int) : Fp → Int
  | .num neg m ex => (if neg then -1 else 1) * ((m * 2 ^ (ex - e).toNat : Nat) : Int)
  | _ => 0

def Fp.exponent : Fp → Option Int
  | .num _ 0 _ => none
  | .num _ _ e => some e
  | _ => none

def Fp.isNan : Fp → Bool
  | .nan _ => true
  | _ => false
def Fp.isSnan : Fp → Bool
  | .nan b => b
  | _ => false
def Fp.isInf : Fp → Bool
  | .inf _ => true
  | _ => false
def Fp.isZero : Fp → Bool
  | .num _ 0 _ => true
  | _ => false
def Fp.neg : Fp → Bool
  | .nan _ => false
  | .inf n => n
  | .num n _ _ => n
def Fp.negate : Fp → Fp
  | .nan b => .nan b
  | .inf n => .inf (!n)
  | .num n m e => .num (!n) m e

/-- The exact sum of terms rounded once (R70 to R72, R81): a NaN term, or infinities of both signs, give a NaN. -/
def Fmt.sum (f : Fmt) (rm : Nat) (ts : List Fp) : FRes :=
  if ts.any Fp.isNan then ⟨f.qnan, ts.any Fp.isSnan⟩
  else if ts.any Fp.isInf then
    if ts.any (fun t => t.isInf && t.neg) && ts.any (fun t => t.isInf && !t.neg) then ⟨f.qnan, true⟩
    else ⟨f.infinity (ts.any (fun t => t.isInf && t.neg)), false⟩
  else if ts.all Fp.isZero then
    ⟨f.zero (if ts.all Fp.neg then true else if ts.any Fp.neg then rm == RDN else false), false⟩
  else
    let e := (ts.filterMap Fp.exponent).foldl min 1024
    let v := (ts.map (termAt e)).foldl (· + ·) 0
    if v = 0 then ⟨f.zero (rm == RDN), false⟩ else f.round rm (decide (v < 0)) v.natAbs e

/-- An exact product: 0 x infinity is a NaN that raises invalid, as a signalling operand does (R74, R124). -/
def Fp.mul (a b : Fp) : Fp :=
  if a.isSnan || b.isSnan then .nan true
  else if a.isInf && b.isZero || a.isZero && b.isInf then .nan true
  else if a.isNan || b.isNan then .nan false
  else if a.isInf || b.isInf then .inf (a.neg != b.neg)
  else match a, b with
    | .num n m e, .num n' m' e' => .num (n != n') (m * m') (e + e')
    | _, _ => .nan false

/-- A rounded value. -/
def Fmt.deliver (f : Fmt) (rm : Nat) : Fp → FRes
  | .nan s => ⟨f.qnan, s⟩
  | .inf n => ⟨f.infinity n, false⟩
  | .num n 0 _ => ⟨f.zero n, false⟩
  | .num n m e => f.round rm n m e

def Fmt.add (f : Fmt) (rm a b : Nat) : FRes := f.sum rm [f.decode a, f.decode b]
def Fmt.sub (f : Fmt) (rm a b : Nat) : FRes := f.sum rm [f.decode a, (f.decode b).negate]
def Fmt.mul (f : Fmt) (rm a b : Nat) : FRes := f.deliver rm ((f.decode a).mul (f.decode b))

/-- a x b + c, with the product or c negated (R124). -/
def Fmt.fma (f : Fmt) (rm : Nat) (np nc : Bool) (a b c : Nat) : FRes :=
  let p := (f.decode a).mul (f.decode b)
  let c := f.decode c
  f.sum rm [if np then p.negate else p, if nc then c.negate else c]

/-- a / b (R124). -/
def Fmt.div (f : Fmt) (rm a b : Nat) : FRes :=
  let x := f.decode a
  let y := f.decode b
  let neg := x.neg != y.neg
  if x.isNan || y.isNan then ⟨f.qnan, x.isSnan || y.isSnan⟩
  else if x.isInf && y.isInf || x.isZero && y.isZero then ⟨f.qnan, true⟩
  else if x.isInf then ⟨f.infinity neg, false⟩
  else if y.isInf || x.isZero then ⟨f.zero neg, false⟩
  else if y.isZero then ⟨f.infinity neg, true⟩
  else match x, y with
    | .num _ m e, .num _ m' e' =>
      f.round rm neg (m * 2 ^ 80 / m') (e - e' - 80) (m * 2 ^ 80 % m' != 0)
    | _, _ => ⟨f.qnan, false⟩

/-- Integer square root, bit by bit: r squared is at most n. -/
def isqrt (n : Nat) : Nat → Nat → Nat
  | 0, r => r
  | b + 1, r => isqrt n b (if (r + 2 ^ b) * (r + 2 ^ b) ≤ n then r + 2 ^ b else r)

/-- The square root of m x 2^e, of at least 40 bits: its floor as a multiple of 2^(e'), and whether it is inexact. -/
def sqrtOf (m : Nat) (e : Int) : Nat × Int × Bool :=
  let k : Nat := if e % 2 = 0 then 80 else 81
  let n := m * 2 ^ k
  let r := isqrt n ((n.log2 + 2) / 2 + 1) 0
  (r, (e - k) / 2, r * r != n)

/-- The square root (R124). -/
def Fmt.sqrt (f : Fmt) (rm a : Nat) : FRes :=
  match f.decode a with
  | .nan s => ⟨f.qnan, s⟩
  | .inf n => if n then ⟨f.qnan, true⟩ else ⟨f.infinity false, false⟩
  | .num n 0 _ => ⟨f.zero n, false⟩
  | .num n m e =>
    if n then ⟨f.qnan, true⟩
    else match sqrtOf m e with
      | (r, e', st) => f.round rm false r e' st

/-! ### Comparisons, classes and conversions -/

/-- The order of encodings that are no NaN: zeros equal, or -0 below +0. -/
def Fmt.key (f : Fmt) (x : Nat) : Int :=
  if f.sign x then -((x % 2 ^ (f.bits - 1) : Nat) : Int) else ((x % 2 ^ (f.bits - 1) : Nat) : Int)
def Fmt.strictKey (f : Fmt) (x : Nat) : Int := if f.sign x then f.key x - 1 else f.key x

/-- vfmin and vfmax (R125). -/
def Fmt.pick (f : Fmt) (less : Bool) (a b : Nat) : FRes :=
  let x := f.decode a
  let y := f.decode b
  if x.isSnan || y.isSnan then ⟨f.qnan, true⟩
  else if x.isNan && y.isNan then ⟨f.qnan, false⟩
  else if x.isNan then ⟨b, false⟩
  else if y.isNan then ⟨a, false⟩
  else if decide (f.strictKey a ≤ f.strictKey b) == less then ⟨a, false⟩ else ⟨b, false⟩

/-- A comparison: it holds, and it raises invalid (R127). -/
def Fmt.compare (f : Fmt) (cond a b : Nat) : Bool × Bool :=
  let x := f.decode a
  let y := f.decode b
  let un := x.isNan || y.isNan
  let sg := x.isSnan || y.isSnan
  let p := f.key a
  let q := f.key b
  match cond with
  | 0 => (!un && decide (p = q), sg)
  | 1 => (un || decide (p ≠ q), sg)
  | 2 => (!un && decide (p < q), un)
  | 3 => (!un && decide (p ≤ q), un)
  | 4 => (!un && decide (p > q), un)
  | 5 => (!un && decide (p ≥ q), un)
  | 6 => (un, sg)
  | _ => (!un, sg)

/-- vfclass (R129). -/
def Fmt.classify (f : Fmt) (a : Nat) : Nat :=
  let c := match f.decode a with
    | .nan s => if s then 5 else 4
    | .inf _ => 3
    | .num _ m _ => if m = 0 then 0 else if f.expf a = 0 then 1 else 2
  2 ^ c + (if f.sign a then 128 else 0)

/-- Conversion between the formats (R73). -/
def Fmt.convert (src dst : Fmt) (rm a : Nat) : FRes := dst.deliver rm (src.decode a)

/-- Conversion to an integer of n bits, saturating (R73): the result in two's complement. -/
def Fmt.toInteger (f : Fmt) (rm : Nat) (isSigned : Bool) (n a : Nat) : FRes :=
  let lo : Int := if isSigned then -(2 ^ (n - 1) : Nat) else 0
  let hi : Int := if isSigned then (2 ^ (n - 1) : Nat) - 1 else (2 ^ n : Nat) - 1
  let enc := fun (v : Int) => (v % (2 ^ n : Nat)).toNat
  match f.decode a with
  | .nan _ => ⟨0, true⟩
  | .inf neg => ⟨enc (if neg then lo else hi), true⟩
  | .num neg m e =>
    let mag := (roundAt rm neg m e false 0).1
    let v : Int := if neg then -(mag : Int) else mag
    if v < lo then ⟨enc lo, true⟩ else if v > hi then ⟨enc hi, true⟩ else ⟨enc v, false⟩

/-- Conversion from an integer (R73). -/
def Fmt.ofInteger (f : Fmt) (rm : Nat) (v : Int) : FRes :=
  if v = 0 then ⟨f.zero false, false⟩ else f.round rm (decide (v < 0)) v.natAbs 0

/-- One cell step of the matrix unit (R81): c plus products of BF16 operands, rounded once. -/
def cellStep (c : Nat) (ps : List (Nat × Nat)) : Nat :=
  (Fmt.fp32.sum RNE (Fmt.fp32.decode c :: ps.map (fun p => (Fmt.bf16.decode p.1).mul (Fmt.bf16.decode p.2)))).bits

end Sys2Proof.Machine
end

