-- ==== Sys2Proof/Machine/Addr.lean ====
section
/-!
DEFINITION. Global addresses (R22 to R27), translation at the home (R375 to R380), the location of an access, and the
reads and writes that are performed there.
-/
namespace Sys2Proof.Machine

/-- Where a global address leads once the issuer has checked it. -/
inductive Place where
  | hbm (pdie va : Nat)
  | spad (core off : Nat)
  | window (w off : Nat)
  deriving DecidableEq, Repr

/-- What an access does, for the permissions of R378. -/
inductive Acc where
  | read | write | rmw | red | fetch | netRead | netWrite | netRmw
  deriving DecidableEq, Repr

/-- The access writes its location. -/
def Acc.writes : Acc → Bool
  | .write | .rmw | .red | .netWrite | .netRmw => true
  | .read | .fetch | .netRead => false

/-- Pod die that a global address names: the issuer's own under self = 1 (R23, R25). -/
def gaDie (pdie ga : Nat) : Nat := if bitOf ga 59 then pdie else bitsOf ga 51 8

/-- Core within the die that a scratchpad address names (R25). -/
def gaCore (ga : Nat) : Nat := bitsOf ga 45 6

/-- The address with self replaced by the issuer's chip and die. -/
def resolveSelf (pdie ga : Nat) : Nat :=
  if bitOf ga 59 && decide (ga / 2 ^ 60 ≤ 1) then ga - bitsOf ga 51 9 * 2 ^ 51 + pdie * 2 ^ 51 else ga

/-- Fields of a route table entry (R278). -/
def routeDark (s : State) (pdie peer : Nat) : Bool := wbit (s.reg pdie (0x500 + peer)) 12
def routeMism (s : State) (pdie peer : Nat) : Bool := wbit (s.reg pdie (0x500 + peer)) 13
def routeValid (s : State) (pdie peer : Nat) : Bool := wbit (s.reg pdie (0x500 + peer)) 14
def routeLanes (s : State) (pdie peer : Nat) : Nat := wfield (s.reg pdie (0x500 + peer)) 8 4

/-- A path that carries no traffic: dark in either direction, or with an unexpected peer (R278, R284, R426). -/
def pathDown (s : State) (pdie peer : Nat) : Bool := pdie != peer && (routeDark s pdie peer || routeMism s pdie peer)

/-- The issuer's checks: reasons 1 to 7 of R27, for an access of n bytes. core is the issuer's core, if it has one;
window gives the bound length of a window, for an issuer that has windows. Of several reasons that one address meets the lowest is
given, here and in locate.
DESIGN CHOICE, log entry 108. -/
def issuerCheck (s : State) (pdie : Nat) (core : Option Nat) (window : Nat → Option Nat) (writes : Bool) (ga n : Nat) :
    Except Nat Place :=
  match ga / 2 ^ 60 with
  | 0 =>
    let d := gaDie pdie ga
    if bitsOf ga 44 7 > 0x40 then .error 3
    else if d ≠ pdie ∧ !routeValid s pdie d then .error 4
    else .ok (.hbm d (ga % 2 ^ 51))
  | 1 =>
    let d := gaDie pdie ga
    let home := 64 * d + gaCore ga
    if bitsOf ga 20 25 ≠ 0 then .error 2
    else if d ≠ pdie ∧ !routeValid s pdie d then .error 4
    else if core = some home ∧ ga % 2 ^ 20 + n > Config.bankBytes * (s.core home).s then .error 7
    else .ok (.spad home (ga % 2 ^ 20))
  | 2 =>
    if bitsOf ga 48 8 ≠ 0 then .error 2
    else if writes then .error 5
    else match window (bitsOf ga 56 4) with
      | none => .error 6
      | some len => if ga % 2 ^ 48 + n > len then .error 6 else .ok (.window (bitsOf ga 56 4) (ga % 2 ^ 48))
  | _ => .error 1

/-- The topology version that a die stamps on its packets (R285, R423). -/
def dieVersion (s : State) (d : Nat) : Nat := wfield (s.reg (8 * dieChip d) 0x130) 32 16

/-- The chip of a die sends new packets: it does not quiesce (R424). -/
def sending (s : State) (d : Nat) : Bool :=
  let p := (s.chip (dieChip d)).phase
  p < 2 || p > 4

/-- New accesses from one die to another go out and are accepted: the sender does not quiesce, the receiver is there, and
the versions agree (R285, R424). -/
def linkOpen (s : State) (src dst : Nat) : Bool :=
  src == dst || (sending s src && (s.chip (dieChip dst)).supplied && dieVersion s src == dieVersion s dst)

/-! ### Page tables (R375 to R378) -/

/-- Log2 of the page size of a leaf at a level (R377). -/
def leafShift : Nat → Nat
  | 1 => 30
  | 2 => 21
  | _ => 16

/-- Index into the table of a level (R377). -/
def tableIndex (va : Nat) : Nat → Nat
  | 0 => bitsOf va 39 12
  | 1 => bitsOf va 30 9
  | 2 => bitsOf va 21 9
  | _ => bitsOf va 16 5

/-- The page's physical address (R377). -/
def leafPa (e : Nat) : Nat := bitsOf e 16 36 * 2 ^ 16
def leafPch (e : Nat) : Nat := bitsOf e 56 7

/-- A leaf entry breaks the rules of R377: TFORM. -/
def leafMalformed (lev e va : Nat) : Bool :=
  let size := 2 ^ leafShift lev
  lev == 0 || bitsOf e 9 7 != 0 || bitsOf e 52 4 != 0 || bitOf e 63 || bitsOf e 6 2 == 3
    || leafPch e != bitsOf va 44 7 || leafPa e % size != 0
    || (if leafPch e = 0x40 then decide (leafPa e + size > 2 ^ 37) else decide (leafPa e + size > 2 ^ 31))

/-- A failed check at the home: cause and reason. -/
structure Refused where
  code   : Nat
  reason : Nat := 0
  deriving DecidableEq, Repr

/-- What a lookup at the home answers: it has the result, it refuses the access, or the access waits: for a walk or a walker
(R380), or for a page-table word that an mcas or a chain holds (R259, R273). -/
inductive Look (α : Type) where
  | ok (a : α)
  | error (r : Refused)
  | wait
  deriving DecidableEq, Repr

/-- A walk answers a leaf, or a cause; and the physical bytes of the last entry read. -/
structure WalkResult where
  res   : Look TlbEntry
  entry : Nat

/-- Walk from a table at a striped address (R377, R378); fuel is the levels left. -/
def walkFrom (s : State) (pdie ctx va : Nat) : Nat → Nat → WalkResult
  | 0, table => ⟨.error ⟨Cause.tform, 0⟩, hbmByte pdie table⟩
  | fuel + 1, table =>
    let lev := 3 - fuel
    let p := hbmByte pdie ((table + 8 * tableIndex va lev) % 2 ^ 37)
    let e := s.num p 8
    if !s.clear [p, p + 4] then ⟨.wait, p⟩
    else if get false s.poison (p / 8) || get false s.bad (p / 8) then ⟨.error ⟨Cause.twalk, 0⟩, p⟩
    else if !bitOf e 0 then ⟨.error ⟨Cause.tnomap, 0⟩, p⟩
    else if bitOf e 1 then
      if leafMalformed lev e va then ⟨.error ⟨Cause.tform, 0⟩, p⟩
      else ⟨.ok ⟨ctx, lev, va / 2 ^ leafShift lev, BitVec.ofNat 64 e⟩, p⟩
    else if bitsOf e 2 6 ≠ 0 ∨ bitsOf e 52 12 ≠ 0 ∨ lev = 3 then ⟨.error ⟨Cause.tform, 0⟩, p⟩
    else walkFrom s pdie ctx va fuel (bitsOf e 8 44 * 2 ^ 8)

/-- The walk of a page through a context's tables on its home die (R378). -/
def walk (s : State) (pdie ctx va : Nat) : WalkResult :=
  if !wbit (s.reg pdie (0xC00 + 4 * ctx)) 0 then ⟨.error ⟨Cause.tnomap, 0⟩, 0⟩
  else walkFrom s pdie ctx va 4 (s.reg pdie (0xC01 + 4 * ctx)).toNat

/-- A TLB entry translates this address (R379). -/
def TlbEntry.hits (e : TlbEntry) (ctx va : Nat) : Bool := e.ctx == ctx && e.page == va / 2 ^ leafShift e.lev

/-- A TLB with an entry added; the oldest one leaves when it is full (R379).
DEDUCED, log entry 87. -/
def tlbAdd (size : Nat) (e : TlbEntry) (l : List TlbEntry) : List TlbEntry :=
  if l.contains e then l else (e :: l).take size

/-- Record the translation in the last-level TLB, and in the L1 TLB of a core of the same die (R379). -/
def State.fillTlb (s : State) (core : Option Nat) (pdie : Nat) (e : TlbEntry) : State :=
  let s := s.modDie pdie (fun x => { x with tlb := tlbAdd 2048 e x.tlb })
  match core with
  | some n => if coreDie n = pdie then s.modCore n (fun c => { c with l1 := tlbAdd 128 e c.l1 }) else s
  | none => s

/-- The L1 hit of a core, then the last-level hit of the home die (R379). -/
def tlbLookup (s : State) (core : Option Nat) (pdie ctx va : Nat) : Option TlbEntry :=
  let l1 := match core with
    | some n => if coreDie n = pdie then (s.core n).l1 else []
    | none => []
  match l1.find? (·.hits ctx va) with
  | some e => some e
  | none => (s.die pdie).tlb.find? (·.hits ctx va)

/-- A walk runs: its leaf fills the TLBs, and an uncorrectable page-table read is logged (R378, R379). -/
def walkFill (s : State) (core : Option Nat) (pdie ctx va : Nat) : Look TlbEntry × State :=
  let w := walk s pdie ctx va
  match w.res with
  | .ok e => (.ok e, s.fillTlb core pdie e)
  | .error r =>
    if r.code = Cause.twalk then (.error r, (s.detect (w.entry / 8)).logError pdie 8 0 1 (byteAddr w.entry) ctx)
    else (.error r, s)
  | .wait => (.wait, s)

/-- A walk of the same context and page is in progress, or waits for a walker: a miss waits for it (R380). -/
def walkBusy (s : State) (pdie ctx va : Nat) : Bool :=
  ((s.die pdie).walks ++ (s.die pdie).misses).any (fun w => w.ctx == ctx && bitsOf w.va 16 35 == bitsOf va 16 35)

/-- The translation of an address on its home die: from a TLB; else the miss takes a walker, whose walk takes no time and fills
the TLBs; while every walker is busy, or earlier misses wait for one, it waits behind them (R378 to R380).
DEDUCED, log entry 94. -/
def translate (s : State) (core : Option Nat) (pdie ctx va : Nat) : Look TlbEntry × State :=
  match tlbLookup s core pdie ctx va with
  | some e => (.ok e, s.fillTlb core pdie e)
  | none =>
    if walkBusy s pdie ctx va then (.wait, s)
    else if (s.die pdie).walks.length ≥ 256 ∨ (s.die pdie).misses ≠ [] then (.wait, s.modDie pdie (fun x => { x with misses := x.misses ++ [⟨ctx, va⟩] }))
    else walkFill s core pdie ctx va

/-- An attempt from s that ended in the state t must wait: it has done nothing but take its places among the misses of each die
and the requests at each home (R273, R380). -/
def State.carry (s t : State) : State :=
  (t.dies.filter (fun e => e.2.misses != (s.die e.1).misses)).foldl (fun s e => s.modDie e.1 (fun x => { x with misses := e.2.misses }))
    (if t.fifo = s.fifo then s else { s with fifo := t.fifo })

/-- A step that had to wait, from s, having come to t: it happens only where it has taken a place in some order. -/
def State.held (s t : State) : Option State :=
  if t.fifo != s.fifo || t.dies.any (fun e => e.2.misses != (s.die e.1).misses) then some (s.carry t) else none

/-- The leaf allows the access (R378). -/
def allowed (e : Word) : Acc → Bool
  | .read => wbit e 2
  | .write => wbit e 3
  | .rmw | .red => wbit e 2 && wbit e 3
  | .fetch => wbit e 4
  | .netRead => wbit e 8 && wbit e 2
  | .netWrite => wbit e 8 && wbit e 3
  | .netRmw => wbit e 8 && wbit e 2 && wbit e 3

/-- The physical byte of an address under a leaf (R376, R377). -/
def leafByte (pdie : Nat) (e : TlbEntry) (va : Nat) : Nat :=
  let a := leafPa e.leaf.toNat + va % 2 ^ leafShift e.lev
  if leafPch e.leaf.toNat = 0x40 then hbmByte pdie a else hbmByte pdie (channelByte (leafPch e.leaf.toNat) a)

/-! ### Locations -/

/-- Locate n bytes at a place, at its home: reasons 8 and 9, translation, permission, and bytes in two pages (R25, R27,
R198, R378). -/
def locate (s : State) (core : Option Nat) (ctx : Nat) (acc : Acc) (n : Nat) : Place → Look Located × State
  | .hbm pdie va =>
    match translate s core pdie ctx va with
    | (.error r, s) => (.error r, s)
    | (.wait, s) => (.wait, s)
    | (.ok e, s) =>
      if !allowed e.leaf acc then (.error ⟨Cause.tperm, 0⟩, s)
      else if va % 2 ^ leafShift e.lev + n > 2 ^ leafShift e.lev then (.error ⟨Cause.align, 0⟩, s)
      else (.ok ⟨(List.range n).map (fun i => leafByte pdie e (va + i)), wfield e.leaf 6 2, wbit e.leaf 5, e.lev⟩, s)
  | .spad home off =>
    if core ≠ some home ∧ off + n > Config.bankBytes * (s.core home).s then (.error ⟨Cause.addrflt, 8⟩, s)
    else if (s.core home).owner ≠ some ctx then (.error ⟨Cause.addrflt, 9⟩, s)
    else (.ok ⟨(List.range n).map (fun i => spadByte home (off + i)), 0, false, 0⟩, s)
  | .window _ _ => (.error ⟨Cause.addrflt, 6⟩, s)

/-- The kind entry of a located page of another die (R206). -/
def Located.entry (l : Located) (die ctx va : Nat) : KindEntry := ⟨die, ctx, l.lev, va / 2 ^ leafShift l.lev, l.kind⟩

/-- A kind entry is of this page. -/
def KindEntry.hits (e : KindEntry) (die ctx va : Nat) : Bool :=
  e.die == die && e.ctx == ctx && e.page == va / 2 ^ leafShift e.lev

/-- A core keeps a kind entry: the least recently used of 256 makes room (R206, R379). -/
def State.keepKind (s : State) (core : Nat) (e : KindEntry) : State :=
  s.modCore core (fun c => { c with
    kinds := (e :: c.kinds.filter (fun x => !(x.die == e.die && x.ctx == e.ctx && x.lev == e.lev && x.page == e.page))).take 256 })

/-- The trap of a refused access at an address. -/
def Refused.trap (r : Refused) (ga : Nat) : Trap := { code := r.code, reason := r.reason, tval := BitVec.ofNat 64 ga }

/-- The bound length of a window of a crew (R287). -/
def Crew.windowLen (c : Crew) (w : Nat) : Option Nat :=
  let x := get {} c.win w
  if x.bound then some x.len else none

/-- The issuer's checks for an access of crew k. -/
def crewCheck (s : State) (k : Nat) (writes : Bool) (ga n : Nat) : Except Nat Place :=
  issuerCheck s (crewDie k) (some (crewCore k)) (s.crew k).windowLen writes ga n

/-- As crewCheck, of an access to the scratchpad of the crew's own core, with the check of its owner (R25, R27). -/
def ownCheck (s : State) (k : Nat) (writes : Bool) (ga n : Nat) : Except Nat Place :=
  match crewCheck s k writes ga n with
  | .ok pl => if (s.core (crewCore k)).owner = some (s.crew k).ctx then .ok pl else .error 9
  | x => x

def Place.die (p : Place) (own : Nat) : Nat :=
  match p with
  | .hbm d _ => d
  | .spad n _ => coreDie n
  | .window _ _ => own

/-! ### Performing at the home -/

/-- Crew k has a contribution waiting in a slice of these words: what it sends there later comes after it (R201, R280). -/
def State.redWaits (s : State) (k : Nat) (ps : List Nat) : Bool :=
  (wordsOf ps).any (fun w => (get {} (s.die (byteDie (8 * w))).slices (byteSlice (8 * w))).wait.any (fun x =>
    decide (8 * w < 2 ^ 45) && (match x.member with
      | some m => m.crew == k
      | none => false)))

/-- The home lets crew k at these bytes now, and no earlier request for them waits there (R273). -/
def State.admits (s : State) (k : Nat) (ps : List Nat) : Bool := s.clear ps && !s.redWaits k ps && s.turnOf (2 * k) ps

/-- Where an element will be performed, as far as the crew knows. -/
def Spot.known : Spot → Option Located
  | .at l => some l
  | .ask _ l => l
  | _ => none

/-- The elements of an access that are not performed yet. -/
def LoadJob.undone (j : LoadJob) : List Spot :=
  j.spots ++ (match j.store with
    | some p => p.left
    | none => [])

/-- The crew has issued an access that is not performed yet, and that an access to these bytes must come after: one of the same
words; for an SO access another SO access; for one that is not UO, an acquire (R201, R204, R210). -/
def Crew.pendingAt (c : Crew) (kind : Nat) (ps : List Nat) : Bool :=
  let ws := wordsOf ps
  let hit := fun (kd : Nat) (qs : List Nat) => (kind == 1 && kd == 1) || qs.any (fun p => ws.contains (p / 8))
  c.reads.any (fun r => r.value.isNone && hit r.kind r.bytes)
    || c.loads.any (fun j => (j.acq && kind != 2 && !j.undone.isEmpty) || j.undone.any (fun x => match x.known with
      | some l => hit l.kind l.bytes
      | none => false))

/-- The crew with only those of its accesses that come before number n in program order. -/
def Crew.before (c : Crew) (n : Nat) : Crew :=
  { c with reads := c.reads.filter (fun r => decide (r.num < n)), loads := c.loads.filter (fun j => decide (j.num < n)) }

/-- A contribution that crew k has made in an SO page is not performed yet: its later SO accesses wait (R204, R258). -/
def State.soReds (s : State) (k : Nat) : Bool :=
  let mine := fun (x : Contribution) => x.so && (match x.member with
    | some m => m.crew == k
    | none => false)
  s.dies.any (fun d => d.2.slices.any (fun e => e.2.wait.any mine || e.2.chains.any (fun c => c.parts.any mine)))

/-- A new access of crew k, of this kind, may be performed at these bytes now. -/
def State.lets (s : State) (k kind : Nat) (ps : List Nat) : Bool :=
  s.admits k ps && !(s.crew k).pendingAt kind ps && !(kind == 1 && s.soReds k)

/-- Access number n of crew k, of this kind, may be performed at these bytes now. -/
def State.letsAt (s : State) (k n kind : Nat) (ps : List Nat) : Bool :=
  s.admits k ps && !((s.crew k).before n).pendingAt kind ps && !(kind == 1 && s.soReds k)

/-! ### Core caches (R216 to R219) -/

/-- The lines that bytes touch, each with its words. -/
def lineMasks (ps : List Nat) : List (Nat × BitVec 16) :=
  ((ps.map (· / 64)).eraseDups).map (fun n =>
    (n, (ps.filter (fun p => p / 64 == n)).foldl (fun m p => m ||| BitVec.ofNat 16 (2 ^ (p % 64 / 4))) 0))

/-- A line without these words. -/
def CacheLine.drop (l : CacheLine) (m : BitVec 16) : CacheLine := ⟨l.valid &&& ~~~m, l.dirty &&& ~~~m⟩

def dropLines (ms : List (Nat × BitVec 16)) (c : SMap CacheLine) : SMap CacheLine :=
  ms.foldl (fun c e => put {} c e.1 ((get {} c e.1).drop e.2)) c

/-- Every core-cache copy of the words of these bytes is invalidated, a dirty one returned first (R218, R219).
DEDUCED, log entry 19. -/
def State.dropCopies (s : State) (ps : List Nat) : State :=
  if s.cores.any (fun e => !e.2.cache.isEmpty) then
    { s with cores := s.cores.map (fun e =>
        if e.2.cache.isEmpty then e else (e.1, { e.2 with cache := dropLines (lineMasks ps) e.2.cache })) }
  else s

/-- Lines of the core cache: the banks that the carve and the class leave, of 8 KiB each (R19, R101). -/
def Core.cacheLines (c : Core) : Nat := 128 * (128 - c.s - c.q - 16 * max c.cls (c.raise.getD 0))

/-- A core comes to hold words of a line: where every line of its cache is taken, the line of the lowest address makes room, its
dirty words returned; with no bank of the core cache it holds nothing.
DESIGN CHOICE, log entry 109. -/
def Core.hold (c : Core) (dirty : Bool) (e : Nat × BitVec 16) : Core :=
  let l := get {} c.cache e.1
  if c.cacheLines = 0 then c
  else
    let m := if l = {} ∧ c.cache.length ≥ c.cacheLines then c.cache.tail else c.cache
    { c with cache := put {} m e.1 ⟨l.valid ||| e.2, if dirty then l.dirty ||| e.2 else l.dirty⟩ }

/-- A core comes to hold the words of these bytes. -/
def State.hold (s : State) (core : Nat) (dirty : Bool) (ps : List Nat) : State :=
  s.modCore core (fun c => (lineMasks ps).foldl (fun c e => c.hold dirty e) c)

/-- Perform a write at the home (R200, R218).
DESIGN CHOICE, log entry 6. -/
def State.perform (s : State) (cells : List (Nat × VByte)) : State := (s.dropCopies (cells.map (·.1))).write cells

/-- A write by crew k to a page that core caches may hold, or may not: its core is then the single owner of the words (R218). -/
def State.own (s : State) (k : Nat) (cached : Bool) (cells : List (Nat × VByte)) : State :=
  if cached then (s.perform cells).hold (crewCore k) true (cells.map (·.1)) else s.perform cells

/-- Signal words of an engine of a die are stored: each once no lock holds it (R273). -/
def State.signal (s : State) (d : Nat) : List (List Nat × Word) → State
  | [] => s
  | (ps, v) :: r =>
    (if s.unheld ps then s.perform (ps.zip ((leBytes ps.length v.toNat).map (fun b => (⟨b, false⟩ : VByte))))
     else s.modDie d (fun x => { x with signals := x.signals ++ [(ps, v)] })).signal d r

/-- What waited for a lock in the engines of a die goes on (R273). -/
def State.flush (s : State) (d : Nat) : State :=
  ((s.modDie d (fun x => { x with signals := [] })).signal d (s.die d).signals).ringFlush d

/-- The bytes of a value to store, with its mark. -/
def storeCells (ps : List Nat) (v : Scalar) : List (Nat × VByte) :=
  (ps.zip (leBytes ps.length v.v.toNat)).map (fun e => (e.1, ⟨e.2, v.p⟩))

/-! ### Flits and credits (R277, R282, R283) -/

/-- Flits of packets with these bytes of payload, each of a header flit and at most 8 payload flits of 32 bytes (R277). -/
def flits (bytes : Nat) : Nat := max 1 ((bytes + 255) / 256) + (bytes + 31) / 32

/-- Receive buffer of a path in flits (R282). -/
def pathBuffer (src dst : Nat) : Nat := if dieChip src = dieChip dst then 512 else 128

/-- Credits that the sender holds (R282). -/
def credits (s : State) (src dst : Nat) : Nat :=
  let p := get {} (s.die src).paths dst
  pathBuffer src dst - (p.sent + 2 ^ 16 - p.freed) % 2 ^ 16

/-- Send n flits on a path: none without credits, or without a lane in service (R282, R283). On an in-package path each flit is
kept with its lane until it is acknowledged. -/
def sendFlits (s : State) (src dst n : Nat) : Option State :=
  let lanes := routeLanes s src dst
  if credits s src dst < n ∨ lanes = 0 then none
  else some (s.modDie src (fun x =>
    let p := get {} x.paths dst
    let kept := if dieChip src = dieChip dst then
        (List.range n).map (fun i => ((p.sent + i) % 2 ^ 16, (p.sent + i) % lanes)) else []
    { x with paths := ins x.paths dst { p with sent := (p.sent + n) % 2 ^ 16, unack := p.unack ++ kept } }))

/-- Packets with these bytes of payload go from one die to another and are accepted there within one step: none while the sender has
no credit or no lane (R277, R282). The credits return and the flits are acknowledged in steps of their own.
DEDUCED, log entry 33. -/
def State.pass (s : State) (src dst bytes : Nat) : Option State :=
  if src = dst then some s else sendFlits s src dst (flits bytes)

/-- A request and its answer pass between two dies within one step. -/
def State.exchange (s : State) (src dst out back : Nat) : Option State :=
  match s.pass src dst out with
  | some s => s.pass dst src back
  | none => none

/-- The packets of a write that its home has acknowledged go there: none while the chip sends nothing. A write whose path has gone
dark since is performed without (R284, R424). -/
def State.post (s : State) (src dst bytes : Nat) : Option State :=
  if src = dst || pathDown s src dst then some s else if sending s src then s.pass src dst bytes else none

/-- A request that its home has checked, with its answer: across a path that has gone dark since it is performed without packets
(R284, R424). -/
def State.trade (s : State) (src dst out back : Nat) : Option State :=
  if src = dst || pathDown s src dst then some s else if sending s src then s.exchange src dst out back else none

/-! ### The write-combining buffer (R207, R208) -/

/-- What the crew's buffer holds for a byte. -/
def wcbByte (ls : List WcbLine) (p : Nat) : Option VByte :=
  match ls.find? (fun l => l.line == p / 64) with
  | none => none
  | some l => (l.bytes.find? (fun e => e.1 == p % 64)).map (·.2)

/-- The bytes of a line, as a write at the home. -/
def WcbLine.cells (l : WcbLine) : List (Nat × VByte) := l.bytes.map (fun e => (64 * l.line + e.1, e.2))

/-- Lines that the bytes of a store need and the buffer does not hold. -/
def newLines (ls : List WcbLine) (ps : List Nat) : List Nat :=
  ((ps.map (· / 64)).eraseDups).filter (fun n => !ls.any (fun l => l.line == n))

/-- Merge one byte into the buffer, of a page that core caches may hold or may not. -/
def wcbPut (cached : Bool) (ls : List WcbLine) (p : Nat) (b : VByte) : List WcbLine :=
  if ls.any (fun l => l.line == p / 64) then
    ls.map (fun l => if l.line = p / 64 then { l with bytes := ins l.bytes (p % 64) b, cached := l.cached || cached } else l)
  else ls ++ [⟨p / 64, [(p % 64, b)], cached⟩]

def wcbPuts (cached : Bool) (ls : List WcbLine) : List (Nat × VByte) → List WcbLine
  | [] => ls
  | (p, b) :: r => wcbPuts cached (wcbPut cached ls p b) r

/-- The accesses whose last line has drained are performed, and their members complete (R223). -/
def State.payOwed (s : State) (k line : Nat) : State :=
  let left := (s.crew k).owed.map (fun o => { o with lines := o.lines.filter (fun n => n != line) })
  (left.filter (fun o => o.lines.isEmpty)).foldl (fun s o => s.memberDone? o.member o.fail)
    (s.modCrew k (fun c => { c with owed := left.filter (fun o => !o.lines.isEmpty) }))

/-- Drain one line of crew k, if its words may be written now: to another die in a packet, while its chip sends and has the
credits; across a path that has gone dark since its stores were checked the home performs them all the same (R284, R424). The
crew's core is then the single owner of the words of a cacheable line (R218).
DEDUCED, log entry 19. -/
def drainLine (s : State) (k : Nat) (l : WcbLine) : Option State :=
  let ps := l.cells.map (·.1)
  if s.admits k ps then
    (s.post (crewDie k) (byteDie (64 * l.line)) ps.length).map (fun s =>
      (((s.own k l.cached l.cells).leave (2 * k) ps).modCrew k (fun c => { c with wcb := c.wcb.filter (fun x => x.line != l.line) })).payOwed
        k l.line)
  else none

/-- Drain every line (R208); none while a line's word is held. -/
def drainLines (k : Nat) : List WcbLine → State → Option State
  | [], s => some s
  | l :: r, s =>
    match drainLine s k l with
    | some s => drainLines k r s
    | none => none

/-- Drain the lines that hold bytes of these words before an access that bypasses the buffer (R201). -/
def drainOver (s : State) (k : Nat) (ps : List Nat) : Option State :=
  drainLines k ((s.crew k).wcb.filter (fun l => ps.any (fun p => p / 64 == l.line))) s

/-- DEDUCED, log entry 85. -/
def drainAll (s : State) (k : Nat) : Option State := drainLines k (s.crew k).wcb s

/-- Store into the buffer (R207): while four lines are held, a new line waits until others have drained; of those that the
store does not fall in, the oldest drain. None while they cannot.
DESIGN CHOICE, log entry 95. -/
def wcbStore (s : State) (k : Nat) (cached : Bool) (cells : List (Nat × VByte)) : Option State :=
  let held := (s.crew k).wcb
  let new := newLines held (cells.map (·.1))
  let others := held.filter (fun l => !cells.any (fun c => c.1 / 64 == l.line))
  let extra := if new.isEmpty then 0 else held.length + new.length - 4
  match drainLines k (others.take extra) s with
  | none => none
  | some s => some (s.modCrew k (fun c => { c with wcb := wcbPuts cached c.wcb cells }))

/-- What crew k reads from bytes: its own held stores first (R207), then memory (R199). -/
def crewRead (s : State) (k : Nat) (ps : List Nat) : List VByte × State :=
  match s.readBytes ps with
  | (bs, s) => ((ps.zip bs).map (fun e => (wcbByte (s.crew k).wcb e.1).getD e.2), s)

end Sys2Proof.Machine
end

