-- ==== Sys2Proof/Machine/Fetch.lean ====
section
/-!
DEFINITION. Instruction fetch (R38, R39, R40): the line at a PC, the instruction of its slot, and the points at which a
sequencer that must stop does so (R316, R399, R410).
-/
namespace Sys2Proof.Machine

/-- Line address and slot of a PC (R38). -/
def pcLine (pc : Word) : Nat := pc.toNat / 64 * 64
def pcSlot (pc : Word) : Nat := bitsOf pc.toNat 1 5

/-- The 64 bytes of the line at a PC, as crew k fetches them: translated with the right to execute (R38, R378). None while they
must be waited for (R273, R282, R380). -/
def fetchLine (s : State) (k : Nat) (pc : Word) : Option (Except Trap (List VByte)) × State :=
  let ga := pcLine pc
  match crewCheck s k false ga 64 with
  | .error r => (some (.error { code := Cause.addrflt, reason := r, tval := pc }), s)
  | .ok pl =>
    let d := pl.die (crewDie k)
    if pathDown s (crewDie k) d then (some (.error { code := Cause.darkpath, tval := pc }), s.darkFail k d pc.toNat)
    else match locate s (some (crewCore k)) (s.crew k).ctx .fetch 64 pl with
      | (.error r, s) => (some (.error { r.trap ga with tval := pc }), s)
      | (.wait, s) => (none, s)
      | (.ok l, s) =>
        if !s.admits k l.bytes then (none, s.queueUp (2 * k) l.bytes)
        else match s.exchange (crewDie k) d 0 64 with
          | none => (none, s)
          | some s => match (s.leave (2 * k) l.bytes).readBytes l.bytes with
            | (bs, s) => (some (.ok bs), s)

/-- The PC that follows slot k of a line in sequence (R38). -/
def nextPc (line : List Byte) (pc : Word) : Word :=
  if pcSlot pc < lineHeads line then pc + 2 else BitVec.ofNat 64 (pcLine pc + 64 + 2)

/-- The line at a PC for a sequencer that holds these lines. -/
def lineFrom (s : State) (k : Nat) (held : List (Nat × List VByte)) (pc : Word) : Option (Except Trap (List VByte)) × State :=
  match held.find? (fun e => e.1 == pcLine pc) with
  | some e => (some (.ok e.2), s)
  | none => fetchLine s k pc

/-- The line at a PC as a sequencer executes it: one that it holds since it entered it, else memory as it stands. Of the old and
the new contents that it may execute before the fence and the taken transfer, it executes the new ones as soon as it enters
the line again (R40).
DESIGN CHOICE, log entry 90. -/
def lineAt (s : State) (k : Nat) (xs : Bool) (pc : Word) : Option (Except Trap (List VByte)) × State :=
  lineFrom s k ((s.crew k).seq xs).lines pc

/-- The lines that a sequencer holds once it executes from the line at a: those before it in the list are left. -/
def enteredLine (a : Nat) (bs : List VByte) (held : List (Nat × List VByte)) : List (Nat × List VByte) :=
  match held.dropWhile (fun e => e.1 != a) with
  | [] => [(a, bs)]
  | l => l

/-- The PC after the instruction at a PC in sequence; the next line where that line cannot be read (R38, R312); none while it
must be waited for. -/
def seqAfter (s : State) (k : Nat) (xs : Bool) (pc : Word) : Option Word :=
  match (lineAt s k xs pc).1 with
  | some (.ok bs) => some (nextPc (bs.map (·.b)) pc)
  | some (.error _) => some (BitVec.ofNat 64 (pcLine pc + 64 + 2))
  | none => none

/-- A poisoned word stops the instruction at this slot: the header's, or one that holds its head or tail (R39). -/
def fetchPoison (bs : List VByte) (slot : Nat) : Bool :=
  let line := bs.map (·.b)
  let bad := fun i => ((bs.getD i {}).p)
  bad 0 || (!lineIsData line && decide (1 ≤ slot) && decide (slot ≤ lineHeads line)
    && (fetchBytes line slot).any bad)

/-- The instruction of a fetched line, or the trap that its fetch or decode raises (R39, R43). -/
def decodeLine (bs : List VByte) (pc : Word) : Except Trap (Decoded × Word) :=
  let line := bs.map (·.b)
  if fetchPoison bs (pcSlot pc) then .error { code := Cause.poison }
  else if bitOf pc.toNat 0 || !lineOk line (pcSlot pc) then .error { code := Cause.illfetch }
  else match decodeAt line (pcSlot pc) with
    | .ill _ => .error { code := Cause.illop }
    | .ok d => .ok (d, nextPc line pc)

/-- The space of a PC is 0x0 or 0x1 (R38, R39). -/
def pcSpaceOk (pc : Word) : Bool := decide (pc.toNat / 2 ^ 60 ≤ 1)

/-- A sequencer that is asked to pre-empt stops here: no loop level is active, or an iteration has just ended (R316).
Step 2 of vsetl, an .sc access, a remote access and an mcas in progress are not interrupted (R103, R246, R276). -/
def stopPoint (c : Crew) (xs : Bool) : Bool :=
  c.stop == .preempt && (xs || !(c.step2 || c.sc.isSome || c.req.isSome || c.mcas.isSome)) && ((c.seq xs).loops.isEmpty || (c.seq xs).iter)

/-- The convoy that stands last in a VIQ: its last entry without join, and those after it. -/
def lastConvoy (l : List VEntry) : List VEntry :=
  let r := l.reverse
  r.takeWhile (·.join) ++ (r.dropWhile (·.join)).take 1

/-- What fetch answers: an instruction to execute, with the issue latch set, or a state in which nothing executes. -/
inductive Fetched where
  | run (i : Instr) (s : State)
  | stay (s : State)
  deriving DecidableEq, Repr

/-- The fetch goes to another die, and new accesses to it are held (R424). -/
def fetchHeld (s : State) (k : Nat) (xs : Bool) (pc : Word) : Bool :=
  match ((s.crew k).seq xs).lines.any (fun e => e.1 == pcLine pc), crewCheck s k false (pcLine pc) 64 with
  | true, _ => false
  | _, .error _ => false
  | _, .ok pl => !pathDown s (crewDie k) (pl.die (crewDie k)) && !linkOpen s (crewDie k) (pl.die (crewDie k))

/-- Whether the X stream at q goes on with an instruction that has c = 1: it does not; its line must be waited for; or it does, with
that instruction, the PC after it, and the lines held then. -/
inductive Join where
  | no
  | wait
  | yes (i : Instr) (link : Word) (held : List (Nat × List VByte))
  deriving DecidableEq, Repr

def joinAt (s : State) (k : Nat) (q : Seqr) : Join :=
  if q.lines.all (fun e => e.1 != pcLine q.pc) && fetchHeld s k true q.pc then .wait
  else match (lineFrom s k q.lines q.pc).1 with
    | none => .wait
    | some (.error _) => .no
    | some (.ok bs) => match decodeLine bs q.pc with
      | .error _ => .no
      | .ok (d, link) =>
        if d.c then .yes d.instr link (if q.lines.any (fun e => e.1 == pcLine q.pc) then q.lines else q.lines ++ [(pcLine q.pc, bs)])
        else .no

/-- The X stream of crew k is between two members of a convoy, which enter the VIQ together (R46). Seven members are enough for a
convoy to break the limit of R47. -/
def convoyOpen (s : State) (k : Nat) : Bool :=
  let c := s.crew k
  c.x.run == .running && c.x.elig && decide (c.viq.length < Config.viqSize) && decide ((lastConvoy c.viq).length < 7)
    && joinAt s k c.x != .no

/-- Fetch the next instruction of a sequencer (R39, R306). A fault of the line's address or translation comes before an odd PC
or a defect of the line. An execute sequencer that steps fetches nothing while its VIQ holds an entry (R418).
DEDUCED, log entries 2 and 91. -/
def fetch (k : Nat) (xs : Bool) (s : State) : Fetched :=
  let s := { s with cur := { crew := k, xs := xs } }
  let q := s.seqr
  let open_ := xs && convoyOpen s k
  if q.run ≠ .running ∨ (s.chip (crewChip k)).tripped then .stay s
  else if stopPoint s.myCrew xs && !open_ then .stay (s.setSeqr { q with run := .halted })
  else if xs && bitOf s.myCrew.estep 0 && !s.myCrew.viq.isEmpty && !open_ then .stay s
  else if !pcSpaceOk q.pc then .stay (takeTrap { code := Cause.illfetch } s)
  else if fetchHeld s k xs q.pc then .stay s
  else match lineAt s k xs q.pc with
    | (none, t) => .stay (s.carry t)
    | (some (.error t), s) => .stay (takeTrap t s)
    | (some (.ok bs), s) =>
      let s := s.modSeqr (fun q => { q with lines := enteredLine (pcLine q.pc) bs q.lines })
      match decodeLine bs q.pc with
      | .error t => .stay (takeTrap t s)
      | .ok (d, link) => .run d.instr { s with cur := { crew := k, xs := xs, st := d.st, c := d.c, link := link } }

end Sys2Proof.Machine
end

