-- ==== Sys2Proof/Machine/Scalar.lean ====
section
/-!
DEFINITION. The scalar instructions of both streams (R89 to R95, R466).
-/
namespace Sys2Proof.Machine

/-- Two register operands. -/
def use2 (i : Instr) (a b : Nat) (ws : List Nat) (s : State) (k : Word → Word → Out) : Out :=
  useRegs i [a, b] ws s (fun vs => k (vs.getD 0 0) (vs.getD 1 0))

/-- One register operand. -/
def use1 (i : Instr) (a : Nat) (ws : List Nat) (s : State) (k : Word → Out) : Out :=
  useRegs i [a] ws s (fun vs => k (vs.getD 0 0))

/-- d receives op a b with latency L (R90). -/
def binary (i : Instr) (f : T16a) (L : Nat) (op : Word → Word → Word) (s : State) : Out :=
  use2 i f.a.toNat f.b.toNat [f.d.toNat] s (fun x y => done (s.setR f.d.toNat (op x y) L))

/-- d receives op a with latency 1 (R92). -/
def unary (i : Instr) (f : T16a) (op : Word → Word) (s : State) : Out :=
  use1 i f.a.toNat [f.d.toNat] s (fun x => done (s.setR f.d.toNat (op x) 1))

/-- d receives op a imm, with imm sign-extended (R93). -/
def immediate (i : Instr) (f : T32a) (op : Word → Word → Word) (s : State) : Out :=
  use1 i f.a.toNat [f.d.toNat] s (fun x => done (s.setR f.d.toNat (op x (f.imm.signExtend 64)) 1))

/-- A one or a zero. -/
def boolWord (b : Bool) : Word := if b then 1 else 0

/-- Shift amounts are the low six bits (R90). -/
def shamt (y : Word) : Nat := y.toNat % 64

def opMulh (x y : Word) : Word := BitVec.ofInt 64 (x.toInt * y.toInt / 2 ^ 64)
def opMulhu (x y : Word) : Word := BitVec.ofNat 64 (x.toNat * y.toNat / 2 ^ 64)
def opMin (x y : Word) : Word := if x.toInt ≤ y.toInt then x else y
def opMax (x y : Word) : Word := if x.toInt ≤ y.toInt then y else x
def opMinu (x y : Word) : Word := if x.toNat ≤ y.toNat then x else y
def opMaxu (x y : Word) : Word := if x.toNat ≤ y.toNat then y else x

/-- The signed range of a register. -/
def maxInt : Int := 2 ^ 63 - 1
def minInt : Int := -2 ^ 63

/-- Signed quotient, truncated and saturated; a zero divisor gives the limit on the side of a (R91). -/
def opDiv (x y : Word) : Word :=
  if y = 0 then BitVec.ofInt 64 (if 0 ≤ x.toInt then maxInt else minInt)
  else BitVec.ofInt 64 (min maxInt (x.toInt.tdiv y.toInt))

/-- Unsigned quotient (R91). -/
def opDivu (x y : Word) : Word := if y = 0 then -1 else BitVec.ofNat 64 (x.toNat / y.toNat)

/-- Signed remainder of truncated division (R91). -/
def opRem (x y : Word) : Word := if y = 0 then x else BitVec.ofInt 64 (x.toInt.tmod y.toInt)

/-- Unsigned remainder (R91). -/
def opRemu (x y : Word) : Word := if y = 0 then x else BitVec.ofNat 64 (x.toNat % y.toNat)

/-- Leading zero bits of a 64-bit value (R92). -/
def opClz (x : Word) : Word := if x = 0 then 64 else BitVec.ofNat 64 (63 - x.toNat.log2)

/-- Trailing zero bits among n bits. -/
def trailing : Nat → Nat → Nat
  | 0, _ => 0
  | n + 1, x => if x % 2 = 1 then 0 else trailing n (x / 2) + 1

/-- One bits among n bits. -/
def ones : Nat → Nat → Nat
  | 0, _ => 0
  | n + 1, x => x % 2 + ones n (x / 2)

def opCtz (x : Word) : Word := BitVec.ofNat 64 (trailing 64 x.toNat)
def opPopc (x : Word) : Word := BitVec.ofNat 64 (ones 64 x.toNat)

/-- The divider of a slice. -/
def Core.divider (c : Core) (xs : Bool) : Divider := if xs then c.divx else c.diva
def Core.setDivider (c : Core) (xs : Bool) (v : Divider) : Core :=
  if xs then { c with divx := v } else { c with diva := v }

/-- A division: it waits for the divider of its slice, and d is interlocked until the result is written (R466). -/
def division (i : Instr) (f : T16a) (op : Word → Word → Word) (s : State) : Out :=
  use2 i f.a.toNat f.b.toNat [f.d.toNat] s (fun x y =>
    let s := s.modSeqr (fun q => if f.d.toNat = 0 then q else { q with busy := f.d.toNat :: q.busy })
    let s := s.modCore s.myCore (fun c =>
      let v := c.divider s.cur.xs
      c.setDivider s.cur.xs { v with wait := v.wait ++ [⟨s.me, f.d.toNat, op x y⟩] })
    done s)

/-- d receives a + b (R90). -/
def execAdd (f : T16a) (s : State) : Out :=
  binary (.add f) f 1 (fun x y => x + y) s

/-- d receives a - b (R90). -/
def execSub (f : T16a) (s : State) : Out :=
  binary (.sub f) f 1 (fun x y => x - y) s

/-- d receives the low 64 bits of a x b (R90). -/
def execMul (f : T16a) (s : State) : Out :=
  binary (.mul f) f 3 (fun x y => x * y) s

/-- d receives the high 64 bits of the signed product (R90). -/
def execMulh (f : T16a) (s : State) : Out :=
  binary (.mulh f) f 3 opMulh s

/-- d receives the high 64 bits of the unsigned product (R90). -/
def execMulhu (f : T16a) (s : State) : Out :=
  binary (.mulhu f) f 3 opMulhu s

/-- Division (R91, R466). -/
def execDiv (f : T16a) (s : State) : Out :=
  division (.div f) f opDiv s

/-- Division (R91, R466). -/
def execDivu (f : T16a) (s : State) : Out :=
  division (.divu f) f opDivu s

/-- Division (R91, R466). -/
def execRem (f : T16a) (s : State) : Out :=
  division (.rem f) f opRem s

/-- Division (R91, R466). -/
def execRemu (f : T16a) (s : State) : Out :=
  division (.remu f) f opRemu s

/-- d receives a AND b (R90). -/
def execAnd (f : T16a) (s : State) : Out :=
  binary (.and f) f 1 (fun x y => x &&& y) s

/-- d receives a OR b (R90). -/
def execOr (f : T16a) (s : State) : Out :=
  binary (.or f) f 1 (fun x y => x ||| y) s

/-- d receives a XOR b (R90). -/
def execXor (f : T16a) (s : State) : Out :=
  binary (.xor f) f 1 (fun x y => x ^^^ y) s

/-- d receives a AND NOT b (R90). -/
def execAndn (f : T16a) (s : State) : Out :=
  binary (.andn f) f 1 (fun x y => x &&& ~~~y) s

/-- d receives a shifted left (R90). -/
def execSll (f : T16a) (s : State) : Out :=
  binary (.sll f) f 1 (fun x y => x <<< shamt y) s

/-- d receives a shifted right, zeros in (R90). -/
def execSrl (f : T16a) (s : State) : Out :=
  binary (.srl f) f 1 (fun x y => x >>> shamt y) s

/-- d receives a shifted right, sign copies in (R90). -/
def execSra (f : T16a) (s : State) : Out :=
  binary (.sra f) f 1 (fun x y => x.sshiftRight (shamt y)) s

/-- The lesser or the greater of a and b (R90). -/
def execMin (f : T16a) (s : State) : Out :=
  binary (.min f) f 1 opMin s

/-- The lesser or the greater of a and b (R90). -/
def execMax (f : T16a) (s : State) : Out :=
  binary (.max f) f 1 opMax s

/-- The lesser or the greater of a and b (R90). -/
def execMinu (f : T16a) (s : State) : Out :=
  binary (.minu f) f 1 opMinu s

/-- The lesser or the greater of a and b (R90). -/
def execMaxu (f : T16a) (s : State) : Out :=
  binary (.maxu f) f 1 opMaxu s

/-- A comparison (R90). -/
def execSlt (f : T16a) (s : State) : Out :=
  binary (.slt f) f 1 (fun x y => boolWord (x.slt y)) s

/-- A comparison (R90). -/
def execSltu (f : T16a) (s : State) : Out :=
  binary (.sltu f) f 1 (fun x y => boolWord (x.ult y)) s

/-- A comparison (R90). -/
def execSeq (f : T16a) (s : State) : Out :=
  binary (.seq f) f 1 (fun x y => boolWord (x == y)) s

/-- Bit counts (R92). -/
def execClz (f : T16a) (s : State) : Out :=
  unary (.clz f) f opClz s

/-- Bit counts (R92). -/
def execCtz (f : T16a) (s : State) : Out :=
  unary (.ctz f) f opCtz s

/-- Bit counts (R92). -/
def execPopc (f : T16a) (s : State) : Out :=
  unary (.popc f) f opPopc s

/-- Combination with an immediate (R93). -/
def execAddi (f : T32a) (s : State) : Out :=
  immediate (.addi f) f (fun x y => x + y) s

/-- Combination with an immediate (R93). -/
def execAndi (f : T32a) (s : State) : Out :=
  immediate (.andi f) f (fun x y => x &&& y) s

/-- Combination with an immediate (R93). -/
def execOri (f : T32a) (s : State) : Out :=
  immediate (.ori f) f (fun x y => x ||| y) s

/-- Combination with an immediate (R93). -/
def execXori (f : T32a) (s : State) : Out :=
  immediate (.xori f) f (fun x y => x ^^^ y) s

/-- Combination with an immediate (R93). -/
def execSlli (f : T32a) (s : State) : Out :=
  immediate (.slli f) f (fun x y => x <<< shamt y) s

/-- Combination with an immediate (R93). -/
def execSrli (f : T32a) (s : State) : Out :=
  immediate (.srli f) f (fun x y => x >>> shamt y) s

/-- Combination with an immediate (R93). -/
def execSrai (f : T32a) (s : State) : Out :=
  immediate (.srai f) f (fun x y => x.sshiftRight (shamt y)) s

/-- d receives a if c is not zero, else b (R94). -/
def execSel (f : T32c) (s : State) : Out :=
  useRegs (.sel f) [f.a.toNat, f.b.toNat, f.c.toNat] [f.d.toNat] s (fun vs =>
    done (s.setR f.d.toNat (if vs.getD 2 0 ≠ 0 then vs.getD 0 0 else vs.getD 1 0) 1))

/-- Position and length of a bit field (R94). -/
def bfPos (f : T32c) : Nat := bitsOf f.imm.toNat 0 6
def bfLen (f : T32c) : Nat := bitsOf f.imm.toNat 6 6 + 1

/-- Extract a bit field (R94). -/
def execBfx (f : T32c) (s : State) : Out :=
  use1 (.bfx f) f.a.toNat [f.d.toNat] s (fun x =>
    done (s.setR f.d.toNat (BitVec.ofNat 64 (bitsOf x.toNat (bfPos f) (bfLen f))) 1))

/-- Insert a bit field: d is also read (R94). -/
def execBfi (f : T32c) (s : State) : Out :=
  use2 (.bfi f) f.a.toNat f.d.toNat [f.d.toNat] s (fun x y =>
    done (s.setR f.d.toNat (putField y (bfPos f) (bfLen f) x.toNat) 1))

/-- d receives the immediate, sign-extended from 32 bits (R95). -/
def execLi (f : T48a) (s : State) : Out :=
  useRegs (.li f) [] [f.d.toNat] s (fun _ => done (s.setR f.d.toNat (f.imm.signExtend 64) 1))

/-- The high half of d receives the immediate, and the low half stays (R95). -/
def execLih (f : T48a) (s : State) : Out :=
  use1 (.lih f) f.d.toNat [f.d.toNat] s (fun x =>
    done (s.setR f.d.toNat (BitVec.ofNat 64 (f.imm.toNat * 2 ^ 32 + x.toNat % 2 ^ 32)) 1))

/-- No operation: its stall count passes (R45). -/
def execNop (s : State) : Out := done s

/-! ### The dividers (R466) -/

/-- The oldest waiting division starts. -/
def divisionStartEv (core : Nat) (xs : Bool) (s : State) : Option State :=
  let v := (s.core core).divider xs
  match v.run, v.wait with
  | none, o :: r => some (s.modCore core (fun c => c.setDivider xs ⟨some o, r⟩))
  | _, _ => none

/-- The running division writes d, and the divider is free. -/
def divisionResultEv (core : Nat) (xs : Bool) (s : State) : Option State :=
  let v := (s.core core).divider xs
  match v.run with
  | some o =>
    let s := s.modCore core (fun c => c.setDivider xs { v with run := none })
    some (s.modCrew o.crew (fun c =>
      let q := c.seq xs
      c.setSeq xs ({ q with busy := q.busy.erase o.d }.write o.d ⟨o.v, false⟩ 0)))
  | none => none

/-- The oldest waiting division of a slice starts (R466). -/
def execDivisionStart (core : Nat) (xs : Bool) (s : State) : Out := .next ((divisionStartEv core xs s).getD s)

/-- The running division of a slice writes its result (R466). -/
def execDivisionResult (core : Nat) (xs : Bool) (s : State) : Out := .next ((divisionResultEv core xs s).getD s)

end Sys2Proof.Machine
end

