-- ==== Sys2Proof/Machine/Memory.lean ====
section
/-!
DEFINITION. Scalar and vector loads and stores, fence, remote scalar requests, and the steps of the write-combining
buffer, the load queues, the sequence counter and the core caches (R195 to R248, R321, R322).
-/
namespace Sys2Proof.Machine

/-! ### Checking one access -/

/-- Where a checked access leads: bytes at their home, or a range of a window. -/
inductive Site where
  | mem (l : Located)
  | win (w off n : Nat)
  deriving DecidableEq, Repr

/-- An access waits at its issue: while its chip sends nothing it is held there, and a pending stop is taken (R424). -/
def issueWait (i : Instr) (s : State) : Out := if sending s s.myDie then waitAt i s else namedWait i s

/-- What a check answers: the access may be performed, it faults, or it waits (R259, R273, R285, R380). -/
inductive Chk (α : Type) where
  | ok (a : α)
  | fault (t : Trap)
  | wait
  deriving DecidableEq, Repr

/-- An access of n bytes by crew k reaches its home and is checked there, with packets of out bytes there and back bytes on the way
back (R25, R27, R198, R378, R284). -/
def reach (s : State) (k : Nat) (acc : Acc) (ga n out back : Nat) (pl : Place) : Chk Located × State :=
  let own := crewDie k
  let d := pl.die own
  if pathDown s own d then (.fault { code := Cause.darkpath, tval := BitVec.ofNat 64 ga }, s)
  else if !linkOpen s own d then (.wait, s)
  else match locate s (some (crewCore k)) (s.crew k).ctx acc n pl with
    | (.error r, s) => (.fault (r.trap ga), s)
    | (.wait, s) => (.wait, s)
    | (.ok l, s) => match s.exchange own d out back with
      | some s => (.ok l, s)
      | none => (.wait, s)

/-- The issuer's check of bytes of the region that a window is bound to, from an offset on. -/
def boundPlace (s : State) (k w off n : Nat) : Except Nat Place :=
  issuerCheck s (crewDie k) (some (crewCore k)) (fun _ => none) false ((get {} (s.crew k).win w).base.toNat + off) n

/-- Bytes of the region that a window is bound to are fetched. -/
def boundReach (s : State) (k w off n : Nat) : Chk Located × State :=
  match boundPlace s k w off n with
  | .error r => (.fault { code := Cause.addrflt, reason := r }, s)
  | .ok pl => reach s k .read ((get {} (s.crew k).win w).base.toNat + off) n 0 n pl

/-- A block of a window is in its cache, or it is fetched from its home (R290). -/
def fillBlock (s : State) (k w blk : Nat) : Chk Unit × State :=
  if get [] (get {} (s.crew k).win w).blocks blk ≠ [] then (.ok (), s)
  else match boundReach s k w (256 * blk) 256 with
    | (.fault t, s) => (.fault t, s)
    | (.wait, s) => (.wait, s)
    | (.ok l, s) =>
      if !s.admits k l.bytes then (.wait, s.queueUp (2 * k) l.bytes)
      else match (s.leave (2 * k) l.bytes).readBytes l.bytes with
        | (bs, s) => (.ok (), s.modCrew k (fun c =>
            let x := get {} c.win w
            { c with win := ins c.win w { x with blocks := ins x.blocks blk bs } }))

/-- The blocks that a range of a window needs. -/
def fillBlocks (k w : Nat) : List Nat → State → Chk Unit × State
  | [], s => (.ok (), s)
  | b :: r, s =>
    match fillBlock s k w b with
    | (.ok _, s) => fillBlocks k w r s
    | x => x

/-- As far as the page tables say now, bytes of the region that a window is bound to lie in one page (R198). -/
def onePage (s : State) (k w off n : Nat) : Bool :=
  let fits := fun (e : TlbEntry) (va : Nat) => decide (va % 2 ^ leafShift e.lev + n ≤ 2 ^ leafShift e.lev)
  match boundPlace s k w off n with
  | .ok (.hbm d va) => match tlbLookup s (some (crewCore k)) d (s.crew k).ctx va with
    | some e => fits e va
    | none => match (walk s d (s.crew k).ctx va).res with
      | .ok e => fits e va
      | _ => true
  | _ => true

/-- A range of a window is checked: its bytes lie in one page of the bound region, or the access is refused (R198); the blocks that
it needs are there, or are fetched (R290). A hit goes to no home. -/
def windowAccess (s : State) (k w off n : Nat) : Chk Unit × State :=
  let first := off / 256
  let last := (off + n - 1) / 256
  if first ≠ last ∧ !onePage s k w off n then (.fault { code := Cause.align }, s)
  else fillBlocks k w ((List.range (last + 1 - first)).map (· + first)) s

/-- Check an access of n bytes by crew k (R22 to R27, R198, R206, R378, R284). What has been checked issues, and is performed as soon
as its order and its home allow (R236, R243, R257). -/
def checkAccess (s : State) (k : Nat) (acc : Acc) (ga n : Nat) : Chk Site × State :=
  let tv := BitVec.ofNat 64 ga
  match crewCheck s k acc.writes ga n with
  | .error r => (.fault { code := Cause.addrflt, reason := r, tval := tv }, s)
  | .ok (.window w off) =>
    match windowAccess s k w off n with
    | (.ok _, s) => (.ok (.win w off n), s)
    | (.fault t, s) => (.fault { t with tval := tv }, s)
    | (.wait, s) => (.wait, s)
  | .ok pl =>
    match reach s k acc ga n 0 0 pl with
    | (.fault t, s) => (.fault t, s)
    | (.wait, s) => (.wait, s)
    | (.ok l, s) =>
      let d := pl.die (crewDie k)
      let s := if d ≠ crewDie k ∧ ga / 2 ^ 60 = 0 then
          s.keepKind (crewCore k) (l.entry d (s.crew k).ctx (ga % 2 ^ 51)) else s
      (.ok (.mem l), s)

/-- The die that an access of crew k goes to: through a window, the one of the region bound to it. -/
def accessDie (s : State) (k ga : Nat) : Nat :=
  if ga / 2 ^ 60 = 2 then gaDie (crewDie k) (get {} (s.crew k).win (bitsOf ga 56 4)).base.toNat else gaDie (crewDie k) ga

/-- A fault of an access is reported: a dark path is logged and recorded (R284, R305). -/
def State.noteFault (s : State) (k : Nat) (t : Trap) : State :=
  if t.code = Cause.darkpath then s.darkFail k (accessDie s k t.tval.toNat) t.tval.toNat else s

/-- The trap of a faulting access. -/
def raiseFault (t : Trap) (s : State) : Out := raise t (s.noteFault s.me t)

/-- What crew k reads at a site. -/
def readSite (s : State) (k : Nat) : Site → List VByte × State
  | .mem l => crewRead s k l.bytes
  | .win w off n =>
    let x := get {} (s.crew k).win w
    ((List.range n).map (fun i => (get [] x.blocks ((off + i) / 256)).getD ((off + i) % 256) {}), s)

/-- Data of n bytes comes back from a home to crew k: none while the home's die has no credit. -/
def State.bring (s : State) (k home n : Nat) : Option State :=
  if pathDown s (crewDie k) home then some s else s.pass home (crewDie k) n

/-- Read at a site now, as access number n of crew k and requester r: blocked, with its place at the home taken, while its order, its
home or the path back does not let it. Data of a checked read that cannot return over a dark path is delivered poisoned (R284). -/
def readNow (s : State) (k r n : Nat) : Site → Except State (List VByte × State)
  | .win w off n => .ok (readSite s k (.win w off n))
  | .mem l =>
    if !s.letsAt k n l.kind l.bytes then .error (s.queueUp r l.bytes)
    else match s.bring k (byteDie (l.bytes.headD 0)) l.bytes.length with
      | none => .error s
      | some s =>
        if pathDown s (crewDie k) (byteDie (l.bytes.headD 0)) then .ok (l.bytes.map (fun _ => ⟨0, true⟩), s.leave (2 * k) l.bytes)
        else .ok (crewRead (s.leave (2 * k) l.bytes) k l.bytes)

/-- A located access lies in a die-local page that core caches may hold (R216). -/
def Located.cacheable (l : Located) (k : Nat) : Bool := l.cached && byteDie (l.bytes.headD 0) == crewDie k

/-- Write marked bytes where an access was located: into the buffer, or at once in an SO page (R204, R207, R218). None while the buffer,
the home or the path does not let it. -/
def writeAt (s : State) (k : Nat) (l : Located) (cells : List (Nat × VByte)) : Option State :=
  if l.kind = 1 then
    if s.admits k l.bytes then
      (drainOver s k l.bytes).bind (fun s => (s.post (crewDie k) (byteDie (l.bytes.headD 0)) l.bytes.length).map (fun s =>
        (s.own k (l.cacheable k) cells).leave (2 * k) l.bytes))
    else none
  else wcbStore s k (l.cacheable k) cells

/-- A contribution of crew k waits or is chained at some slice. -/
def redPending (s : State) (k : Nat) : Bool :=
  let mine := fun (x : Contribution) => match x.member with
    | some m => m.crew == k
    | none => false
  s.dies.any (fun d => d.2.slices.any (fun e => e.2.wait.any mine || e.2.chains.any (fun c => c.parts.any mine)))

/-- The crew has issued a store, an atomic or a scalar load that is not performed yet, or a vector load with elements not yet
read. -/
def Crew.unperformed (c : Crew) : Bool := c.loads.any (·.store.isSome) || c.reads.any (·.value.isNone)
def Crew.unread (c : Crew) : Bool := c.loads.any (fun j => !j.spots.isEmpty)

/-- What crew k has issued is performed as a release asks, its loads into queues apart (R208, R210): none while it must wait. -/
def settle (s : State) (k : Nat) : Option State :=
  if redPending s k || (s.crew k).unperformed then none else drainAll s k

/-- Everything crew k has issued is performed, as a fence asks (R212, R213). -/
def settleAll (s : State) (k : Nat) : Option State := if (s.crew k).unread then none else settle s k

/-- An address on another chip, or in a window (R214). -/
def scRemote (k ga : Nat) : Bool :=
  ga / 2 ^ 60 == 2 || (decide (ga / 2 ^ 60 ≤ 1) && dieChip (gaDie (crewDie k) ga) != crewChip k)

/-- Draw a ticket of the chip's sequence counter (R213). -/
def State.ticket (s : State) (chip : Nat) : State := s.modChip chip (fun c => { c with scseq := c.scseq + 1 })

/-! ### Scalar loads and stores (R235 to R237) -/

/-- The effective address. -/
def effAddr (a : Word) (imm : BitVec 13) : Nat := (a + imm.signExtend 64).toNat

/-- The value that ld delivers (R236). -/
def loadValue (sx : Bool) (bs : List VByte) : Scalar :=
  let v := bytesNum bs
  ⟨if sx then sext (8 * bs.length) v else BitVec.ofNat 64 v, bytesMark bs⟩

/-- The home of an address lies on another die, and it is no window. -/
def isRemote (k ga : Nat) : Bool := decide (ga / 2 ^ 60 ≤ 1) && gaDie (crewDie k) ga != crewDie k

/-- Send a request of the current crew to another die (R279, R280). -/
def sendReq (i : Instr) (op : ReqOp) (sc : Bool) (ga bytes : Nat) (s : State) : Out :=
  let src := s.myDie
  let dst := gaDie src ga
  if pathDown s src dst then raiseFault { code := Cause.darkpath, tval := BitVec.ofNat 64 ga } s
  else if !sending s src then issueWait i s
  else match sendFlits s src dst (flits bytes) with
    | none => waitAt i s
    | some s' => waitAt i (s'.modMe (fun c => { c with
        req := some { op := op, sc := sc, ga := BitVec.ofNat 64 ga, src := src, dst := dst, ver := dieVersion s src, phase := .sent } }))

/-- The outcome of the crew's remote request, once it has returned: the rest of the instruction runs on it. -/
def withReply (i : Instr) (s : State) (fresh : Out) (use : Scalar → Option KindEntry → List Nat → State → Out) : Out :=
  match s.myCrew.req with
  | none => fresh
  | some q => match q.phase with
    | .returned r none kd bytes => use r kd bytes (s.modMe (fun c => { c with req := none }))
    | .returned _ (some t) _ _ => raiseFault t (s.modMe (fun c => { c with req := none }))
    | _ => waitAt i s

/-- Checks of a scalar access that come before its home: .sc (R214), address, and the drain of R208.
DEDUCED, log entry 16. DEDUCED, log entry 18. -/
def scalarAccess (i : Instr) (writes sc rel : Bool) (ga n : Nat) (s : State) (k : State → Out) : Out :=
  if sc && scRemote s.me ga then raise { code := Cause.scremote, tval := BitVec.ofNat 64 ga } s
  else match crewCheck s s.me writes ga n with
    | .error r => raise { code := Cause.addrflt, reason := r, tval := BitVec.ofNat 64 ga } s
    | .ok _ =>
      match (if sc then settleAll s s.me else if rel then settle s s.me else some s) with
      | none => waitAt i s
      | some s' => k s'

/-- The value of a load of n bytes, extended. -/
def extend (sx : Bool) (n : Nat) (r : Scalar) : Scalar := ⟨if sx then sext (8 * n) r.v.toNat else r.v, r.p⟩

/-- A plain load that has been checked leaves its register to the data's return (R236, R51). -/
def awaitData (d : Nat) (sx : Bool) (kind : Nat) (bytes : List Nat) (s : State) : State :=
  (s.modMe (fun c => { c with
      reads := c.reads ++ [{ d := d, sx := sx, bytes := bytes, die := byteDie (bytes.headD 0), kind := kind, num := c.acc }],
      acc := c.acc + 1 })).modSeqr
    (fun q => { q with busy := if d = 0 then q.busy else q.busy ++ [d] })

/-- An access of the current crew issues: it takes the next number in program order (R201). -/
def issue (j : LoadJob) (s : State) : State := s.modMe (fun c => { c with loads := c.loads ++ [{ j with num := c.acc }], acc := c.acc + 1 })

/-- A scalar store that has been checked is performed at once, or issues and is performed once its order and its home allow (R201,
R204, R236); one that needs a line of a full buffer waits (R207). -/
def storeChecked (i : Instr) (l : Located) (v : Scalar) (s s' : State) : Out :=
  let later := done (issue { member := none, store := some { sq := 0, op := .write, left := [.at l], data := some ⟨v.v, true, v.p⟩ } }
    (if l.kind = 1 then s'.queueUp (2 * s.me + 1) l.bytes else s'))
  if s'.myCrew.pendingAt l.kind l.bytes || (l.kind == 1 && s'.soReds s.me) then later
  else match writeAt s' s.me l (storeCells l.bytes v) with
    | some s' => done s'
    | none => if l.kind = 1 then later else waitAt i s

/-- The kind of the page that an access of crew k goes to is known at its core: a scratchpad behaves as RC, and a page of another die
has a kind entry (R203, R206). -/
def kindKnown (s : State) (k ga : Nat) : Bool :=
  ga / 2 ^ 60 == 1 || (s.core (crewCore k)).kinds.any (·.hits (gaDie (crewDie k) ga) (s.crew k).ctx (ga % 2 ^ 51))

/-- Scalar load (R236). Later instructions issue once a plain load has been checked: of another die's page, where its kind is known,
once the check has been acknowledged. -/
def execLd (f : T48c) (s : State) : Out :=
  let i := Instr.ld f
  let n := 2 ^ f.w.toNat
  let plain := !f.sc && f.ord != 1
  inA s (withReply i s
    (use1 i f.a.toNat [f.d.toNat] s (fun a =>
      let ga := effAddr a f.imm
      scalarAccess i false f.sc false ga n s (fun s' =>
        if isRemote s.me ga then sendReq i (.read n (plain && kindKnown s s.me ga)) f.sc ga 0 s'
        else match checkAccess s' s.me .read ga n with
          | (.fault t, s') => raiseFault t s'
          | (.wait, s') => waitAt i (s.carry s')
          | (.ok site, s') => match readNow s' s.me (2 * s.me + flag plain) s'.myCrew.acc site with
            | .ok (bs, s') => done ((if f.sc then s'.ticket (crewChip s.me) else s').setRP f.d.toNat (loadValue f.sx bs) 0)
            | .error t => match site with
              | .mem l => if plain then done (awaitData f.d.toNat f.sx l.kind l.bytes t) else waitAt i (s.carry t)
              | .win .. => waitAt i s)))
    (fun r kd bytes s =>
      if bytes.isEmpty then done (s.setRP f.d.toNat (extend f.sx n r) 0)
      else done (awaitData f.d.toNat f.sx ((kd.map (·.kind)).getD 0) bytes s)))

/-- Scalar store (R236). A store to a remote page is checked there first. -/
def execSt (f : T48c) (s : State) : Out :=
  let i := Instr.st f
  let n := 2 ^ f.w.toNat
  inA s (withReply i s
    (use2 i f.a.toNat f.d.toNat [] s (fun a v =>
      let ga := effAddr a f.imm
      scalarAccess i true f.sc (f.ord == 2) ga n s (fun s' =>
        if isRemote s.me ga then sendReq i (.write n ⟨v, false⟩) f.sc ga (if f.sc then n else 0) s'
        else match checkAccess s' s.me .write ga n with
          | (.ok (.mem l), s') =>
            if !f.sc then storeChecked i l ⟨v, false⟩ s s'
            else if s'.admits s.me l.bytes then
              done (((s'.own s.me (l.cacheable s.me) (storeCells l.bytes ⟨v, false⟩)).leave (2 * s.me) l.bytes).ticket (crewChip s.me))
            else waitAt i (s.carry (s'.queueUp (2 * s.me) l.bytes))
          | (.fault t, s') => raiseFault t s'
          | (_, s') => waitAt i (s.carry s'))))
    (fun r kd bytes s' =>
      if bytes.isEmpty then done s'
      else storeChecked i { bytes := bytes, kind := (kd.map (·.kind)).getD 0 } r s s'))

/-- fence (R248): everything of the crew is performed. -/
def execFence (f : T32e) (s : State) : Out :=
  inA s (match settleAll s s.me with
    | none => waitAt (.fence f) s
    | some s => done s)

/-! ### Elements of a vector access -/

/-- The address of an element, or the fault that its index raises; none where the element is inactive. -/
abbrev Target := Option (Except Trap Nat)

/-- The checks of all elements: whether all may be performed now, and each one's site or fault. -/
structure Checked where
  ready : Bool
  elems : List (Option (Except Trap Site))

def checkAll (k : Nat) (acc : Acc) (n : Nat) : List Target → State → Checked × State
  | [], s => (⟨true, []⟩, s)
  | none :: r, s => match checkAll k acc n r s with
    | (c, s) => ({ c with elems := none :: c.elems }, s)
  | some (.error t) :: r, s => match checkAll k acc n r s with
    | (c, s) => ({ c with elems := some (.error t) :: c.elems }, s)
  | some (.ok ga) :: r, s =>
    match checkAccess s k acc ga n with
    | (.ok x, s) => match checkAll k acc n r s with
      | (c, s) => ({ c with elems := some (.ok x) :: c.elems }, s)
    | (.fault t, s) => match checkAll k acc n r s with
      | (c, s) => ({ c with elems := some (.error t) :: c.elems }, s)
    | (.wait, s) => (⟨false, []⟩, s)

/-- The elements of a vector access whose addresses are formed, to be checked one by one as they are performed (R243), each with where
it leads as far as the page tables say now. -/
def askSpots (s : State) (k : Nat) (acc : Acc) (n : Nat) (ts : List Target) : List Spot :=
  ts.map (fun t => match t with
    | none => .off
    | some (.error t) => .fault t
    | some (.ok ga) => .ask ga (match crewCheck s k acc.writes ga n with
      | .error _ | .ok (.window ..) => none
      | .ok pl => match (locate s (some (crewCore k)) (s.crew k).ctx acc n pl).1 with
        | .ok l => some l
        | _ => none))

/-- Lowest active element of a list of targets or checks. -/
def firstActive {α : Type} (l : List (Option α)) : Option Nat := l.findIdx? (·.isSome)

/-- Lowest faulting active element and its trap. -/
def firstFault (l : List (Option (Except Trap Site))) : Option (Nat × Trap) :=
  ((List.range l.length).zip l).findSome? (fun e => match e.2 with
    | some (.error t) => some (e.1, t)
    | _ => none)

/-- Lowest active element that an .sc access may not reach (R214), with its address. -/
def firstScRemote (k : Nat) (ts : List Target) : Option (Nat × Nat) :=
  ((List.range ts.length).zip ts).findSome? (fun e => match e.2 with
    | some (.ok ga) => if scRemote k ga then some (e.1, ga) else none
    | _ => none)

/-- The trap of an element. -/
def elemTrap (t : Trap) (i : Nat) : Trap := { t with elem := some i }

/-- Addresses that are an affine function of the element number (R238). -/
def affine (n : Nat) (addr : Nat → Nat) : List Target := (List.range n).map (fun i => some (.ok (addr i % 2 ^ 64)))

/-- Signed or unsigned product and sum modulo 2^64. -/
def strideAddr (base : Nat) (i : Nat) (b : Word) : Nat := (base + i * b.toNat) % 2 ^ 64

/-- Addresses from index words in memory (R238), for the elements that a list of active bits selects: none while an index word
cannot be read yet. -/
def indexTargets (k base b c : Nat) : List (Nat × Bool) → State → Option (List Target) × State
  | [], s => (some [], s)
  | (_, false) :: r, s => match indexTargets k base b c r s with
    | (l, s) => (l.map (none :: ·), s)
  | (i, true) :: r, s =>
    match checkAccess s k .read ((c + 4 * i) % 2 ^ 64) 4 with
    | (.wait, s) => (none, s)
    | (.fault t, s) => match indexTargets k base b c r s with
      | (l, s) => (l.map (some (.error t) :: ·), s)
    | (.ok x, s) => match readNow s k (2 * k) (s.crew k).acc x with
      | .error s => (none, s)
      | .ok (bs, s) => match indexTargets k base b c r s with
        | (l, s) => (l.map ((some (if bytesMark bs then .error { code := Cause.poison }
            else .ok ((base + bytesNum bs * b) % 2 ^ 64))) :: ·), s)

/-- Addresses from an index token (R238). -/
def tokenTargets (base b : Nat) (t : Tok) : List Target :=
  t.elems.map (fun e => if !e.act then none
    else some (if e.p then .error { code := Cause.poison } else .ok ((base + e.v.toNat * b) % 2 ^ 64)))

/-- The information word of QLEN (R403). -/
def qlenInfo (t : Tok) (count width : Nat) : Word :=
  BitVec.ofNat 64 (t.n % 2 ^ 15 + t.wc % 4 * 2 ^ 15 + count % 2 ^ 15 * 2 ^ 17 + width % 4 * 2 ^ 32)

/-- Tokens of sqN, and of iq, that accesses which have issued still read: the next access reads the one after them. -/
def Crew.claimed (c : Crew) (n : Nat) : Nat := (c.loads.filter (fun j => match j.store with
  | some p => p.sq == n && p.data.isNone
  | none => false)).length
def Crew.claimedIq (c : Crew) : Nat := (c.loads.filter (fun j => match j.store with
  | some p => p.iq
  | none => false)).length

/-- The groups of a token that are there have been read: their slots are free (R231, R321). -/
def Tok.readAll (t : Tok) : Tok := { t with freed := if t.n = 0 then 0 else t.groups }

/-- An access that waits for its tokens reads the groups that are there, of its token of sqN and of iq (R321, R330). -/
def readAhead (sq : Option Nat) (iq : Bool) (s : State) : State :=
  s.modMe (fun c =>
    let c := match sq with
      | some n => c.setSq n ((c.sqAt n).modify (c.claimed n) Tok.readAll)
      | none => c
    if iq then { c with iq := c.iq.modify c.claimedIq Tok.readAll } else c)

/-- The token that an A-slice instruction reads from a store or index queue, checked (R233, R234): it waits until the token stands
there, and where it needs all of it, until it stands there whole. go is what else it reads while it waits. -/
def awaitToken (i : Instr) (queue : Nat) (t : Option Tok) (count : Nat) (width : Option Nat) (whole : Bool) (ahead : State → State)
    (s : State) (k : Tok → Out) : Out :=
  match t with
  | none => queueWait i queue true (ahead s)
  | some t =>
    if t.n ≠ count ∨ width.getD t.wc ≠ t.wc then
      raise { code := Cause.qlen, queue := queue, cinfo := qlenInfo t count (width.getD t.wc) } s
    else if !whole || t.whole then k t
    else queueWait i queue false (ahead s)

/-- The tokens of sqN and of iq that the next access reads. -/
def sqToken (i : Instr) (n count width : Nat) (whole iq : Bool) (s : State) (k : Tok → Out) : Out :=
  awaitToken i (8 + n) (s.myCrew.sqAt n)[s.myCrew.claimed n]? count (some width) whole (readAhead (some n) iq) s k
def iqToken (i : Instr) (count : Nat) (sq : Option Nat) (s : State) (k : Tok → Out) : Out :=
  awaitToken i 12 s.myCrew.iq[s.myCrew.claimedIq]? count none true (readAhead sq true) s k

/-- Pop the token of sqN, and of iq, that the current access reads. -/
def popSq (n : Nat) (s : State) : State := s.modMe (fun c => c.setSq n ((c.sqAt n).eraseIdx (c.claimed n)))
def popIq (s : State) : State := s.modMe (fun c => { c with iq := c.iq.eraseIdx c.claimedIq })

/-! ### Accesses that have issued -/

/-- Lane groups of the A-slice's share, which decide the element groups of what it pushes. -/
def aGroups (c : Crew) : Nat := max 1 c.a.share.g

/-- The token of an access, before any element group of it is pushed. -/
def Crew.newTok (c : Crew) (n wc : Nat) : Tok := { n := n, wc := wc, gsz := 8 * aGroups c, spg := groupSlots (aGroups c) wc }

/-- A load issues: the elements that it has in hand and those that it has still to read are fixed, and pushed group by group (R322).
-/
def issueLoad (j : LoadJob) (n wc : Nat) (s : State) : State := issue { j with tok := s.myCrew.newTok n wc, load := true } s

/-- A poison marker takes the place of a load's token (R243). -/
def issueMarker (q : Nat) (s : State) : State :=
  if s.myCrew.loads.any (fun l => l.pushes && l.q == q) then issue { q := q, tok := { marker := true }, member := none } s
  else s.modMe (fun c => c.setLq q (c.lqAt q ++ [{ marker := true }]))

/-- An element of a vector access as it was checked. -/
def spotOf : Option (Except Trap Site) → Spot
  | some (.ok (.mem l)) => .at l
  | some (.ok (.win w off n)) => .win w off n
  | some (.error t) => .fault t
  | none => .off

/-- A vector store, vamo or vred issues (R322). The iq token that named its elements has been read, and stays until the last of them
has left the core (R241, R265). -/
def issueStore (p : StorePart) (acq : Bool) (lq n wc : Nat) (m : Option Member) (s : State) : State :=
  issue { q := lq, tok := s.myCrew.newTok n wc, member := m, acq := acq, store := some p }
    (if p.iq then s.modMe (fun c => { c with iq := c.iq.modify c.claimedIq Tok.readAll }) else s)

/-- Vector loads issued and not wholly pushed, and vector stores, vamo and vred not wholly performed, are at their limits
(R321). -/
def loadsFull (c : Crew) : Bool := decide ((c.loads.filter (·.load)).length ≥ 8)
def storesFull (c : Crew) : Bool :=
  decide ((c.loads.filter (fun j => j.store.isSome && !j.scalar)).length + (c.owed.filter (·.vec)).length ≥ 8)

/-- The wait at a pending-access limit (R321, R329). -/
def limitWait (i : Instr) (s : State) : Out := queueWait i 0 false s

/-- How a vector access joins a counter (R250): none while it must wait. -/
def joinIf (nb : Bool) (cc : Nat) (s : State) : Option (Option Member × State) :=
  if !nb then some (none, s)
  else if (s.myCrew.counter cc).blocked then none
  else match s.joinBatch s.me cc with
    | (m, s) => some (some m, s)

/-- The elements of an .sc access still to be done: index, place, data. -/
def scElems (es : List (Option (Except Trap Site))) (ds : List Elem) : List (Nat × Located × Elem) :=
  ((List.range es.length).zip (es.zip ds)).filterMap (fun e => match e.2.1 with
    | some (.ok (.mem l)) => some (e.1, l, e.2.2)
    | _ => none)

/-- The qualifiers of a vector access. -/
structure Quals where
  w   : Nat
  cc  : Nat
  nb  : Bool
  ff  : Bool
  sc  : Bool
  acq : Bool
  rel : Bool

def quals (f : T48c) : Quals := ⟨f.w.toNat, f.cc.toNat, f.nb, f.ff, f.sc, f.ord == 1, f.ord == 2⟩

/-- A vector load, its targets known (R240, R243, R244): with nb = 0 every active element is checked as it issues, and with nb = 1
each as it is read. pop takes the tokens that supplied the indices. An .sc load that raises SCREMOTE pushes a marker as any other faulting
load does.
DEDUCED, log entry 15. DEDUCED, log entry 27. DESIGN CHOICE, log entry 119. -/
def vectorLoad (i : Instr) (q : Nat) (x : Quals) (ts : List Target) (pop : State → State) (s : State) : Out :=
  let k := s.me
  match (if x.sc then firstScRemote k ts else none) with
  | some (e, ga) => raise (elemTrap { code := Cause.scremote, tval := BitVec.ofNat 64 ga } e) (issueMarker q s)
  | none =>
    if x.nb then match joinIf true x.cc s with
      | none => waitAt i s
      | some (m, s') => done (pop (issueLoad { q := q, spots := askSpots s k .read (2 ^ x.w) ts, member := m, acq := x.acq } ts.length x.w s'))
    else match checkAll k .read (2 ^ x.w) ts s with
      | (c, s') =>
        if !c.ready then issueWait i (s.carry s')
        else
          let fault := firstFault c.elems
          let cut := match fault with
            | some (e, _) => x.ff && decide (some e ≠ firstActive ts)
            | none => false
          match fault, cut with
          | some (e, t), false => raiseFault (elemTrap t e) (issueMarker q s')
          | _, _ =>
            if x.sc then waitAt i ((pop s').modMe (fun w => { w with
              sc := some ⟨false, q, x.w, ts.length, scElems c.elems (ts.map (fun _ => {})), ts.map (fun t => { v := 0, act := t.isSome })⟩ }))
            else
              let n := if cut then (fault.map (·.1)).getD 0 else ts.length
              let s' := match cut, fault with
                | true, some (_, t) => (s'.noteFault k t).modMe (fun w => { w with alen := n })
                | _, _ => s'
              done (pop (issueLoad { q := q, spots := (c.elems.take n).map spotOf, member := none, acq := x.acq } n x.w s'))

/-- An .sc access of the current crew is done, or it goes on waiting. -/
def scDone (i : Instr) (s : State) (fresh : Out) (fin : ScAccess → State → Out) : Out :=
  match s.myCrew.sc with
  | none => fresh
  | some a => if a.left.isEmpty then fin a (s.modMe (fun c => { c with sc := none })) else waitAt i s

/-- The shape of a vector load: registers rs are read, and addresses made from their values. -/
def vload (i : Instr) (f : T48c) (rs : List Nat) (s : State)
    (mk : List Word → State → (List Target → (State → State) → State → Out) → Out) : Out :=
  let q := bitsOf f.d.toNat 0 3
  inA s (scDone i s
    (useRegs i rs [] s (fun vs =>
      if loadsFull s.myCrew then limitWait i s
      else mk vs s (fun ts pop s => vectorLoad i q (quals f) ts pop s)))
    (fun a s => done (issueLoad { q := q, todo := a.done, member := none } a.done.length f.w.toNat s)))

def baseOf (f : T48c) (vs : List Word) : Nat := effAddr (vs.getD 0 0) f.imm

/-- Unit-stride addresses. -/
def unitTargets (f : T48c) (vs : List Word) (n : Nat) : List Target :=
  affine n (fun i => baseOf f vs + i * 2 ^ f.w.toNat)

/-- Strided addresses. -/
def stridedTargets (f : T48c) (vs : List Word) (n : Nat) : List Target :=
  affine n (fun i => strideAddr (baseOf f vs) i (vs.getD 1 0))

/-- Two-dimensional addresses (R238): rows of nc elements. -/
def tiledTargets (f : T48c) (vs : List Word) (n : Nat) : List Target :=
  let nc := if vs.getD 2 0 = 0 then 2 ^ 64 else (vs.getD 2 0).toNat
  affine n (fun i => strideAddr (baseOf f vs) (i / nc) (vs.getD 1 0) + i % nc * 2 ^ f.w.toNat)

/-- Unit-stride vector load. -/
def execVlq (f : T48c) (s : State) : Out :=
  vload (.vlq f) f [f.a.toNat] s (fun vs s k => k (unitTargets f vs s.myCrew.alen) id s)

/-- Strided vector load. -/
def execVlqs (f : T48c) (s : State) : Out :=
  vload (.vlqs f) f [f.a.toNat, f.b.toNat] s (fun vs s k => k (stridedTargets f vs s.myCrew.alen) id s)

/-- Vector load with indices in memory. -/
def execVlqx (f : T48c) (s : State) : Out :=
  vload (.vlqx f) f [f.a.toNat, f.b.toNat, f.c.toNat] s (fun vs s k =>
    match indexTargets s.me (baseOf f vs) (vs.getD 1 0).toNat (vs.getD 2 0).toNat
        ((List.range s.myCrew.alen).map (·, true)) s with
    | (none, t) => issueWait (.vlqx f) (s.carry t)
    | (some ts, s) => k ts id s)

/-- Vector load with indices from iq. -/
def execVlqi (f : T48c) (s : State) : Out :=
  vload (.vlqi f) f [f.a.toNat, f.b.toNat] s (fun vs s k =>
    iqToken (.vlqi f) s.myCrew.alen none s (fun t => k (tokenTargets (baseOf f vs) (vs.getD 1 0).toNat t) popIq s))

/-- Two-dimensional vector load. -/
def execVlqt (f : T48c) (s : State) : Out :=
  vload (.vlqt f) f [f.a.toNat, f.b.toNat, f.c.toNat] s (fun vs s k => k (tiledTargets f vs s.myCrew.alen) id s)

/-! ### Stores from a queue -/

/-- Lines of the write-combining buffer that a crew still holds, of these. -/
def Crew.stillHeld (c : Crew) (lines : List Nat) : List Nat := lines.eraseDups.filter (fun n => c.wcb.any (fun w => w.line == n))

/-- An access whose stores are in the buffer is performed, and its member completes, when they have drained (R223, R321). -/
def State.owe (s : State) (k : Nat) (o : Owed) : State :=
  if o.lines.isEmpty then s.memberDone? o.member o.fail
  else if o.member.isNone && !o.vec then s
  else s.modCrew k (fun c => { c with owed := c.owed ++ [o] })

/-- Targets without those whose element of the store token is known to be inactive. -/
def maskTargets (ts : List Target) (es : List Elem) : List Target :=
  ((List.range ts.length).zip ts).map (fun x => match es[x.1]? with
    | some e => if e.act then x.2 else none
    | none => x.2)

/-- A vector access that reads a store token, its targets and the token known (R241, R243, R265): with nb = 0 every active element is
checked, and the lowest fault traps, at the element that elem gives for its place in the list; with nb = 1 each is checked as it is
performed. It issues, once a release may (R210), and its elements are performed as they come (R322).
DEDUCED, log entry 20. -/
def storeIssue (i : Instr) (x : Quals) (join : Bool) (part : List Spot → StorePart) (acc : Acc) (width lq n : Nat) (ts : List Target)
    (elem : Nat → Nat) (trap : State → State) (owe : Option Member → State → State) (s : State) : Out :=
  let go := fun (spots : List Spot) (s' : State) =>
    match (if x.rel then settle s' s.me else some s') with
    | none => waitAt i s
    | some s' => match joinIf join x.cc s' with
      | none => waitAt i s
      | some (m, s') => done (issueStore (part spots) x.acq lq n x.w m (owe m s'))
  if x.nb then go (askSpots s s.me acc width ts) s
  else match checkAll s.me acc width ts s with
    | (c, s') =>
      if !c.ready then issueWait i (s.carry s')
      else match firstFault c.elems with
        | some (e, t) => raiseFault (elemTrap t (elem e)) (trap s')
        | none => go (c.elems.map spotOf) s'

/-- A vector store, its targets and its data token known (R241, R243, R245). -/
def vectorStore (i : Instr) (x : Quals) (q : Nat) (ts : List Target) (t : Tok) (iq : Bool) (s : State) : Out :=
  let k := s.me
  let ts := maskTargets ts t.elems
  if x.sc then match firstScRemote k ts with
    | some (e, ga) => raise (elemTrap { code := Cause.scremote, tval := BitVec.ofNat 64 ga } e) s
    | none => match checkAll k .write (2 ^ x.w) ts s with
      | (c, s') =>
        if !c.ready then issueWait i (s.carry s')
        else match firstFault c.elems with
          | some (e, t) => raiseFault (elemTrap t e) s'
          | none => waitAt i (s'.modMe (fun w => { w with sc := some ⟨true, 0, x.w, ts.length, scElems c.elems t.elems, []⟩ }))
  else storeIssue i x x.nb (fun l => { sq := q, op := .write, left := l, iq := iq }) .write (2 ^ x.w) 0 t.n ts id id (fun _ => id) s

/-- The shape of a vector store: it needs its token whole for .sc, with nb = 0, and where its indices stand in memory. -/
def vstore (i : Instr) (f : T48c) (rs : List Nat) (indexed iq : Bool) (s : State)
    (mk : List Word → Tok → State → (List Target → State → Out) → Out) : Out :=
  let q := f.d.toNat
  inA s (scDone i s
    (useRegs i rs [] s (fun vs =>
      if storesFull s.myCrew then limitWait i s
      else sqToken i q s.myCrew.alen f.w.toNat (indexed || f.sc || !f.nb) iq s (fun t =>
        mk vs t s (fun ts s => vectorStore i (quals f) q ts t iq s))))
    (fun _ s => done ((if iq then popIq else id) (popSq q s))))

/-- Unit-stride vector store. -/
def execVsq (f : T48c) (s : State) : Out :=
  vstore (.vsq f) f [f.a.toNat] false false s (fun vs _ s k => k (unitTargets f vs s.myCrew.alen) s)

/-- Strided vector store. -/
def execVsqs (f : T48c) (s : State) : Out :=
  vstore (.vsqs f) f [f.a.toNat, f.b.toNat] false false s (fun vs _ s k => k (stridedTargets f vs s.myCrew.alen) s)

/-- Vector store with indices in memory: those of the active elements (R241). -/
def execVsqx (f : T48c) (s : State) : Out :=
  vstore (.vsqx f) f [f.a.toNat, f.b.toNat, f.c.toNat] true false s (fun vs t s k =>
    match indexTargets s.me (baseOf f vs) (vs.getD 1 0).toNat (vs.getD 2 0).toNat
        ((List.range s.myCrew.alen).zip (t.elems.map (·.act))) s with
    | (none, t) => issueWait (.vsqx f) (s.carry t)
    | (some ts, s) => k ts s)

/-- Vector store with indices from iq. -/
def execVsqi (f : T48c) (s : State) : Out :=
  vstore (.vsqi f) f [f.a.toNat, f.b.toNat] false true s (fun vs _ s k =>
    iqToken (.vsqi f) s.myCrew.alen (some f.d.toNat) s (fun t => k (tokenTargets (baseOf f vs) (vs.getD 1 0).toNat t) s))

/-! ### Steps of the memory side of a crew -/

/-- Run again the instruction at which a sequencer waits, where pick knows it: fetched anew, so that the issue latch is
its own. -/
def retry (k : Nat) (xs : Bool) (pick : Instr → Option (State → Out)) (s : State) : Out :=
  match ((s.crew k).seq xs).wait with
  | none => .next s
  | some w => match pick w with
    | none => .next s
    | some _ => match fetch k xs s with
      | .stay s => .next s
      | .run i s' => match pick i with
        | some m => m s'
        | none => .next s

/-- Line i of the write-combining buffer drains (R207). -/
def wcbLineDrainEv (k i : Nat) (s : State) : Option State :=
  match (s.crew k).wcb[i]? with
  | none => none
  | some l => (drainLine s k l) <|> s.await (2 * k + 1) (l.cells.map (·.1))

/-- R207. -/
def execWcbLineDrain (k : Nat) (i : Nat) (s : State) : Out := .next ((wcbLineDrainEv k i s).getD s)

/-- The next element of an .sc access is performed at its ticket, at the bytes that its check named (R213). Data that cannot return
over a dark path is delivered poisoned (R284). -/
def scTicketDrawEv (k : Nat) (s : State) : Option State :=
  match (s.crew k).sc with
  | none => none
  | some a => match a.left with
    | [] => none
    | (e, l, d) :: r => match settleAll s k with
      | none => none
      | some s =>
        let ps := l.bytes
        if !s.admits k ps then s.await (2 * k + 1) ps
        else (s.trade (crewDie k) (byteDie (ps.headD 0)) (if a.store then ps.length else 0) (if a.store then 0 else ps.length)).bind
          (fun s =>
          let s := (s.ticket (crewChip k)).leave (2 * k) ps
          if a.store then
            some ((s.own k (l.cacheable k) (storeCells ps ⟨d.v, d.p⟩)).modCrew k (fun c => { c with sc := some { a with left := r } }))
          else match crewRead s k ps with
            | (bs, s) =>
              let x : Elem := if pathDown s (crewDie k) (byteDie (ps.headD 0)) then ⟨0, true, true⟩
                else ⟨BitVec.ofNat 64 (bytesNum bs), true, bytesMark bs⟩
              some (s.modCrew k (fun c => { c with sc := some { a with left := r, done := a.done.set e x } })))

/-- R213. -/
def execScTicketDraw (k : Nat) (s : State) : Out := .next ((scTicketDrawEv k s).getD s)

/-! ### Remote scalar requests (R279 to R285) -/

def State.setPhase (s : State) (k : Nat) (q : Req) (p : ReqPhase) : State :=
  s.modCrew k (fun c => { c with req := some { q with phase := p } })

/-- The request of crew k fails with a cause. -/
def State.failReq (s : State) (k : Nat) (q : Req) (code reason : Nat) : State :=
  s.setPhase k q (.returned {} (some { code := code, reason := reason, tval := q.ga }) none [])

/-- The receiver checks the version of the request of crew k (R285); a refused request has no effect, and the refused
flits count as freed. -/
def packetReceiveEv (k : Nat) (s : State) : Option State :=
  match (s.crew k).req with
  | none => none
  | some q => if q.phase ≠ .sent ∨ !(s.chip (dieChip q.dst)).supplied then none
    else some (s.setPhase k q (if q.ver = dieVersion s q.dst then .arrived else .nacked))

/-- R285. -/
def execPacketReceive (i : Nat) (s : State) : Out := .next ((packetReceiveEv i s).getD s)

/-- The NACK reaches the sender, which holds the request (R285). -/
def versionNackReceiveEv (k : Nat) (s : State) : Option State :=
  match (s.crew k).req with
  | none => none
  | some q => if q.phase ≠ .nacked then none else some (s.setPhase k q .held)

/-- R285. -/
def execVersionNackReceive (i : Nat) (s : State) : Out := .next ((versionNackReceiveEv i s).getD s)

/-- Bytes of payload of a request: a write that goes through the issuer's buffer carries none. -/
def Req.payload (q : Req) : Nat :=
  match q.op with
  | .read .. | .check _ => 0
  | .write n _ => if q.sc then n else 0
  | .rmw _ _ n _ _ => n

/-- Once both chips have one version the request is sent again, with credits as the first time, or it fails (R282, R285). -/
def packetResendEv (k : Nat) (s : State) : Option State :=
  match (s.crew k).req with
  | none => none
  | some q =>
    let v := dieVersion s q.src
    if q.phase ≠ .held ∨ v ≠ dieVersion s q.dst then none
    else if !routeValid s q.src q.dst then some (s.failReq k q Cause.addrflt 4)
    else if pathDown s q.src q.dst then some (s.failReq k q Cause.darkpath 0)
    else (sendFlits s q.src q.dst (flits q.payload)).map (fun s => s.setPhase k { q with ver := v } .sent)

/-- R285. -/
def execPacketResend (i : Nat) (s : State) : Out := .next ((packetResendEv i s).getD s)

/-- The data of a scalar load is delivered to its register (R236). -/
def State.deliver (s : State) (k i : Nat) (j : ReadJob) (v : Scalar) : State :=
  s.modCrew k (fun c => { c with
    reads := c.reads.eraseIdx i, a := { c.a.write j.d (extend j.sx j.bytes.length v) 0 with busy := c.a.busy.erase j.d } })

/-- What is not acknowledged after its path has been marked dark fails, and data that cannot return is delivered poisoned
(R284). A write that has been performed stands. -/
def darkRequestTimeoutEv (k : Nat) (s : State) : Option State :=
  let c := s.crew k
  match c.reads.findIdx? (fun j => pathDown s (crewDie k) j.die), c.req with
  | some i, _ => (c.reads[i]?).map (fun j => s.deliver k i j ⟨0, true⟩)
  | none, none => none
  | none, some q =>
    if !pathDown s q.src q.dst then none
    else match q.phase with
      | .sent | .arrived | .nacked | .held | .replied .. => some (s.failReq k q Cause.darkpath 0)
      | .returned .. => none

/-- R284. -/
def execDarkRequestTimeout (i : Nat) (s : State) : Out := .next ((darkRequestTimeoutEv i s).getD s)

/-- A cumulative credit count returns (R282): it never exceeds what was sent. -/
def creditReturnReceiveEv (die peer freed : Nat) (s : State) : Option State :=
  let p := get {} (s.die die).paths peer
  let out := (p.sent + 2 ^ 16 - p.freed) % 2 ^ 16
  let gain := (freed + 2 ^ 16 - p.freed) % 2 ^ 16
  if freed < 2 ^ 16 ∧ gain ≤ out then
    some (s.modDie die (fun x => { x with paths := put {} x.paths peer { p with freed := freed } }))
  else none

/-- R282. -/
def execCreditReturnReceive (die : Nat) (peer : Nat) (freed : Nat) (s : State) : Out :=
  .next ((creditReturnReceiveEv die peer freed s).getD s)

/-- The copies of flits up to a sequence number are released (R283). -/
def flitAcknowledgeEv (die peer seq : Nat) (s : State) : Option State :=
  let p := get {} (s.die die).paths peer
  match p.unack.findIdx? (fun e => e.1 == seq) with
  | none => none
  | some i => some (s.modDie die (fun x => { x with paths := put {} x.paths peer { p with unack := p.unack.drop (i + 1) } }))

/-- R283. -/
def execFlitAcknowledge (die : Nat) (peer : Nat) (seq : Nat) (s : State) : Out :=
  .next ((flitAcknowledgeEv die peer seq s).getD s)

/-! ### The core caches and their directory (R216 to R218) -/

/-- The bytes of a span: words of 4 bytes of a 256-byte block of the core's die. -/
def spanBytes (core blk first cnt : Nat) : List Nat :=
  (List.range cnt).map (fun i => hbmByte (coreDie core) (blk * 256) + 4 * (first + i))

/-- A leaf's page holds a block of its die's HBM: in the striped view, or in the channel view of the block's channel (R376, R377). -/
def TlbEntry.holdsBlock (e : TlbEntry) (blk : Nat) : Bool :=
  let a := if leafPch e.leaf.toNat = 0x40 then 256 * blk else 256 * (blk / 64)
  (leafPch e.leaf.toNat == 0x40 || leafPch e.leaf.toNat == blk % 64)
    && decide (leafPa e.leaf.toNat ≤ a) && decide (a < leafPa e.leaf.toNat + 2 ^ leafShift e.lev)

/-- A page of the core's die that has been translated for it is cacheable and holds the block (R216). -/
def cacheable (s : State) (core blk : Nat) : Bool :=
  ((s.core core).l1 ++ (s.die (coreDie core)).tlb).any (fun e => wbit e.leaf 5 && e.holdsBlock blk)

/-- A legal span (R217). -/
def spanOk (blk first cnt : Nat) : Bool := decide (1 ≤ cnt) && decide (first + cnt ≤ 64) && decide (blk < 2 ^ 29)

/-- A span that the directory grants: cacheable, with no word locked (R216, R273), and the lines it needs in the cache fit (R19). -/
def spanGrant (s : State) (core blk first cnt : Nat) : Bool :=
  let ps := spanBytes core blk first cnt
  let c := s.core core
  let new := (lineMasks ps).filter (fun e => get {} c.cache e.1 == {})
  spanOk blk first cnt && cacheable s core blk && s.clear ps && decide (c.cache.length + new.length ≤ c.cacheLines)

/-- The dirty copies of these words are recalled from every other core: they are clean there (R217).
DEDUCED, log entry 19. -/
def State.recall (s : State) (core : Nat) (ps : List Nat) : State :=
  { s with cores := s.cores.map (fun e => if e.1 = core then e else
      (e.1, { e.2 with cache := e.2.cache.map (fun l => (l.1, { l.2 with
        dirty := l.2.dirty &&& ~~~((lineMasks ps).foldl (fun m x => if x.1 = l.1 then m ||| x.2 else m) 0) })) })) }

def readSpanEv (core blk first cnt : Nat) (s : State) : Option State :=
  let ps := spanBytes core blk first cnt
  if spanGrant s core blk first cnt then some ((s.recall core ps).hold core false ps) else none

/-- R217. -/
def execReadSpan (core : Nat) (blk : Nat) (first : Nat) (cnt : Nat) (s : State) : Out :=
  .next ((readSpanEv core blk first cnt s).getD s)

def ownSpanEv (core blk first cnt : Nat) (s : State) : Option State :=
  let ps := spanBytes core blk first cnt
  if spanGrant s core blk first cnt then some ((s.dropCopies ps).hold core true ps) else none

/-- R217, R218. -/
def execOwnSpan (core : Nat) (blk : Nat) (first : Nat) (cnt : Nat) (s : State) : Out :=
  .next ((ownSpanEv core blk first cnt s).getD s)

/-- The core gives up words: all of its copies of them, or only their dirty bits. -/
def State.yieldWords (s : State) (core : Nat) (keep : Bool) (ps : List Nat) : State :=
  s.modCore core (fun c => { c with cache := (lineMasks ps).foldl (fun m e =>
    let l := get {} m e.1
    put {} m e.1 (if keep then { l with dirty := l.dirty &&& ~~~e.2 } else l.drop e.2)) c.cache })

/-- Each of these words is dirty in the core's cache. -/
def ownsAll (s : State) (core : Nat) (ps : List Nat) : Bool :=
  (lineMasks ps).all (fun e => (get {} (s.core core).cache e.1).dirty &&& e.2 == e.2)

def writeBackSpanEv (core blk first cnt : Nat) (keep : Bool) (s : State) : Option State :=
  let ps := spanBytes core blk first cnt
  if spanOk blk first cnt && ownsAll s core ps then some (s.yieldWords core keep ps) else none

/-- R217. -/
def execWriteBackSpan (core : Nat) (blk : Nat) (first : Nat) (cnt : Nat) (keep : Bool) (s : State) : Out :=
  .next ((writeBackSpanEv core blk first cnt keep s).getD s)

def invalidateSpanEv (core blk first cnt : Nat) (s : State) : Option State :=
  if spanOk blk first cnt then some (s.yieldWords core false (spanBytes core blk first cnt)) else none

/-- R217, R218. -/
def execInvalidateSpan (core : Nat) (blk : Nat) (first : Nat) (cnt : Nat) (s : State) : Out :=
  .next ((invalidateSpanEv core blk first cnt s).getD s)

end Sys2Proof.Machine
end

