-- ==== Sys2Proof/Machine/Block.lean ====
section
/-!
DEFINITION. Block floating point (R77 to R80) and its loads and stores (R247).
-/
namespace Sys2Proof.Machine

/-- Bytes of the mantissas of one block of width m (R77). -/
def blockBytes (m : Nat) : Nat := 4 * m

/-- The mantissa of element i of a block of width m, signed, from the number that the block's bytes hold. -/
def mantissa (m block i : Nat) : Int := (BitVec.ofNat m (block / 2 ^ (m * i))).toInt

/-- The encoding of element i of a block with exponent E (R78, R80). -/
def widen (f : Fmt) (m ex block i : Nat) : Nat :=
  let v := mantissa m block i
  if ex = 255 then
    if v = 0 then f.zero false else if v = 1 then f.infinity false
    else if v = -1 ∧ m ≠ 1 then f.infinity true else f.qnan
  else if v = 0 then f.zero false
  else
    let r := f.round RNE (decide (v < 0)) v.natAbs ((ex : Int) - 127 - ((m - 2 : Nat) : Int))
    if (f.decode r.bits).isInf then f.largest (decide (v < 0)) else r.bits

/-- The exponent of a block (R79): the elements as values; none for a special block. -/
def blockExp (xs : List Fp) : Option Nat :=
  if xs.any (fun x => x.isNan || x.isInf) then none
  else
    let leads := xs.filterMap (fun x => match x with
      | .num _ 0 _ => none
      | .num _ m e => some ((m.log2 : Int) + e)
      | _ => none)
    some ((leads.foldl max (-127)) + 127).toNat

/-- The mantissa code of one element (R79, R80). -/
def narrow (m : Nat) (ex : Option Nat) (x : Fp) : Int :=
  match ex, x with
  | none, .nan _ => -(2 ^ (m - 1) : Nat)
  | none, .inf n => if n then -1 else 1
  | none, .num .. => 0
  | some _, .nan _ => 0
  | some _, .inf _ => 0
  | some ex, .num neg a e =>
    let mag := (roundAt RNE neg a e false ((ex : Int) - 127 - ((m - 2 : Nat) : Int))).1
    let v : Int := if neg then -(mag : Int) else mag
    max (-(2 ^ (m - 1) : Nat)) (min ((2 ^ (m - 1) : Nat) - 1) v)

/-- The bytes of one block's mantissas, and its scale byte (R79). -/
def packBlock (m : Nat) (xs : List Fp) : List Byte × Byte :=
  let ex := blockExp xs
  let codes := xs.map (fun x => ((narrow m ex x) % (2 ^ m : Nat)).toNat)
  let word := (codes.zip (List.range codes.length)).foldl (fun a e => a + e.1 * 2 ^ (m * e.2)) 0
  (leBytes (blockBytes m) word, BitVec.ofNat 8 (ex.getD 255))

/-- The format of the queue data of a block access. -/
def blockFmt (bf : Bool) : Fmt := if bf then .bf16 else .fp32

/-- The byte addresses of block j: its mantissas, then its scale. -/
def blockTargets (m a b j : Nat) : List Target :=
  (List.range (blockBytes m)).map (fun i => some (.ok ((a + blockBytes m * j + i) % 2 ^ 64))) ++ [some (.ok ((b + j) % 2 ^ 64))]

/-- The scale byte of a block, or a byte that holds a bit of the mantissa of element i, has this property. -/
def blockAny (m i : Nat) (bytes : List Bool) : Bool :=
  bytes.getD (blockBytes m) false ||
    (List.range ((m * i + m - 1) / 8 + 1 - m * i / 8)).any (fun j => bytes.getD (m * i / 8 + j) false)

/-- The elements of one block as a load delivers them: each byte with whether it faulted. An element of a faulting byte is
delivered as 0 with its mark, and one of a marked byte with its mark (R243, R247). -/
def blockElems (f : Fmt) (m cnt : Nat) (bytes : List (VByte × Bool)) : List Elem :=
  let word := leNat ((bytes.take (blockBytes m)).map (·.1.b))
  let ex := (bytes.getD (blockBytes m) ({}, false)).1.b.toNat
  (List.range cnt).map (fun i =>
    if blockAny m i (bytes.map (·.2)) then { v := 0, p := true }
    else { v := BitVec.ofNat 64 (widen f m ex word i), p := blockAny m i (bytes.map (·.1.p)) })

/-- Split a list into runs of n. -/
def chunks {α : Type} (n : Nat) : Nat → List α → List (List α)
  | 0, _ => []
  | fuel + 1, l => if l.isEmpty then [] else l.take n :: chunks n fuel (l.drop n)

/-- The lowest element of a block access that a fault of byte i of its block list belongs to: the block's first
element. -/
def blockOfByte (m i : Nat) : Nat := i / (blockBytes m + 1)

/-- Block-format load (R247). -/
def execVlqb (f : T48e) (s : State) : Out :=
  let i := Instr.vlqb f
  let q := f.d.toNat
  let m := f.mw.toNat + 2
  inA s (use2 i f.a.toNat f.b.toNat [] s (fun a b =>
    if loadsFull s.myCrew then limitWait i s
    else if a.toNat % 4 ≠ 0 then raise { code := Cause.align, tval := a } s
    else
      let n := s.myCrew.alen
      let nb := (n + 31) / 32
      let ts := (List.range nb).flatMap (blockTargets m a.toNat b.toNat)
      let wc := if f.bf then 1 else 2
      let job := fun (spots : List Spot) (mem : Option Member) =>
        ({ q := q, spots := spots, block := some (f.bf, m), member := mem } : LoadJob)
      if f.nb then match joinIf true f.cc.toNat s with
        | none => waitAt i s
        | some (mem, s') => done (issueLoad (job (askSpots s s.me .read 1 ts) mem) n wc s')
      else match checkAll s.me .read 1 ts s with
      | (c, s') =>
        if !c.ready then issueWait i (s.carry s')
        else
          let fault := firstFault c.elems
          let first := (fault.map (fun e => blockOfByte m e.1)).getD nb
          let cut := fault.isSome && f.ff && decide (0 < first)
          match fault, cut with
          | some (e, t), false => raiseFault (elemTrap t (32 * blockOfByte m e)) (issueMarker q s')
          | _, _ =>
            let j := if cut then first else nb
            let len := if cut then 32 * j else n
            let s' := match cut, fault with
              | true, some (_, t) => (s'.noteFault s.me t).modMe (fun w => { w with alen := len })
              | _, _ => s'
            done (issueLoad (job ((c.elems.take (j * (blockBytes m + 1))).map spotOf) none) len wc s')))

/-- The bytes that a block of elements stores, marked if one of its elements is (R247). -/
def blockCells (f : Fmt) (m : Nat) (es : List Elem) : List VByte :=
  let xs := es.map (fun e => if e.act then f.decode e.v.toNat else .num false 0 0)
  let p := es.any (fun e => e.act && e.p)
  match packBlock m xs with
  | (bs, ex) => (bs ++ [ex]).map (fun b => ⟨b, p⟩)

/-- Block-format store (R247). -/
def execVsqb (f : T48e) (s : State) : Out :=
  let i := Instr.vsqb f
  let q := f.d.toNat
  let m := f.mw.toNat + 2
  let wc := if f.bf then 1 else 2
  inA s (use2 i f.a.toNat f.b.toNat [] s (fun a b =>
    if a.toNat % 4 ≠ 0 then raise { code := Cause.align, tval := a } s
    else if storesFull s.myCrew then limitWait i s
    else sqToken i q s.myCrew.alen wc (!f.nb) false s (fun t =>
      let ts := (List.range ((s.myCrew.alen + 31) / 32)).flatMap (blockTargets m a.toNat b.toNat)
      storeIssue i ⟨wc, f.cc.toNat, f.nb, false, false, false, false⟩ f.nb (fun l => { sq := q, op := .block f.bf m, left := l }) .write 1 0 t.n
        ts (fun e => 32 * blockOfByte m e) id (fun _ => id) s)))

end Sys2Proof.Machine
end

