-- ==== Sys2Proof/Machine/Counters.lean ====
section
/-!
DEFINITION. Completion counters, waitw and bar (R249 to R256).
-/
namespace Sys2Proof.Machine

def State.setCounter (s : State) (n : Nat) (c : Counter) : State := s.modMe (fun w => { w with cc := put {} w.cc n c })

/-- Close the open batch of a counter, where that need not wait (R251). -/
def closeBatch (n : Nat) (s : State) : Option State :=
  let c := s.myCrew.counter n
  if c.joined ≠ 0 ∧ c.full then none else some (s.setCounter n c.close)

/-- cbatch (R251). -/
def execCbatch (f : T32e) (s : State) : Out :=
  inA s (match closeBatch f.cc.toNat s with
    | none => waitAt (.cbatch f) s
    | some s => done s)

/-- cwait (R251, R252): the close stands while it waits. -/
def execCwait (f : T32e) (s : State) : Out :=
  inA s (useRegs (.cwait f) [] [f.d.toNat] s (fun _ =>
    match closeBatch f.cc.toNat s with
    | none => namedWait (.cwait f) s
    | some s =>
      let c := s.myCrew.counter f.cc.toNat
      if c.closed.length ≤ f.imm.toNat then done (s.setR f.d.toNat (boolWord c.err) 0)
      else namedWait (.cwait f) s))

/-- The word of R249. -/
def Counter.word (c : Counter) : Word :=
  BitVec.ofNat 64 (c.joined + c.closed.length * 2 ^ 16 + flag c.err * 2 ^ 24 + (if c.err then c.ecause else 0) * 2 ^ 32)

/-- ccget, and ccget.clr (R251). -/
def execCcget (f : T32e) (s : State) : Out :=
  inA s (useRegs (.ccget f) [] [f.d.toNat] s (fun _ =>
    let c := s.myCrew.counter f.cc.toNat
    let s' := if f.imm = 0 then s else s.setCounter f.cc.toNat { c with err := false, ecause := 0 }
    done (s'.setR f.d.toNat c.word 0)))

/-- The condition of waitw (R253), at a width in bits. -/
def waitHolds (cond n v b : Nat) : Bool :=
  let b := b % 2 ^ n
  let x := (BitVec.ofNat n v).toInt
  let y := (BitVec.ofNat n b).toInt
  match cond with
  | 0 => v == b
  | 1 => v != b
  | 2 => decide (x < y)
  | 3 => decide (y ≤ x)
  | 4 => decide (v < b)
  | _ => decide (b ≤ v)

/-- The address is a scratchpad address that names the crew's own core (R253, R270). -/
def ownScratchpad (k ga : Nat) : Bool :=
  ga / 2 ^ 60 == 1 && gaDie (crewDie k) ga == crewDie k && 64 * crewDie k + gaCore ga == crewCore k

/-- waitw (R253): the word is read as any other read of the crew is, after what the crew has issued to it before, and while no lock
holds it (R201, R273).
DEDUCED, log entry 17. -/
def execWaitw (f : T32e) (s : State) : Out :=
  let i := Instr.waitw f
  inA s (use2 i f.a.toNat f.b.toNat [f.d.toNat] s (fun a b =>
    let ga := a.toNat
    let n := if bitOf f.imm.toNat 3 then 8 else 4
    if !ownScratchpad s.me ga then raise { code := Cause.waddr, tval := a } s
    else match crewCheck s s.me false ga n with
      | .error r => raise { code := Cause.addrflt, reason := r, tval := a } s
      | .ok _ =>
        if ga % n ≠ 0 then raise { code := Cause.align, tval := a } s
        else match checkAccess s s.me .read ga n with
          | (.fault t, s') => raiseFault t s'
          | (.wait, _) => namedWait i s
          | (.ok site, s') => match readNow s' s.me (2 * s.me) s'.myCrew.acc site with
            | .error t => namedWait i (s.carry t)
            | .ok (bs, s') =>
              if waitHolds (bitsOf f.imm.toNat 0 3) (8 * n) (bytesNum bs) b.toNat then
                done (s'.setRP f.d.toNat ⟨BitVec.ofNat 64 (bytesNum bs), bytesMark bs⟩ 0)
              else namedWait i s'))

/-- R253: the core reads the awaited word again. -/
def execWaitwReread (k : Nat) (s : State) : Out :=
  retry k false (fun i => match i with
    | .waitw f => some (execWaitw f)
    | _ => none) s

/-! ### Barriers (R254) -/

/-- Bits of the WID below the fields above level L (R28, R30). -/
def levelShift (c : Crew) (L : Nat) : Nat := (c.widths.take (L + 1)).foldl (· + ·) 0

/-- Crews of the set of a barrier at level L: the product of the extents from the crew level to L. -/
def setSize (c : Crew) (L : Nat) : Nat := ((c.exts.take (L + 1)).drop c.lev).foldl (fun a e => a * e.toNat) 1

/-- Another crew of the set: both hold the same fields above L. -/
def sameSet (c : Crew) (L : Nat) (w : Word) : Bool := w.toNat / 2 ^ levelShift c L == c.wid.toNat / 2 ^ levelShift c L

/-- A crew has arrived n times at level L, or has exited. -/
def arrivedAt (c : Crew) (L n : Nat) : Bool := decide (get 0 c.bars L ≥ n) || c.a.run == .exited || c.state == 6

/-- The live crew of a node with a WID, on its core or saved (R256). -/
def findMember (s : State) (node : Nat × Nat) (w : Word) : Option Crew :=
  match s.crews.find? (fun e => e.2.state != 0 && e.2.wid == w && e.2.home == some node) with
  | some e => some e.2
  | none => (s.images.find? (fun x => !x.loaded && x.crew.wid == w && x.crew.home == some node)).map (·.crew)

/-- The node that a handle names in the pool of a die, or named there last. -/
def findNode (s : State) (node : Nat × Nat) : Option Node :=
  match (s.die node.1).pool.find? (fun e => e.2.handle == node.2) with
  | some e => some e.2
  | none => (s.die node.1).old.find? (fun n => n.handle == node.2)

/-- Every crew of the barrier set of crew k at level L has arrived as often as crew k, or has exited; one not placed yet
has not arrived (R254). -/
def barrierOpen (s : State) (k L : Nat) : Bool :=
  let c := s.crew k
  if decide (L < c.lev) then true
  else match c.home with
    | none => true
    | some (d, h) =>
      match findNode s (d, h) with
      | none => true
      | some n =>
        let mates := (n.placed.map (·.1)).filter (sameSet c L)
        decide (mates.length ≥ setSize c L) && mates.all (fun w => w == c.wid ||
          match findMember s (d, h) w with
          | some x => arrivedAt x L (get 0 c.bars L)
          | none => true)

/-- bar (R254): arrive once, then wait for the set. -/
def execBar (f : T32e) (s : State) : Out :=
  let L := f.imm.toNat
  inA s (
    let s? := if s.myCrew.arrived = some L then some s
      else (settle s s.me).map (fun s => s.modMe (fun c =>
        { c with arrived := some L, bars := put 0 c.bars L (get 0 c.bars L + 1) }))
    match s? with
    | none => namedWait (.bar f) s
    | some s =>
      if barrierOpen s s.me L then done (s.modMe (fun c => { c with arrived := none }))
      else namedWait (.bar f) s)

/-- R254, R255: a crew departs once its set has arrived. -/
def execBarrierRelease (k : Nat) (s : State) : Out :=
  retry k false (fun i => match i with
    | .bar f => some (execBar f)
    | _ => none) s

end Sys2Proof.Machine
end

