-- ==== Sys2Proof/Machine/Atomics.lean ====
section
/-!
DEFINITION. Atomics, memory-side reductions, the performing of remote requests at their homes, and the multi-word
compare-and-swap (R257 to R276, R279, R280).
-/
namespace Sys2Proof.Machine

/-! ### Operations (R261) -/

/-- The new value of an atomic on n bytes. -/
def atomicOp (aop n v x : Nat) : Nat :=
  let m := 2 ^ (8 * n)
  let sv := (BitVec.ofNat (8 * n) v).toInt
  let sx := (BitVec.ofNat (8 * n) x).toInt
  let x := x % m
  match aop with
  | 0 => (v + x) % m
  | 1 => v &&& x
  | 2 => v ||| x
  | 3 => v ^^^ x
  | 4 => if sv ≤ sx then v else x
  | 5 => if sv ≤ sx then x else v
  | 6 => min v x
  | 7 => max v x
  | 8 => (Fmt.fp32.add RNE v x).bits
  | _ => x

/-- Log a read half that failed at a word, of an operation (an aop code, 10 for amocas, 11 for mcas) and width (R268): count
contributions discarded.
DESIGN CHOICE, log entry 13. -/
def State.logReadHalf (s : State) (p aop n count : Nat) : State :=
  s.logError (byteDie p) 3 (byteArray p) count (byteAddr (p / 8 * 8)) (Config.readHalfInfo aop n).toNat

/-- One returning atomic at its home, after the core-cache copies of its words are invalidated (R219, R262, R268): the old
value. -/
def rmwAt (s : State) (ps : List Nat) (cas : Bool) (aop : Nat) (x new : Scalar) : Scalar × State :=
  match (s.dropCopies ps).readBytes ps with
  | (bs, s) =>
    let v := bytesNum bs
    let n := ps.length
    if bytesMark bs then (⟨BitVec.ofNat 64 v, true⟩, s.logReadHalf (ps.headD 0) (if cas then 10 else aop) n 0)
    else
      let s' := if cas then
          (if v = x.v.toNat % 2 ^ (8 * n) then s.perform (storeCells ps new) else s)
        else s.perform (storeCells ps ⟨BitVec.ofNat 64 (atomicOp aop n v x.v.toNat), x.p⟩)
      (⟨BitVec.ofNat 64 v, false⟩, s')

/-! ### Scalar atomics (R260 to R263) -/

def aopOf (f : T32c) : Nat := bitsOf f.imm.toNat 0 4
def widthOf (f : T32c) : Nat := if bitOf f.imm.toNat 4 then 8 else 4
def aoOf (f : T32c) : Nat := bitsOf f.imm.toNat 5 2

/-- A returning atomic: rs are the registers read after the address. -/
def scalarAtomic (i : Instr) (f : T32c) (rs : List Nat) (cas : Bool) (s : State) : Out :=
  let n := widthOf f
  inA s (withReply i s
    (useRegs i (f.a.toNat :: rs) [f.d.toNat] s (fun vs =>
      let ga := (vs.getD 0 0).toNat
      let x : Word := vs.getD 1 0
      let new : Word := vs.getD 2 0
      scalarAccess i true false (aoOf f ≥ 2) ga n s (fun s' =>
        if ga % n ≠ 0 then raise { code := Cause.align, tval := BitVec.ofNat 64 ga } s
        else if isRemote s.me ga then sendReq i (.rmw cas (aopOf f) n x new) false ga n s'
        else match checkAccess s' s.me .rmw ga n with
          | (.fault t, s') => raiseFault t s'
          | (.ok (.mem l), s') =>
            if !s'.lets s.me l.kind l.bytes then waitAt i (s.carry (s'.queueUp (2 * s.me) l.bytes))
            else match drainOver s' s.me l.bytes with
              | none => waitAt i s
              | some s' => match rmwAt (s'.leave (2 * s.me) l.bytes) l.bytes cas (aopOf f) ⟨x, false⟩ ⟨new, false⟩ with
                | (v, s') => done (s'.setRP f.d.toNat v 0)
          | (_, s') => waitAt i (s.carry s'))))
    (fun r _ _ s => done (s.setRP f.d.toNat r 0)))

/-- amo (R262). -/
def execAmo (f : T32c) (s : State) : Out := scalarAtomic (.amo f) f [f.b.toNat] false s

/-- amocas (R262). -/
def execAmocas (f : T32c) (s : State) : Out := scalarAtomic (.amocas f) f [f.b.toNat, f.c.toNat] true s

/-! ### Reductions (R263, R266 to R268) -/

/-- The line number for which reduction n of a crew waits. -/
def redLine (n : Nat) : Nat := 2 ^ 64 + n

/-- A contribution of reduction n of crew k. -/
def Contribution.of (k n : Nat) (x : Contribution) : Bool :=
  x.num == n && (match x.member with
    | some m => m.crew == k
    | none => false)

/-- A contribution of reduction n of crew k waits or is chained at some slice, or is still to be sent. -/
def State.redLeft (s : State) (k n : Nat) : Bool :=
  s.dies.any (fun d => d.2.slices.any (fun e => e.2.wait.any (Contribution.of k n) || e.2.chains.any (fun c => c.parts.any (Contribution.of k n))))
    || (s.crew k).loads.any (fun j => j.num == n)

/-- A reduction of which no contribution is left is performed, and its member completes (R263). -/
def State.payReds (s : State) (k n : Nat) : State := if s.redLeft k n then s else s.payOwed k (redLine n)

/-- Change what is owed for reduction n of crew k. -/
def State.modRed (s : State) (k n : Nat) (g : Owed → Owed) : State :=
  s.modCrew k (fun c => { c with owed := c.owed.map (fun o => if o.lines == [redLine n] then g o else o) })

/-- A failure of a contribution of reduction n of crew k. -/
def State.failRed (s : State) (k n code : Nat) : State := s.modRed k n (fun o => { o with fail := o.fail <|> some code })

/-- Apply contributions to a word in order: the value of the bytes from lane on, and the word's bytes as marked. -/
def applyParts (cells : List VByte) : List Contribution → List VByte
  | [] => cells
  | c :: r =>
    let old := leNat ((cells.drop c.lane).take c.n |>.map (·.b))
    let new := leBytes c.n (atomicOp c.aop c.n old c.x.v.toNat)
    applyParts (cells.take c.lane ++ new.map (fun b => ⟨b, c.x.p⟩) ++ cells.drop (c.lane + c.n)) r

/-- The crews and numbers of the reductions that made these contributions, without repeats. -/
def sendersOf (parts : List Contribution) : List (Nat × Nat) :=
  (parts.filterMap (fun c => c.member.map (fun m => (m.crew, c.num)))).eraseDups

/-- Contributions whose read half failed at a word are discarded: logged, and each fails in its batch (R268). -/
def State.discard (s : State) (w : Nat) : List Contribution → State
  | [] => s
  | c :: r => (sendersOf (c :: r)).foldl (fun s e => s.failRed e.1 e.2 Cause.ue) (s.logReadHalf (8 * w) c.aop c.n (r.length + 1))

/-- Contributions to one word are applied in order and the result is written once, after the core-cache copies of the word are
invalidated (R219, R266, R267). Those whose read half fails are discarded: all of them where the word is uncorrectable, and
those after a poisoned operand, whose result is poisoned (R265, R268). The acknowledgement of a contribution that cannot
return over a dark path fails its member (R263, R284). -/
def performParts (s : State) (w : Nat) (parts : List Contribution) : State :=
  let ps := (List.range 8).map (8 * w + ·)
  match (s.dropCopies ps).readBytes ps with
  | (bs, s) =>
    let n := if bytesMark bs then 0 else ((parts.findIdx? (·.x.p)).map (· + 1)).getD parts.length
    let good := parts.take n
    let touched := fun (i : Nat) => good.any (fun c => decide (c.lane ≤ i) && decide (i < c.lane + c.n))
    let cells := (ps.zip (applyParts bs good)).filter (fun e => touched (e.1 % 8))
    let s := (if good.isEmpty then s else s.perform cells).discard w (parts.drop n)
    (sendersOf parts).foldl (fun s e =>
      (if pathDown s (crewDie e.1) (byteDie (8 * w)) then
        (s.darkFail e.1 (byteDie (8 * w)) (byteAddr (8 * w))).failRed e.1 e.2 Cause.darkpath else s).payReds e.1 e.2) s

/-- A contribution of reduction num leaves the core: to the slice of its word, where it stands behind the requests that wait for a
locked word; at a bank port, which never combines, it is performed at once (R259, R266, R273). -/
def contribute (s : State) (l : Located) (aop : Nat) (x : Scalar) (m : Member) (num : Nat) : State :=
  let p := l.bytes.headD 0
  let c : Contribution := ⟨p / 8, p % 8, aop, l.bytes.length, x, some m, num, l.kind == 1⟩
  if p < 2 ^ 45 then
    (s.modDie (byteDie p) (fun d =>
      let sl := get {} d.slices (byteSlice p)
      { d with slices := put {} d.slices (byteSlice p) { sl with wait := sl.wait ++ [c] } })).queueUp (2 * m.crew + 1) l.bytes
  else performParts (s.leave (2 * m.crew) l.bytes) (p / 8) [c]

/-- Contribution number num of crew k may leave now: after the crew's earlier accesses to its word, and in an SO page after its earlier
SO accesses; at a bank port the word must be free too (R201, R204, R259). -/
def mayContribute (s : State) (k num : Nat) (l : Located) : Bool :=
  if l.bytes.headD 0 < 2 ^ 45 then !((s.crew k).before num).pendingAt l.kind l.bytes && !(l.kind == 1 && s.soReds k)
  else s.letsAt k num l.kind l.bytes

/-- Send contribution num of crew k (R282): none while it must wait. -/
def sendContribution (s : State) (k num : Nat) (l : Located) (aop : Nat) (x : Scalar) (m : Member) : Option State :=
  if !mayContribute s k num l then none
  else (drainOver s k l.bytes).bind (fun s => (s.post (crewDie k) (byteDie (l.bytes.headD 0)) l.bytes.length).map (fun s =>
    contribute s l aop x m num))

/-- Reduction num of a member begins. -/
def State.oweRed (s : State) (m : Member) (num : Nat) (fail : Option Nat) : State :=
  s.modCrew m.crew (fun c => { c with owed := c.owed ++ [{ member := some m, fail := fail, lines := [redLine num] }] })

/-- The member of a red whose address has been checked joins; its contribution is sent at once, or the red issues and sends it once
its order allows (R201, R263). -/
def sendRed (i : Instr) (f : T32c) (l : Located) (x : Word) (s s' : State) : Out :=
  match joinIf true (bitsOf f.c.toNat 0 4) s' with
  | some (some m, s') =>
    let num := s'.myCrew.acc
    let s' := s'.oweRed m num none
    match sendContribution s' s.me num l (aopOf f) ⟨x, false⟩ m with
    | some t => done ((t.modMe (fun c => { c with acc := num + 1 })).payReds s.me num)
    | none => done (issue { member := some m, store := some { sq := 0, op := .red (aopOf f), left := [.at l], data := some ⟨x, true, false⟩ } }
        (if mayContribute s' s.me num l then s' else s'.queueUp (2 * s.me + 1) l.bytes))
  | _ => waitAt i s

/-- red (R263). -/
def execRed (f : T32c) (s : State) : Out :=
  let i := Instr.red f
  let n := widthOf f
  inA s (withReply i s
    (useRegs i [f.a.toNat, f.b.toNat] [] s (fun vs =>
      let ga := (vs.getD 0 0).toNat
      scalarAccess i true false (aoOf f ≥ 2) ga n s (fun s' =>
        if ga % n ≠ 0 then raise { code := Cause.align, tval := BitVec.ofNat 64 ga } s
        else if isRemote s.me ga then sendReq i (.check n) false ga 0 s'
        else match checkAccess s' s.me .red ga n with
          | (.ok (.mem l), s') => sendRed i f l (vs.getD 1 0) s s'
          | (.fault t, s') => raiseFault t s'
          | (_, s') => waitAt i (s.carry s'))))
    (fun _ kd bytes s' => useRegs i [f.b.toNat] [] s' (fun vs =>
      sendRed i f { bytes := bytes, kind := (kd.map (·.kind)).getD 0 } (vs.getD 0 0) s s')))

/-- The word of a contribution has an open chain. -/
def chainOf (sl : Slice) (w : Nat) : Option Chain := sl.chains.find? (fun c => c.parts.any (fun p => p.word == w))

/-- Contribution i may be accepted: none before it names its word or comes from its crew, its bytes are not locked and no other request
stands before it for them, and its chain can take it (R259, R266, R273, R280). -/
def acceptable (s : State) (sl : Slice) (i : Nat) (c : Contribution) : Bool :=
  let ps := (List.range c.n).map (8 * c.word + c.lane + ·)
  s.unheld ps && s.turnOf (2 * (c.member.map (·.crew)).getD 0) ps
    && !(sl.wait.take i).any (fun x => x.word == c.word || x.member.map (·.crew) == c.member.map (·.crew)) &&
    match chainOf sl c.word with
    | some ch => ch.parts.all (fun p => p.aop == c.aop && p.n == c.n)
    | none => decide (sl.chains.length < 64)

def setSlice (s : State) (slice : Nat) (sl : Slice) : State :=
  s.modDie (slice / 32) (fun d => { d with slices := put {} d.slices (slice % 32) sl })

def contributionAcceptEv (slice : Nat) (s : State) : Option State :=
  let sl := get {} (s.die (slice / 32)).slices (slice % 32)
  match ((List.range sl.wait.length).zip sl.wait).find? (fun e => acceptable s sl e.1 e.2) with
  | none => none
  | some (i, c) =>
    let chains := match chainOf sl c.word with
      | some _ => sl.chains.map (fun ch => if ch.parts.any (fun p => p.word == c.word) then { parts := ch.parts ++ [c] } else ch)
      | none => sl.chains ++ [{ parts := [c] }]
    some ((setSlice s slice { sl with wait := sl.wait.eraseIdx i, chains := chains }).leave (2 * (c.member.map (·.crew)).getD 0) [8 * c.word])

/-- R266. -/
def execContributionAccept (slice : Nat) (s : State) : Out := .next ((contributionAcceptEv slice s).getD s)

def chainCloseEv (slice i : Nat) (s : State) : Option State :=
  let sl := get {} (s.die (slice / 32)).slices (slice % 32)
  match sl.chains[i]? with
  | none => none
  | some ch => match ch.parts with
    | [] => none
    | c :: _ => some (performParts (setSlice s slice { sl with chains := sl.chains.eraseIdx i }) c.word ch.parts)

/-- R266. -/
def execChainClose (slice : Nat) (i : Nat) (s : State) : Out := .next ((chainCloseEv slice i s).getD s)

/-! ### Vector atomics (R264, R265) -/

/-- Targets with misaligned addresses as faults, where the issuer's own checks pass (R258). -/
def alignTargets (s : State) (n : Nat) (ts : List Target) : List Target :=
  ts.map (fun t => match t with
    | some (.ok ga) => match crewCheck s s.me true ga n with
      | .error _ => t
      | .ok _ => if ga % n ≠ 0 then some (.error { code := Cause.align, tval := BitVec.ofNat 64 ga }) else t
    | _ => t)

/-- The shape of a vector atomic: tokens, addresses and checks; then it issues. With nb = 1 its store token need only stand
there. -/
def vectorAtomic (i : Instr) (f : T48c) (acc : Acc) (op : StoreOp) (join : Bool) (trap : State → State)
    (owe : Option Member → State → State) (s : State) : Out :=
  let x := quals f
  let n := s.myCrew.alen
  let q := bitsOf f.d.toNat 3 2
  inA s (useRegs i [f.a.toNat, f.b.toNat] [] s (fun vs =>
    if storesFull s.myCrew then limitWait i s
    else iqToken i n (some q) s (fun it => sqToken i q n x.w (!x.nb) true s (fun st =>
      let ts := maskTargets (tokenTargets (baseOf f vs) (vs.getD 1 0).toNat it) st.elems
      storeIssue i x join (fun l => { sq := q, op := op, left := l, iq := true }) acc (2 ^ x.w) (bitsOf f.d.toNat 0 3) n
        (alignTargets s (2 ^ x.w) ts) id trap owe s))))

/-- vamo (R265). -/
def execVamo (f : T48c) (s : State) : Out :=
  vectorAtomic (.vamo f) f .rmw (.amo f.c.toNat) f.nb (issueMarker (bitsOf f.d.toNat 0 3)) (fun _ s => s) s

/-- vred (R265). -/
def execVred (f : T48c) (s : State) : Out :=
  vectorAtomic (.vred f) f .red (.red f.c.toNat) true id (fun m s => match m with
    | some m => s.oweRed m s.myCrew.acc none
    | none => s) s

/-! ### Elements of accesses that have issued (R241, R265, R322) -/

/-- What a group of elements of an access gives: the elements to push, the cause of its first failure, and the lines entered. -/
structure GroupDone where
  out   : List Elem := []
  fail  : Option Nat := none
  lines : List Nat := []

/-- Perform one element of access num of crew k where it has been located (R241, R265): what it returns, its failure, and the lines that
it enters. It must wait where its order, its home, the buffer or the path does not let it. -/
def storeElem (k num : Nat) (op : StoreOp) (m : Option Member) (l : Located) (e : Elem) (s : State) : Except State (GroupDone × State) :=
  let home := byteDie (l.bytes.headD 0)
  match op with
  | .amo aop =>
    if !s.letsAt k num l.kind l.bytes then .error (s.queueUp (2 * k + 1) l.bytes)
    else match (drainOver s k l.bytes).bind (fun s => s.trade (crewDie k) home l.bytes.length l.bytes.length) with
      | none => .error s
      | some s => match rmwAt (s.leave (2 * k) l.bytes) l.bytes false aop ⟨e.v, e.p⟩ {} with
        | (v, s) =>
          if pathDown s (crewDie k) home then .ok ({ out := [⟨0, true, true⟩], fail := some Cause.darkpath }, s)
          else .ok ({ out := [⟨v.v, true, v.p⟩], fail := if v.p then some Cause.ue else none }, s)
  | .red aop => match m.bind (sendContribution s k num l aop ⟨e.v, e.p⟩) with
    | none => .error (if mayContribute s k num l then s else s.queueUp (2 * k + 1) l.bytes)
    | some s => .ok ({ out := [{}] }, s)
  | _ =>
    if ((s.crew k).before num).pendingAt l.kind l.bytes || (l.kind == 1 && s.soReds k) then .error s
    else match writeAt s k l (storeCells l.bytes ⟨e.v, e.p⟩) with
      | none => .error (if l.kind = 1 then s.queueUp (2 * k + 1) l.bytes else s)
      | some s => .ok ({ out := [{}], lines := if l.kind = 1 then [] else l.bytes.map (· / 64) }, s)

/-- What an access does that performs elements of these operations. -/
def StoreOp.acc : StoreOp → Acc
  | .write | .block .. => .write
  | .amo _ => .rmw
  | .red _ => .red

/-- Perform elements of n bytes in increasing order (R241, R265): each with where it goes and its data. An inactive one is neither
checked nor performed. -/
def storeElems (k num n : Nat) (op : StoreOp) (m : Option Member) : List (Spot × Elem) → State → Except State (GroupDone × State)
  | [], s => .ok ({}, s)
  | (x, e) :: r, s =>
    let one : Except State (GroupDone × State) :=
      let fault := fun (t : Trap) (s : State) => .ok ({ out := [⟨0, true, true⟩], fail := some t.code }, s.noteFault k t)
      if !e.act then .ok ({ out := [⟨0, false, false⟩] }, s)
      else match x with
        | .off | .win .. => .ok ({ out := [⟨0, false, false⟩] }, s)
        | .fault t => fault t s
        | .at l => storeElem k num op m l e s
        | .ask ga _ => match checkAccess s k op.acc ga n with
          | (.ok (.mem l), s) => storeElem k num op m l e s
          | (.fault t, s) => fault t s
          | (_, s) => .error s
    match one with
    | .error t => .error t
    | .ok (g, s) => match storeElems k num n op m r s with
      | .error t => .error t
      | .ok (h, s) => .ok ({ out := g.out ++ h.out, fail := g.fail <|> h.fail, lines := g.lines ++ h.lines }, s)

/-- The elements of a group as they are performed: those of the token, or the bytes of the block that they make (R247). -/
def groupData (op : StoreOp) (es : List Elem) : List Elem :=
  match op with
  | .block bf m => (blockCells (blockFmt bf) m es).map (fun b => { v := BitVec.ofNat 64 b.b.toNat, p := b.p })
  | _ => es

/-- Elements of the token that an access performs in one step: an element group, a block of 32, or one contribution, after which
the next to an SO page must wait for it (R204). -/
def stepSize (op : StoreOp) (t : Tok) : Nat :=
  match op with
  | .block .. => 32
  | .red _ => 1
  | _ => t.gsz

/-- Elements of the token that an access has performed. -/
def elemsDone (p : StorePart) (t : Tok) : Nat :=
  match p.op with
  | .block _ m => min t.n (32 * ((t.n + 31) / 32 - p.left.length / (blockBytes m + 1)))
  | _ => t.n - p.left.length

/-- The last element of access i of crew k has been performed: its tokens are popped; what it still pushes follows, and its member
completes with its stores (R223, R241, R263, R265). -/
def endStore (k i : Nat) (j : LoadJob) (p : StorePart) (idx : Nat) (s : State) : State :=
  let iqAt := ({ s.crew k with loads := (s.crew k).loads.take i } : Crew).claimedIq
  let s := s.modCrew k (fun c =>
    let c := if p.data.isNone then c.setSq p.sq ((c.sqAt p.sq).eraseIdx idx) else c
    if p.iq then { c with iq := c.iq.eraseIdx iqAt } else c)
  match p.op with
  | .amo _ => s.modCrew k (fun c => { c with loads := c.loads.set i { j with store := none } })
  | .red _ =>
    ((s.modCrew k (fun c => { c with loads := c.loads.eraseIdx i })).modRed k j.num (fun o =>
      { o with fail := o.fail <|> j.fail, vec := p.data.isNone })).payReds k j.num
  | _ =>
    let s := s.modCrew k (fun c => { c with loads := c.loads.eraseIdx i })
    s.owe k { member := j.member, fail := j.fail, lines := (s.crew k).stillHeld p.lines, vec := p.data.isNone }

/-- Access i of crew k performs the next elements of its store token that are there, or its one datum, and ends with the last (R241, R265,
R322). -/
def storeStepEv (k i : Nat) (s : State) : Option State :=
  let c := s.crew k
  match c.loads[i]? with
  | none => none
  | some j => match j.store with
    | none => none
    | some p => match p.data with
      | some e => match storeElems k j.num 0 p.op j.member (p.left.map (·, e)) s with
        | .error t => s.held t
        | .ok (g, s) => some (endStore k i { j with fail := g.fail } { p with lines := g.lines.eraseDups } 0 s)
      | none =>
        let idx := (({ c with loads := c.loads.take i } : Crew)).claimed p.sq
        match (c.sqAt p.sq)[idx]? with
        | none => none
        | some t =>
          let pos := elemsDone p t
          let need := min (stepSize p.op t) (t.n - pos)
          let es := (t.elems.drop pos).take need
          if es.length < need then none
          else
            let data := groupData p.op es
            match storeElems k j.num (match p.op with
                | .block .. => 1
                | _ => 2 ^ t.wc) p.op j.member (p.left.zip data) s with
            | .error u => s.held u
            | .ok (g, s) =>
              let p := { p with left := p.left.drop data.length, lines := (p.lines ++ g.lines).eraseDups }
              let amo := p.op matches .amo _
              let j := { j with todo := if amo then j.todo ++ g.out else j.todo, fail := j.fail <|> g.fail, store := some p }
              let read := { t with freed := max t.freed (if t.n = 0 then 0 else (pos + es.length) / t.gsz) }
              let s := s.modCrew k (fun c => { c.setSq p.sq ((c.sqAt p.sq).set idx read) with loads := c.loads.set i j })
              some (if p.left.isEmpty then endStore k i j p idx s else s)

/-! ### Elements that a load reads (R240, R243, R247, R321) -/

/-- An element of n bytes of vector load num of crew k is read now: what is delivered, and the cause of a fault. -/
def fetchElem (k num n : Nat) (x : Spot) (s : State) : Except State ((Elem × Option Nat) × State) :=
  let fault := fun (t : Trap) (s : State) => .ok ((⟨0, true, true⟩, some t.code), s.noteFault k t)
  let read := fun (site : Site) (s : State) => match readNow s k (2 * k + 1) num site with
    | .error t => .error t
    | .ok (bs, t) =>
      let lost := match site with
        | .mem l => pathDown s (crewDie k) (byteDie (l.bytes.headD 0))
        | .win .. => false
      .ok ((⟨BitVec.ofNat 64 (bytesNum bs), true, bytesMark bs⟩, if lost then some Cause.darkpath else none), t)
  match x with
  | .off => .ok ((⟨0, false, false⟩, none), s)
  | .fault t => fault t s
  | .at l => read (.mem l) s
  | .win w off n => match windowAccess s k w off n with
    | (.ok _, s) => read (.win w off n) s
    | (.fault t, s) => fault t s
    | (.wait, s) => .error s
  | .ask ga _ => match checkAccess s k .read ga n with
    | (.ok site, s) => read site s
    | (.fault t, s) => fault t s
    | (.wait, s) => .error s

def fetchElems (k num n : Nat) : List Spot → State → Except State (List (Elem × Option Nat) × State)
  | [], s => .ok ([], s)
  | x :: r, s => match fetchElem k num n x s with
    | .error t => .error t
    | .ok (e, s) => match fetchElems k num n r s with
      | .error t => .error t
      | .ok (l, s) => .ok (e :: l, s)

/-- Places that an access reads for its next element group: of elements, or of the bytes of blocks. -/
def LoadJob.nextSpots (j : LoadJob) : List Spot :=
  let need := j.tok.gsz - j.todo.length
  match j.block with
  | none => j.spots.take need
  | some (_, m) => j.spots.take ((need + 31) / 32 * (blockBytes m + 1))

/-- The elements that these reads deliver, at most n of them. -/
def LoadJob.made (j : LoadJob) (got : List (Elem × Option Nat)) : List Elem :=
  match j.block with
  | none => got.map (·.1)
  | some (bf, m) =>
    let bytes := got.map (fun e => ((⟨e.1.v.setWidth 8, e.1.p⟩ : VByte), e.2.isSome))
    let blocks := j.spots.length / (blockBytes m + 1)
    ((chunks (blockBytes m + 1) bytes.length bytes).flatMap (blockElems (blockFmt bf) m 32)).take
      (j.tok.n - 32 * ((j.tok.n + 31) / 32 - blocks))

/-- The access reads what its next element group needs (R321): its failure so far is that of the first element that faulted or was
read poisoned (R243). -/
def fetchGroup (k : Nat) (j : LoadJob) (s : State) : Except State (LoadJob × State) :=
  match fetchElems k j.num (if j.block.isSome then 1 else 2 ^ j.tok.wc) j.nextSpots s with
  | .error t => .error t
  | .ok (got, s) => .ok ({ j with
      todo := j.todo ++ j.made got, spots := j.spots.drop got.length,
      fail := j.fail <|> got.findSome? (fun e => e.2 <|> if e.1.p then some Cause.ue else none) }, s)

/-- Push the next element group of access i of crew k, if its queue's turn has come and the slip limit and the queue share allow: its
slots are reserved, then its elements are read, or those in hand are taken (R17, R231, R321). The access of a crew that has been ended
runs on, but what it would push is discarded (R409). -/
def loadTokenPushEv (k i : Nat) (s : State) : Option State :=
  let c := s.crew k
  match c.loads[i]? with
  | none => none
  | some j =>
    if !j.pushes || (c.loads.take i).any (fun l => l.pushes && l.q == j.q) then none
    else if j.tok.marker then
      some (s.setCrew k { c.setLq j.q (c.lqAt j.q ++ [j.tok]) with loads := c.loads.eraseIdx i })
    else if j.store.isSome && decide (j.todo.length < j.tok.gsz) then none
    else if c.state ≠ 6 ∧ (c.lqSlots + j.tok.spg > c.slip ∨ c.lqSlots + c.sqSlots + j.tok.spg > 8 * (s.core (crewCore k)).q) then none
    else match fetchGroup k j s with
      | .error t => s.held t
      | .ok (j, s) =>
        let c := s.crew k
        let es := j.todo.take j.tok.gsz
        let rest := j.todo.drop j.tok.gsz
        let q := if j.begun then (match (c.lqAt j.q).reverse with
            | t :: r => (({ t with elems := t.elems ++ es }) :: r).reverse
            | [] => [{ j.tok with elems := es }])
          else c.lqAt j.q ++ [{ j.tok with elems := es }]
        let c := if c.state = 6 then c else c.setLq j.q q
        if rest.isEmpty && j.spots.isEmpty && j.store.isNone then
          some ((s.setCrew k { c with loads := c.loads.eraseIdx i }).memberDone? j.member j.fail)
        else some (s.setCrew k { c with loads := c.loads.set i { j with todo := rest, begun := true } })

/-- R231, R240, R322. -/
def execLoadTokenPush (k : Nat) (i : Nat) (s : State) : Out := .next ((loadTokenPushEv k i s).getD s)

/-- The first access of crew k of these operations that can perform elements does. -/
def firstStore (k : Nat) (of : StoreOp → Bool) (s : State) : Option State :=
  (List.range (s.crew k).loads.length).findSome? (fun i =>
    match ((s.crew k).loads[i]?).bind (fun (j : LoadJob) => j.store) with
    | some p => if of p.op then storeStepEv k i s else none
    | none => none)

/-- The vector atomics and their returning part. -/
def StoreOp.returns : StoreOp → Bool
  | .amo _ => true
  | _ => false

/-- The instructions whose elements a step of the crew's memory side performs. -/
def storeMeaning : Instr → Option (State → Out)
  | .vsq f => some (execVsq f)
  | .vsqs f => some (execVsqs f)
  | .vsqx f => some (execVsqx f)
  | .vsqi f => some (execVsqi f)
  | .vsqb f => some (execVsqb f)
  | .vred f => some (execVred f)
  | _ => none

def atomicMeaning : Instr → Option (State → Out)
  | .amo f => some (execAmo f)
  | .amocas f => some (execAmocas f)
  | .vamo f => some (execVamo f)
  | _ => none

/-- R241: elements of a store or vred that has issued are performed; else one that waits looks for its token again. -/
def execVectorStorePerform (k : Nat) (s : State) : Out :=
  match firstStore k (fun o => !o.returns) s with
  | some s => .next s
  | none => retry k false storeMeaning s

/-- R259: elements of a vamo that has issued are performed; else an atomic that waits is tried again. -/
def execAtomicPerform (k : Nat) (s : State) : Out :=
  match firstStore k StoreOp.returns s with
  | some s => .next s
  | none => retry k false atomicMeaning s

/-! ### Remote requests at their homes (R279, R280) -/

/-- What a request does to its bytes. -/
def ReqOp.acc : ReqOp → Acc
  | .read .. => .read
  | .write .. => .write
  | .check _ => .red
  | .rmw .. => .rmw
def ReqOp.size : ReqOp → Nat
  | .read n _ | .check n | .write n _ | .rmw _ _ n _ _ => n

/-- A load that has been checked is read at its home, once its order and the home allow (R201, R236). -/
def performRead (k i : Nat) (j : ReadJob) (s : State) : Option State :=
  if !s.letsAt k j.num j.kind j.bytes then s.await (2 * k + 1) j.bytes
  else match crewRead (s.leave (2 * k) j.bytes) k j.bytes with
    | (bs, s) => some (s.modCrew k (fun c => { c with
        reads := c.reads.set i { j with value := some ⟨BitVec.ofNat 64 (bytesNum bs), bytesMark bs⟩ } }))

/-- Perform a request of crew k at its home, once the home has located it. A load that lets later instructions issue, a write but for
an .sc element, and a reduction are only checked there: they are performed later, in their order (R207, R236, R263). An .sc
element is performed at its ticket (R213). While its order or the home makes it wait, it waits in the order of arrival (R273). -/
def performReq (k : Nat) (q : Req) (l : Located) (s : State) : Option State :=
  let kd := if q.ga.toNat / 2 ^ 60 = 0 then some (l.entry q.dst (s.crew k).ctx (q.ga.toNat % 2 ^ 51)) else none
  let reply := fun (r : Scalar) (bytes : List Nat) (s : State) => s.setPhase k q (.replied r none kd bytes)
  let now := fun (go : State → Option State) =>
    if s.lets k l.kind l.bytes then
      go ((if q.sc then s.ticket (crewChip k) else s).leave (2 * k) l.bytes)
    else s.await (2 * k + 1) l.bytes
  match q.op with
  | .check _ | .read _ true => some (reply {} l.bytes s)
  | .read _ false => now (fun s => match crewRead s k l.bytes with
      | (bs, s) => some (reply ⟨BitVec.ofNat 64 (bytesNum bs), bytesMark bs⟩ [] s))
  | .write _ v =>
    if !q.sc then some (reply v l.bytes s)
    else now (fun s => (drainOver s k l.bytes).map (fun s => reply {} [] (s.perform (storeCells l.bytes v))))
  | .rmw cas aop _ x new =>
    now (fun s => (drainOver s k l.bytes).map (fun s => match rmwAt s l.bytes cas aop ⟨x, false⟩ ⟨new, false⟩ with
      | (v, s) => reply v [] s))

/-- The first scalar load of crew k that can be performed now is. -/
def firstRead (k : Nat) (s : State) : Option State :=
  (List.range (s.crew k).reads.length).findSome? (fun i => match (s.crew k).reads[i]? with
    | some j => if j.value.isNone then performRead k i j s else none
    | none => none)

/-- A home performs what crew k has sent it: a load that has been checked, or the request that has arrived (R236, R280). -/
def homeAccessPerformEv (k : Nat) (s : State) : Option State :=
  let c := s.crew k
  firstRead k s <|> match c.req with
    | none => none
    | some q => if q.phase ≠ .arrived then none else
      let refuse := fun (t : Trap) (s : State) => s.setPhase k q (.replied {} (some t) none [])
      match crewCheck s k q.op.acc.writes q.ga.toNat q.op.size with
      | .error r => some (refuse { code := Cause.addrflt, reason := r, tval := q.ga } s)
      | .ok pl => match locate s (some (crewCore k)) c.ctx q.op.acc q.op.size pl with
        | (.error r, s) => some (refuse (r.trap q.ga.toNat) s)
        | (.wait, t) => s.held t
        | (.ok l, s) => performReq k q l s

/-- Bytes of payload that answer a request. -/
def ReqOp.answer : ReqOp → Nat
  | .read n early => if early then 0 else n
  | .rmw _ _ n _ _ => n
  | _ => 0

/-- The reply returns over the reverse path, and the issuer's core keeps the kind of the page (R206, R282). -/
def replyReturn (k : Nat) (q : Req) (s : State) : Option State :=
  match q.phase with
  | .replied r t kd bytes =>
    if pathDown s q.src q.dst then none
    else (s.pass q.dst q.src q.op.answer).map (fun s =>
      (match kd with
        | some e => s.keepKind (crewCore k) e
        | none => s).setPhase k q (.returned r t kd bytes))
  | _ => none

/-- The data of a load returns, or the reply to the request (R206, R236, R279). -/
def accessReplyReturnEv (k : Nat) (s : State) : Option State :=
  let c := s.crew k
  match c.reads.findIdx? (fun j => j.value.isSome && !pathDown s (crewDie k) j.die), c.req with
  | some i, _ => (c.reads[i]?).bind (fun j => (s.pass j.die (crewDie k) j.bytes.length).map (fun s => s.deliver k i j (j.value.getD {})))
  | none, some q => replyReturn k q s
  | none, none => none

/-- R206, R279. -/
def execAccessReplyReturn (i : Nat) (s : State) : Out := .next ((accessReplyReturnEv i s).getD s)

/-! ### mcas (R269 to R276) -/

namespace Status
def success : Nat := 0
def mismatch : Nat := 1
def ue : Nat := 2
def fault : Nat := 3
def dup : Nat := 4
def kind : Nat := 5
def dark : Nat := 6
end Status

/-- The home slice of an HBM address (R24). -/
def gaSlice (ga : Nat) : Nat := if bitsOf ga 44 7 = 0x40 then ga / 256 % 64 / 2 else bitsOf ga 44 7 / 2

/-- The home key of an address (R271). -/
def homeKey (k ga : Nat) : Nat :=
  128 * gaDie (crewDie k) ga + (if ga / 2 ^ 60 = 0 then gaSlice ga else 32 + gaCore ga)

/-- The home key of a physical word. -/
def wordKey (w : Nat) : Nat :=
  128 * byteDie (8 * w) + (if 8 * w < 2 ^ 45 then byteSlice (8 * w) else 32 + (8 * w - 2 ^ 45) / 2 ^ 20 % 64)

/-- Fields of a slate (R269), from its bytes. -/
def slateNum (bs : List VByte) (lo n : Nat) : Nat := leNat (((bs.drop lo).take n).map (·.b))

def slateEntry (k : Nat) (bs : List VByte) (e : Nat) : McasEntry :=
  let o := 32 + 32 * e
  let wide := bitOf (slateNum bs (o + 24) 4) 0
  let cut := fun (v : Nat) => BitVec.ofNat 64 (if wide then v else v % 2 ^ 32)
  let addr := slateNum bs o 8
  { addr := BitVec.ofNat 64 addr, expect := cut (slateNum bs (o + 8) 8), new := cut (slateNum bs (o + 16) 8), wide := wide,
    key := homeKey k addr }

/-- A reserved bit of the header or of an entry is set, or n is out of range (R270). -/
def slateBad (bs : List VByte) (n : Nat) : Bool :=
  decide (n < 2) || decide (n > 8) || slateNum bs 0 4 / 16 % 16 != 0 || slateNum bs 0 4 / 512 != 0
    || bitsOf (slateNum bs 4 4) 12 4 != 0 || bitsOf (slateNum bs 4 4) 28 4 != 0
    || slateNum bs 8 24 != 0
    || (List.range n).any (fun e => slateNum bs (32 + 32 * e + 24) 4 / 2 != 0 || slateNum bs (32 + 32 * e + 28) 4 / 4 != 0)

def McasEntry.size (e : McasEntry) : Nat := if e.wide then 8 else 4

/-- The issuer's checks of entry e (R271): status, cause, reason. -/
def issuerEntry (s : State) (k : Nat) (before : List McasEntry) (e : McasEntry) : Option (Nat × Nat × Nat) :=
  let ga := e.addr.toNat
  match crewCheck s k true ga e.size with
  | .error r => some (Status.fault, Cause.addrflt, r)
  | .ok _ =>
    if ga % e.size ≠ 0 then some (Status.fault, Cause.align, 0)
    else if before.any (fun b => resolveSelf (crewDie k) b.addr.toNat / 8 == resolveSelf (crewDie k) ga / 8) then
      some (Status.dup, 0, 0)
    else none

/-- The first entry that fails the issuer's checks. -/
def issuerFail (s : State) (k : Nat) : List McasEntry → List McasEntry → Option (Nat × Nat × Nat × Nat)
  | _, [] => none
  | before, e :: r =>
    match issuerEntry s k before e with
    | some x => some (before.length, x)
    | none => issuerFail s k (before ++ [e]) r

/-- Insertion into a rising list without repeats. -/
def insertKey (n : Nat) : List Nat → List Nat
  | [] => [n]
  | m :: r => if n < m then n :: m :: r else if n = m then m :: r else m :: insertKey n r

/-- The mcas that a slate asks for.
DEDUCED, log entry 28. -/
def startMcas (s : State) (k slate d : Nat) (bs : List VByte) : Mcas :=
  let n := slateNum bs 0 4 % 16
  let es := (List.range n).map (slateEntry k bs)
  let m : Mcas := { slate := slate, d := d, dry := bitOf (slateNum bs 0 4) 8, entries := es,
                    todo := es.foldl (fun l e => insertKey e.key l) [], locked := [], phase := .locking }
  match issuerFail s k [] es with
  | none => m
  | some (e, st, c, r) => { m with todo := [], phase := .deciding, status := some st, bad := e, fcause := c, freason := r }

/-- The slate after the mcas (R271, R272): its bytes by offset. -/
def slateResult (m : Mcas) : List (Nat × VByte) :=
  let num := fun (o n v : Nat) (p : Bool) => ((List.range n).zip (leBytes n v)).map (fun e => (o + e.1, (⟨e.2, p⟩ : VByte)))
  let one := fun (x : Nat × McasEntry) =>
    let o := 32 + 32 * x.1
    (if x.2.read then num (o + 8) 8 x.2.obs.toNat x.2.obsP else [])
      ++ num (o + 28) 4 (flag (x.2.read && (x.2.obs != x.2.expect)) + 2 * flag x.2.wr) false
  let st := m.status.getD 0
  let entry := if st = Status.success ∨ st = Status.mismatch then 0 else m.bad
  ((List.range m.entries.length).zip m.entries).flatMap one
    ++ num 4 4 (st + entry * 2 ^ 8 + flag m.torn * 2 ^ 11 + m.fcause * 2 ^ 16 + m.freason * 2 ^ 24) false

/-- The slate is written and d receives the status (R271). -/
def finishMcas (m : Mcas) (s : State) : Out :=
  let cells := (slateResult m).map (fun e => (m.slate + e.1, e.2))
  done (((s.modMe (fun c => { c with mcas := none })).perform cells).setR m.d (BitVec.ofNat 64 (m.status.getD 0)) 0)

/-- mcas (R270, R271): it starts, and waits for its steps. -/
def execMcas (f : T32e) (s : State) : Out :=
  let i := Instr.mcas f
  inA s (match s.myCrew.mcas with
    | some m =>
      if m.phase = .finishing && s.clear ((slateResult m).map (fun e => m.slate + e.1)) then finishMcas m s else waitAt i s
    | none => use1 i f.a.toNat [f.d.toNat] s (fun a =>
      let ga := a.toNat
      if !ownScratchpad s.me ga then raise { code := Cause.waddr, tval := a } s
      else match ownCheck s s.me true ga 32 with
        | .error r => raise { code := Cause.addrflt, reason := r, tval := a } s
        | .ok _ =>
          let head := (List.range 32).map (fun j => spadByte s.myCore (ga % 2 ^ 20 + j))
          if !s.lets s.me 0 head then waitAt i (s.queueUp (2 * s.me) head)
          else match crewRead s s.me head with
          | (hd, _) =>
            let n := slateNum hd 0 4 % 16
            let size := if n < 2 ∨ n > 8 then 32 else 32 + 32 * n
            match ownCheck s s.me true ga size with
            | .error r => raise { code := Cause.addrflt, reason := r, tval := a } s
            | .ok _ =>
              if ga % 64 ≠ 0 then raise { code := Cause.align, tval := a } s
              else
                let ps := (List.range size).map (fun j => spadByte s.myCore (ga % 2 ^ 20 + j))
                if !s.lets s.me 0 ps then waitAt i (s.queueUp (2 * s.me) ps)
                else match crewRead (s.leave (2 * s.me) ps) s.me ps with
                  | (bs, s') =>
                    if bs.any (·.p) then raise { code := Cause.poison } s'
                    else if slateBad bs n then raise { code := Cause.mslate, tval := a } s'
                    else match settle s' s.me with
                      | none => waitAt i s
                      | some s' => waitAt i (s'.modMe (fun c =>
                          { c with mcas := some (startMcas s' s.me (spadByte s.myCore (ga % 2 ^ 20)) f.d.toNat bs) }))))

def State.setMcas (s : State) (k : Nat) (m : Mcas) : State := s.modCrew k (fun c => { c with mcas := some m })

/-- An mcas that fails: entry e sets the status (R272). -/
def Mcas.failAt (m : Mcas) (e st cause reason : Nat) : Mcas :=
  { m with status := some st, bad := e, fcause := cause, freason := reason, todo := [], phase := .deciding }

/-- Home h is lost to an mcas, across a path that is dark at one of its ends (R274): before the decision the mcas fails there;
once a commit is decided it is torn. The status names the first failure (R272). -/
def Mcas.lose (m : Mcas) (h : Nat) : Mcas :=
  let e := (m.entries.findIdx? (fun (e : McasEntry) => e.key == h)).getD 0
  let rest := m.locked.erase h
  match m.phase with
  | .locking | .deciding => { (if m.status.isNone then m.failAt e Status.dark 0 0 else m) with locked := rest }
  | _ =>
    let first := m.commit && m.status == some Status.success
    { m with
      locked := rest, phase := if rest.isEmpty then .finishing else .unlocking,
      status := if first then some Status.dark else m.status, bad := if first then e else m.bad, torn := m.torn || m.commit }

/-- A home is unreachable: one end of its path has marked it dark (R284). -/
def cutOff (s : State) (k h : Nat) : Bool := pathDown s (crewDie k) (h / 128) || pathDown s (h / 128) (crewDie k)

/-- Translate and check the entries of one home in slate order (R271): each entry's number and bytes, or the failure; none while
a walk must be waited for. -/
def homeCheck (s : State) (k : Nat) (dry : Bool) (all : List McasEntry) :
    List (Nat × McasEntry) → Option (Except (Nat × Nat × Nat × Nat) (List (Nat × List Nat))) × State
  | [] => (some (.ok []), s)
  | (i, e) :: r =>
    match crewCheck s k true e.addr.toNat e.size with
    | .error c => (some (.error (i, Status.fault, Cause.addrflt, c)), s)
    | .ok pl => match locate s (some (crewCore k)) (s.crew k).ctx (if dry then .read else .rmw) e.size pl with
      | (.error c, s) => (some (.error (i, Status.fault, c.code, c.reason)), s)
      | (.wait, s) => (none, s)
      | (.ok l, s) =>
        let d := pl.die (crewDie k)
        let s := if d ≠ crewDie k ∧ e.addr.toNat / 2 ^ 60 = 0 then
            s.keepKind (crewCore k) (l.entry d (s.crew k).ctx (e.addr.toNat % 2 ^ 51)) else s
        if l.kind = 2 then (some (.error (i, Status.kind, 0, 0)), s)
        else
          let w := l.bytes.headD 0 / 8
          if all.any (fun x => x.phys == w + 1) then (some (.error (i, Status.dup, 0, 0)), s)
          else match homeCheck s k dry (all ++ [{ e with phys := w + 1 }]) r with
            | (some (.ok bs), s) => (some (.ok ((i, l.bytes) :: bs)), s)
            | x => x

/-- Read the entries of a home: their observed values, and the first that is uncorrectable. -/
def homeRead (m : Mcas) : List (Nat × List Nat) → State → Mcas × Option Nat × State
  | [], s => (m, none, s)
  | (i, ps) :: r, s =>
    match s.readBytes ps with
    | (bs, s) =>
      let e := m.entries.getD i ⟨0, 0, 0, false, 0, 0, 0, false, false, false⟩
      let e' := { e with obs := BitVec.ofNat 64 (bytesNum bs), obsP := bytesMark bs, read := true, phys := ps.headD 0 / 8 + 1 }
      match homeRead { m with entries := m.entries.set i e' } r
          (if bytesMark bs then s.logReadHalf (ps.headD 0) 11 ps.length 0 else s) with
      | (m, u, s) => (m, if bytesMark bs then some i else u, s)

/-- Lock or release 4-byte units for a crew (R273): zero is free. -/
def State.lockWords (s : State) (ws : List Nat) (v : Nat) : State :=
  { s with locks := ws.foldl (fun l w => put 0 l w v) s.locks }

/-- The next home checks, locks and reads its entries (R271). While a word of its lines is held, or other requests stand before it, its
request waits there in the order of arrival (R273); while the versions differ it is not sent.
DEDUCED, log entry 24. DEDUCED, log entry 75. -/
def mcasHomeLockEv (k : Nat) (s : State) : Option State :=
  match (s.crew k).mcas with
  | none => none
  | some m => match m.phase, m.todo with
    | .locking, h :: rest =>
      let d := h / 128
      let own := ((List.range m.entries.length).zip m.entries).filter (fun e => e.2.key == h)
      let first := (own.head?.map (·.1)).getD 0
      if cutOff s k h then some ((s.leaveAll (2 * k)).setMcas k (m.failAt first Status.dark 0 0))
      else if !linkOpen s (crewDie k) d then none
      else match homeCheck s k m.dry m.entries own with
        | (none, t) => s.held t
        | (some (.error (e, st, c, r)), s) => some ((s.leaveAll (2 * k)).setMcas k (m.failAt e st c r))
        | (some (.ok bs), s) =>
          if !bs.all (fun b => s.admits k b.2) then s.held (s.queueAll (2 * k) (bs.flatMap (·.2)))
          else ((s.leaveAll (2 * k)).exchange (crewDie k) d (16 * own.length) (8 * own.length)).map (fun s =>
            let s := bs.foldl (fun s b => s.dropCopies b.2) s
            match homeRead m bs s with
            | (m, some e, s) => s.setMcas k (m.failAt e Status.ue 0 0)
            | (m, none, s) =>
              (s.lockWords (bs.flatMap (fun b => b.2.map (· / 4))) (k + 1)).setMcas k
                { m with todo := rest, locked := m.locked ++ [h], phase := if rest.isEmpty then .deciding else .locking })
    | _, _ => none

/-- R271. -/
def execMcasHomeLock (k : Nat) (s : State) : Out := .next ((mcasHomeLockEv k s).getD s)

/-- The status and the commit are decided (R271, R274). -/
def mcasDecisionEv (k : Nat) (s : State) : Option State :=
  match (s.crew k).mcas with
  | none => none
  | some m =>
    if m.phase ≠ .deciding then none
    else
      let unreachable := m.locked.find? (fun h => cutOff s k h)
      let m := match m.status, unreachable with
        | none, some h => m.failAt ((m.entries.findIdx? (fun (e : McasEntry) => e.key == h)).getD 0) Status.dark 0 0
        | none, none =>
          let st := if m.entries.all (fun (e : McasEntry) => e.obs == e.expect) then Status.success else Status.mismatch
          { m with status := some st, commit := st == Status.success && !m.dry }
        | some _, _ => m
      some (s.setMcas k { m with phase := if m.locked.isEmpty then .finishing else .unlocking })

/-- R271. -/
def execMcasDecision (k : Nat) (s : State) : Out := .next ((mcasDecisionEv k s).getD s)

/-- The 4-byte units that crew k holds at a home. -/
def heldWords (s : State) (k h : Nat) : List Nat :=
  (s.locks.filter (fun e => e.2 == k + 1 && wordKey (e.1 / 2) == h)).map (·.1)

/-- Write the new values of a home's entries. -/
def writeNew (h : Nat) (es : List McasEntry) (s : State) : State :=
  es.foldl (fun s (e : McasEntry) => if e.key = h then
    s.perform (storeCells ((List.range e.size).map (fun i => 8 * (e.phys - 1) + e.addr.toNat % 8 + i)) ⟨e.new, false⟩) else s) s

/-- The next locked home writes if committed, and unlocks; one that cannot be reached is given up (R271, R274). What waited for its
locks goes on (R273). -/
def mcasHomeUnlockEv (k : Nat) (s : State) : Option State :=
  match (s.crew k).mcas with
  | none => none
  | some m => match m.phase, m.locked with
    | .unlocking, h :: rest =>
      if cutOff s k h then some (s.setMcas k (m.lose h))
      else (s.exchange (crewDie k) (h / 128) (8 * m.entries.length) 0).map (fun s =>
        let s' := if m.commit then writeNew h m.entries s else s
        let es := m.entries.map (fun (e : McasEntry) => if e.key = h ∧ m.commit then { e with wr := true } else e)
        ((s'.lockWords (heldWords s k h) 0).flush (h / 128)).setMcas k
          { m with entries := es, locked := rest, phase := if rest.isEmpty then .finishing else .unlocking })
    | _, _ => none

/-- R271. -/
def execMcasHomeUnlock (k : Nat) (s : State) : Out := .next ((mcasHomeUnlockEv k s).getD s)

/-- R271: the issuer has every acknowledgement and completes the instruction. -/
def execMcasFinish (k : Nat) (s : State) : Out :=
  match (s.crew k).mcas with
  | none => .next s
  | some m => if m.phase = .finishing then
      retry k false (fun i => match i with
        | .mcas f => some (execMcas f)
        | _ => none) s
    else .next s

/-- A home whose own end has marked its path to the issuer dark releases the locks that it holds for crew k, unchanged, and logs it;
the mcas has lost the home (R274). -/
def mcasDarkReleaseEv (k : Nat) (s : State) : Option State :=
  let ws := (s.locks.filter (fun e => e.2 == k + 1 && pathDown s (byteDie (4 * e.1)) (crewDie k))).map (·.1)
  match ws with
  | [] => none
  | w :: _ =>
    let h := wordKey (w / 2)
    let mine := ws.filter (fun x => wordKey (x / 2) == h)
    let s := (s.lockWords mine 0).flush (h / 128)
    let s := match (s.crew k).mcas with
      | some m => if m.locked.contains h then s.setMcas k (m.lose h) else s
      | none => s
    some (s.logError (byteDie (4 * w)) 4 (byteArray (4 * w)) (mine.map (· / 2)).eraseDups.length (byteAddr (4 * w)) (crewDie k))

/-- R274. -/
def execMcasDarkRelease (k : Nat) (s : State) : Out := .next ((mcasDarkReleaseEv k s).getD s)

end Sys2Proof.Machine
end

