-- ==== Sys2Proof/Machine/Queues.lean ====
section
/-!
DEFINITION. vsetl and the storage classes (R96 to R107), the scalar queue instructions of both streams (R323 to R332),
and the lane partition (R335 to R339).
-/
namespace Sys2Proof.Machine

/-! ### Lane groups (R335 to R339) -/

def Share.has (x : Share) (j : Nat) : Bool := decide (x.b ≤ j) && decide (j < x.b + x.g)

/-- Share of a slot as set last (R337). -/
def State.shareOf (s : State) (k : Nat) : Share := get {} (s.core (crewCore k)).lpart (crewSlot k)

/-- The share that a length token names (R104). -/
def tokenShare (v : Word) : Share := ⟨wfield v 24 3, wfield v 27 4⟩

/-- Crew slot k holds lane group j (R335). -/
def holds (s : State) (k j : Nat) : Bool :=
  let c := s.crew k
  (s.shareOf k).has j || c.cq.any (fun e => e.isLen && (tokenShare e.v).has j) || c.viq.any (fun e => e.sh.has j)

/-- The busy field of sys.lpart (R336).
DEDUCED, log entry 80. -/
def laneBusy (s : State) (core : Nat) : Nat :=
  ((List.range 8).map (fun j => if (coreCrews core).any (fun k => holds s k j) then 2 ^ j else 0)).foldl (· + ·) 0

/-- Lane group j is free, or held only by crew k's own slot (R337). -/
def available (s : State) (k j : Nat) : Bool :=
  decide (j < 8) && (coreCrews (crewCore k)).all (fun x => x == k || !holds s x j)

/-- n groups from base b are available. -/
def rangeFree (s : State) (k b n : Nat) : Bool := decide (b + n ≤ 8) && (List.range n).all (fun i => available s k (b + i))

def State.setShare (s : State) (k : Nat) (x : Share) : State :=
  s.modCore (crewCore k) (fun c => { c with lpart := put {} c.lpart (crewSlot k) x })

/-- lpreq (R337). -/
def execLpreq (f : T32e) (s : State) : Out :=
  inA s (use1 (.lpreq f) f.a.toNat [f.d.toNat] s (fun a =>
    let n := a.toNat
    let b := (s.shareOf s.me).b
    let base := if n < 1 ∨ n > 8 then none
      else if rangeFree s s.me b n then some b else (List.range 8).find? (fun x => rangeFree s s.me x n)
    match base with
    | none => done (s.setR f.d.toNat 0 0)
    | some x => done ((s.setShare s.me ⟨x, n⟩).setR f.d.toNat a 0)))

/-- lprel (R338). -/
def execLprel (f : T32e) (s : State) : Out :=
  inA s (use1 (.lprel f) f.a.toNat [f.d.toNat] s (fun a =>
    let sh := s.shareOf s.me
    let n := a.toNat
    if 1 ≤ n ∧ n < sh.g then done ((s.setShare s.me ⟨sh.b, n⟩).setR f.d.toNat a 0)
    else done (s.setR f.d.toNat (BitVec.ofNat 64 sh.g) 0)))

/-! ### Storage classes (R101, R102) -/

/-- VLMAX (R99). -/
def vlmax (g cls wc grp : Nat) : Nat := min 16384 (256 * g * (1 + cls) / 2 ^ wc * 2 ^ grp)

/-- Key of byte b of a lane's part of a vector register. -/
def vkey (reg lane b : Nat) : Nat := (reg * 64 + lane) * 128 + b

/-- The lane groups of a range wake (R431). -/
def Core.wake (c : Core) (sh : Share) : Core :=
  { c with lgate := (List.range 8).foldl (fun m j => if sh.has j then m - flag (bitOf m j) * 2 ^ j else m) c.lgate }

/-- Zero bytes lo to hi - 1 of every register in the lanes that keep selects. -/
def zeroLanes (keep : Nat → Bool) (lo hi : Nat) (m : SMap VByte) : SMap VByte :=
  m.filter (fun e => !(keep (e.1 / 128 % 64) && decide (lo ≤ e.1 % 128) && decide (e.1 % 128 < hi)))

/-- The largest asked class of the resident crews. -/
def maxAsked (s : State) (core : Nat) : Nat :=
  ((coreCrews core).map (fun k => if (s.crew k).state = 0 then 0 else (s.crew k).asked)).foldl max 0

/-- The core class falls when every resident crew has asked for a lower one (R101). -/
def State.classFall (s : State) (core : Nat) : State :=
  let m := maxAsked s core
  if m < (s.core core).cls then s.modCore core (fun c => { c with cls := m, fall := true }) else s

/-- The raise of a core ends: the lines of the banks moved are invalid, their dirty words returned; the banks are zero, and the
class takes its new value (R101). The lines that stand in those banks are the last ones by address.
DESIGN CHOICE, log entry 96. -/
def classRaiseEv (core : Nat) (s : State) : Option State :=
  let c := s.core core
  match c.raise with
  | none => none
  | some k => some (s.setCore core { c with
      raise := none, cls := max c.cls k, fall := false, cache := c.cache.take c.cacheLines,
      vregs := zeroLanes (fun _ => true) (32 * (1 + c.cls)) (32 * (1 + k)) c.vregs })

/-- R101. -/
def execCoreClassRaiseComplete (core : Nat) (s : State) : Out := .next ((classRaiseEv core s).getD s)

def classFallEv (core : Nat) (s : State) : Option State :=
  if (s.core core).fall then some (s.modCore core (fun c => { c with fall := false })) else none

/-- R101. -/
def execCoreClassFallComplete (core : Nat) (s : State) : Out := .next ((classFallEv core s).getD s)

/-! ### vsetl (R100) -/

/-- The length token (R104). -/
def lengthToken (grant : Nat) (t : VType) (x : Share) : Word :=
  BitVec.ofNat 64 (grant + (t.wc + t.grp * 4 + t.cls * 16) * 2 ^ 16 + x.b * 2 ^ 24 + x.g * 2 ^ 27)

/-- The grant: the share is adopted, and the registers change content (R102). -/
def grantLength (d avl wc grp k : Nat) (s : State) : State :=
  let me := s.me
  let c := s.myCrew
  let x := s.shareOf me
  let h := if c.chain.bound then c.chain.hwm.toNat - c.chain.pos.toNat else 2 ^ 64 - 1
  let grant := min (min avl (vlmax x.g k wc grp)) h
  let old := c.pshare
  let k1 := c.a.vtype.cls
  let lanesOf := fun (sh : Share) (l : Nat) => sh.has (l / 8)
  let s := s.modCore s.myCore (fun n =>
    let v := zeroLanes (fun l => lanesOf x l && !lanesOf old l) 0 128 n.vregs
    { (if x ≠ old ∨ k1 < k then n.wake x else n) with vregs := if k1 < k then zeroLanes (lanesOf x) (32 * (1 + k1)) (32 * (1 + k)) v else v })
  let lo := vlmax x.g k1 wc grp
  let hi := vlmax x.g k wc grp
  let cut := fun (m : BitVec 16384) => if k1 < k then m &&& ~~~(BitVec.ofNat 16384 (2 ^ hi - 2 ^ lo)) else m
  let t : VType := ⟨wc, grp, k⟩
  (s.modMe (fun c => { c with
    masks := (c.masks.map (fun e => (e.1, cut e.2))).filter (fun e => e.2 != 0),
    chain := if c.chain.bound then { c.chain with pos := c.chain.pos + BitVec.ofNat 64 grant } else c.chain,
    pshare := x, alen := grant, step2 := false,
    a := { c.a with vl := grant, vtype := t, share := x },
    cq := c.cq ++ [⟨true, lengthToken grant t x⟩] })).setR d (BitVec.ofNat 64 grant) 0

/-- A crew in a lower slot of the core waits for a raise too: raises are served in crew-slot order (R101). -/
def raiseAhead (s : State) (k : Nat) : Bool :=
  (coreCrews (crewCore k)).any (fun j => decide (j < k) && (s.crew j).step2 && (s.crew j).a.run == .running
    && decide ((s.core (crewCore k)).cls < (s.crew j).asked))

/-- vsetl (R100): step 2 waits for a raise of the core class.
DEDUCED, log entry 79. -/
def execVsetl (f : T32e) (s : State) : Out :=
  let i := Instr.vsetl f
  inA s (use1 i f.a.toNat [f.d.toNat] s (fun a =>
    if s.myCrew.cq.length ≥ Config.cqSize then queueWait i 13 false s
    else
      let k := min (bitsOf f.imm.toNat 4 2) s.myCrew.cap
      let s := (s.modMe (fun c => { c with asked := k })).classFall s.myCore
      let n := s.core s.myCore
      if n.cls < k then
        let s := s.modMe (fun c => { c with step2 := true })
        waitAt i (if n.raise.isSome || raiseAhead s s.me then s else s.modCore s.myCore (fun n => { n with raise := some k }))
      else done (grantLength f.d.toNat a.toNat (bitsOf f.imm.toNat 0 2) (bitsOf f.imm.toNat 2 2) k s)))

/-- R100, R103. -/
def execVsetlGrant (k : Nat) (s : State) : Out :=
  retry k false (fun i => match i with
    | .vsetl f => some (execVsetl f)
    | _ => none) s

/-! ### Scalar queue instructions -/

/-- cqpush (R325). -/
def execCqpush (f : T32e) (s : State) : Out :=
  inA s (use1 (.cqpush f) f.a.toNat [] s (fun a =>
    if s.myCrew.cq.length ≥ Config.cqSize then queueWait (.cqpush f) 13 false s
    else done (s.modMe (fun c => { c with cq := c.cq ++ [⟨false, a⟩] }))))

/-- bqb (R332). -/
def execBqb (f : T32e) (s : State) : Out :=
  inA s (useRegs (.bqb f) [] [f.d.toNat] s (fun _ =>
    match s.myCrew.bq with
    | [] => queueWait (.bqb f) 14 true s
    | v :: r => done ((s.modMe (fun c => { c with bq := r })).setR f.d.toNat v 0)))

/-- λ for an operand of qslip (R323). -/
def slipOf (q n : Nat) : Nat := if n = 0 then 8 * q - 16 else min (max n 16) (8 * q - 16)

/-- qslip (R323). -/
def execQslip (f : T32e) (s : State) : Out :=
  inA s (done (s.modMe (fun c => { c with slip := slipOf (s.core s.myCore).q f.imm.toNat })))

/-- A queue selected by qdrain still holds something, or a load will push into it (R326). -/
def drainBusy (c : Crew) (mask : Nat) : Bool :=
  let m := if mask = 0 then 511 else mask
  (List.range 8).any (fun n => bitOf m n && (!(c.lqAt n).isEmpty || c.loads.any (fun l => l.pushes && l.q == n)))
    || (bitOf m 8 && !c.cq.isEmpty)

/-- qdrain (R326). -/
def execQdrain (f : T32e) (s : State) : Out :=
  inA s (if drainBusy s.myCrew f.imm.toNat then queueWait (.qdrain f) 13 false s else done s)

/-- The X-slice stops at a poison marker (R398, R399). -/
def markerStop (i : Instr) (s : State) : Out := .next (s.modSeqr (fun q => { q with run := .halted, wait := some i }))

/-- Adopt a length token with vl elements (R105, R106). -/
def adoptToken (v : Word) (vl : Nat) (s : State) : State :=
  s.modMe (fun c => { c with
    cq := c.cq.tail,
    x := { c.x with vl := vl, vtype := ⟨wfield v 16 2, wfield v 18 2, wfield v 20 2⟩, share := tokenShare v } })

/-- vtake (R105). -/
def execVtake (f : T32g) (s : State) : Out :=
  inX s (useRegs (.vtake f) [] [f.x.toNat] s (fun _ =>
    match s.myCrew.cq with
    | [] => queueWait (.vtake f) 13 true s
    | e :: _ =>
      if !e.isLen then raise { code := Cause.cqkind, queue := 13 } s
      else done ((adoptToken e.v (wfield e.v 0 15) s).setR f.x.toNat (BitVec.ofNat 64 (wfield e.v 0 15)) 0)))

/-- vtakeq (R106). -/
def execVtakeq (f : T32g) (s : State) : Out :=
  let i := Instr.vtakeq f
  let q := f.q.toNat
  inX s (useRegs i [] [f.x.toNat] s (fun _ =>
    match s.myCrew.cq, s.myCrew.lqAt q with
    | [], _ => queueWait i 13 true s
    | _, [] => queueWait i q true s
    | e :: _, t :: _ =>
      if !e.isLen then raise { code := Cause.cqkind, queue := 13 } s
      else if t.marker then markerStop i s
      else if t.n > wfield e.v 0 15 then
        raise { code := Cause.qlen, queue := q, cinfo := qlenInfo t (wfield e.v 0 15) (wfield e.v 16 2) } s
      else done ((adoptToken e.v t.n s).setR f.x.toNat (BitVec.ofNat 64 t.n) 0)))

/-- cqpop (R107). -/
def execCqpop (f : T32g) (s : State) : Out :=
  inX s (useRegs (.cqpop f) [] [f.x.toNat] s (fun _ =>
    match s.myCrew.cq with
    | [] => queueWait (.cqpop f) 13 true s
    | e :: r =>
      if e.isLen then raise { code := Cause.cqkind, queue := 13 } s
      else done ((s.modMe (fun c => { c with cq := r })).setR f.x.toNat e.v 0)))

end Sys2Proof.Machine
end

