-- ==== Sys2Proof/Machine/Sfu.lean ====
section
/-!
DEFINITION. The special functions (R87): the exact cases, and otherwise one of the results within the accuracy that the
rule states, picked by a constant without a body (log entry 7). The exact value is enclosed by integer arithmetic with
200 bits after the point.
-/
namespace Sys2Proof.Machine

/-- The seven functions (R144). -/
inductive SfuFn where
  | exp2 | log2 | rcp | rsq | tanh | sigm | erf
  deriving DecidableEq, Repr

/-- Number of a function, for the choice among its allowed results. -/
def SfuFn.code : SfuFn → Nat
  | .exp2 => 0
  | .log2 => 1
  | .rcp => 2
  | .rsq => 3
  | .tanh => 4
  | .sigm => 5
  | .erf => 6

/-- Accuracy in ulp (R87). -/
def SfuFn.ulps (fn : SfuFn) (f : Fmt) : Nat :=
  match fn, f with
  | .tanh, .fp32 | .sigm, .fp32 | .erf, .fp32 => 2
  | _, _ => 1

/-- An enclosure of a positive value: it is at least lo x 2^e and below hi x 2^e. -/
structure Encl where
  lo : Nat
  hi : Nat
  e  : Int
  deriving DecidableEq, Repr

/-- The point of fixed-point numbers. -/
def one200 : Nat := 2 ^ 200

/-- ln 2 and 2 / sqrt(pi), rounded down to 200 bits after the point. -/
def ln2Fix : Nat := 1113844574712631719546256151097547306333272293549090750737802
def erfFix : Nat := 1813235411955051368075975534027907639852476658415964181376627

/-- m x 2^e rounded down to 200 bits after the point. -/
def toFix (m : Nat) (e : Int) : Nat := if 0 ≤ e + 200 then m * 2 ^ (e + 200).toNat else m / 2 ^ (-(e + 200)).toNat

/-- Partial sums of the exponential series of t: term is the k-th term. -/
def expSum (t : Nat) : Nat → Nat → Nat → Nat
  | 0, _, _ => 0
  | n + 1, k, term => term + expSum t n (k + 1) (term * t / one200 / (k + 1))

/-- 2^f for f below 1, within 2^20 units of the last place. -/
def exp2Fix (f : Nat) : Nat := expSum (f * ln2Fix / one200) 64 0 one200

/-- 2^u for a fixed-point u of either sign: mantissa with 200 bits after the point, and exponent. -/
def exp2Of (u : Int) : Nat × Int := (exp2Fix (u % (one200 : Int)).toNat, u / (one200 : Int))

/-- An enclosure from a fixed-point value with slack units of error, times 2^k. -/
def around (v slack : Nat) (k : Int) : Encl := ⟨v - slack, v + slack, k - 200⟩

/-- The same, of a value below 1. -/
def around1 (v slack : Nat) : Encl := ⟨v - slack, min (v + slack) one200, -200⟩

/-- e^(-v) for a fixed-point v below 2^10, as exp2Of gives it. -/
def expNeg (v : Nat) : Nat × Int := exp2Of (-((v * one200 / ln2Fix : Nat) : Int))

/-- A fixed-point number shifted right by a negative exponent. -/
def shiftFix (p : Nat × Int) : Nat := p.1 / 2 ^ (-p.2).toNat

/-- Odd powers of z over their exponents: the series of the inverse hyperbolic tangent. -/
def atanhSum (z2 : Nat) : Nat → Nat → Nat → Nat
  | 0, _, _ => 0
  | n + 1, k, pow => pow / (2 * k + 1) + atanhSum z2 n (k + 1) (pow * z2 / one200)

/-- log2 of a fixed-point t from 1 to 2. -/
def log2Fix (t : Nat) : Nat :=
  let z := (t - one200) * one200 / (t + one200)
  2 * atanhSum (z * z / one200) 80 0 z * one200 / ln2Fix

/-- The alternating series of the error function, without its factor. -/
def erfSum (v2 : Nat) : Nat → Nat → Nat → Int
  | 0, _, _ => 0
  | n + 1, k, a =>
    (if k % 2 = 0 then ((a / (2 * k + 1) : Nat) : Int) else -((a / (2 * k + 1) : Nat) : Int))
      + erfSum v2 n (k + 1) (a * v2 / one200 / (k + 1))

/-- The magnitude of a function at m x 2^e of the given sign, m not 0, away from the cases that R87 lists; and its
sign. -/
def enclose (fn : SfuFn) (neg : Bool) (m : Nat) (e : Int) : Bool × Encl :=
  let lead := (m.log2 : Int) + e
  match fn with
  | .exp2 =>
    if lead ≥ 10 then (false, ⟨1, 2, -1000⟩)
    else
      let v : Int := toFix m e
      match exp2Of (if neg then -v else v) with
      | (mant, k) => (false, around mant (2 ^ 20) k)
  | .log2 =>
    let v : Int := lead * (one200 : Int) + log2Fix (m * 2 ^ (200 - m.log2))
    (decide (v < 0), around v.natAbs (2 ^ 20) 0)
  | .rcp => (neg, ⟨one200 / m, one200 / m + 1, -e - 200⟩)
  | .rsq =>
    let k : Nat := if e % 2 = 0 then 300 else 301
    let r := isqrt (2 ^ k / m) 152 0
    (false, ⟨r, r + 1, -((k + e) / 2)⟩)
  | .tanh =>
    if lead < -30 then (neg, ⟨m * (2 ^ 60 - 1), m * 2 ^ 60, e - 60⟩)
    else if lead ≥ 7 then (neg, ⟨one200 - 1, one200, -200⟩)
    else
      let t := shiftFix (expNeg (2 * toFix m e))
      (neg, around1 ((one200 - t) * one200 / (one200 + t)) (2 ^ 30))
  | .sigm =>
    if lead ≥ 10 then (false, if neg then ⟨1, 2, -1000⟩ else ⟨one200 - 1, one200, -200⟩)
    else
      let p := expNeg (toFix m e)
      let d := one200 + shiftFix p
      if neg then (false, around (p.1 * one200 / d) (2 ^ 30) p.2) else (false, around1 (one200 * one200 / d) (2 ^ 30))
  | .erf =>
    if lead < -30 then (neg, ⟨m * erfFix * (2 ^ 60 - 1), m * (erfFix + 1) * 2 ^ 60, e - 260⟩)
    else if decide (lead ≥ 3) || decide (toFix m e ≥ 7 * one200) then (neg, ⟨one200 - 2 ^ 140, one200, -200⟩)
    else
      let v := toFix m e
      (neg, around1 ((erfSum (v * v / one200) 240 0 v).toNat * erfFix / one200) (2 ^ 100))

/-- Magnitude of m x 2^e as an encoding, rounded down or up. -/
def magPattern (f : Fmt) (up : Bool) (m : Nat) (e : Int) : Nat :=
  if m = 0 then 0
  else
    let p1 : Int := ((f.prec - 1 : Nat) : Int)
    let q := max ((m.log2 : Int) + e) (-126) - p1
    (q + p1 + 126).toNat * 2 ^ (f.prec - 1) + (roundAt (if up then 3 else 1) false m e false q).1

/-- The least and the greatest magnitude within n ulp of an enclosed value, which lies below the upper end (R87): finite. -/
def allowedMags (f : Fmt) (n : Nat) (x : Encl) : Nat × Nat :=
  let ue := max (((x.hi - 1).log2 : Int) + x.e) (-126) - ((f.prec - 1 : Nat) : Int)
  let ee := min x.e ue
  let lo := x.lo * 2 ^ (x.e - ee).toNat
  let hi := x.hi * 2 ^ (x.e - ee).toNat
  let b := n * 2 ^ (ue - ee).toNat
  (min (magPattern f true (lo - b) ee) (f.infMag - 1), min (magPattern f false (hi + b - 1) ee) (f.infMag - 1))

/-- One of the allowed results (R87), chosen by the constant without a body. A result below the normal numbers raises underflow, a
zero too.
DESIGN CHOICE, log entry 7. -/
def pickResult (fn : SfuFn) (f : Fmt) (a : Nat) (neg : Bool) (x : Encl) : FRes :=
  if (f.decode (f.round RNE false x.lo x.e true).bits).isInf then ⟨f.infinity neg, true⟩
  else
    let (lo, hi) := allowedMags f (fn.ulps f) x
    let mag := lo + Config.sfuChoice fn.code (f == .fp32) a % (hi - lo + 1)
    ⟨f.signed neg mag, decide (mag < 2 ^ (f.prec - 1))⟩

/-- A power of two: its exponent. -/
def powerOfTwo (m : Nat) (e : Int) : Option Int := if m = 2 ^ m.log2 then some ((m.log2 : Int) + e) else none

/-- An integer value. -/
def integerValue (neg : Bool) (m : Nat) (e : Int) : Option Int :=
  let s : Int := if neg then -1 else 1
  if 0 ≤ e then (if e ≤ 200 then some (s * ((m * 2 ^ e.toNat : Nat) : Int)) else none)
  else if decide (e ≥ -200) && m % 2 ^ (-e).toNat == 0 then some (s * ((m / 2 ^ (-e).toNat : Nat) : Int)) else none

/-- 2^k where the format represents it. -/
def exactPower (f : Fmt) (k : Int) : Option Nat :=
  if k ≤ 127 ∧ k ≥ -126 - ((f.prec - 1 : Nat) : Int) then some (f.round RNE false 1 k).bits else none

/-- The result at a finite operand other than zero (R87): exact where the table marks the case. -/
def sfuFinite (fn : SfuFn) (f : Fmt) (a : Nat) (neg : Bool) (m : Nat) (e : Int) : FRes :=
  let general := match enclose fn neg m e with
    | (sg, x) => pickResult fn f a sg x
  match fn with
  | .exp2 =>
    if !neg && decide ((m.log2 : Int) + e ≥ 7) then ⟨f.infinity false, true⟩
    else match (integerValue neg m e).bind (exactPower f) with
      | some r => ⟨r, false⟩
      | none => general
  | .log2 => if neg then ⟨f.qnan, true⟩ else if powerOfTwo m e = some 0 then ⟨f.zero false, false⟩ else general
  | .rcp => match (powerOfTwo m e).bind (fun k => exactPower f (-k)) with
    | some r => ⟨r + f.zero neg, false⟩
    | none => general
  | .rsq =>
    if neg then ⟨f.qnan, true⟩
    else match (powerOfTwo m e).bind (fun k => if k % 2 = 0 then exactPower f (-(k / 2)) else none) with
      | some r => ⟨r, false⟩
      | none => general
  | .tanh | .sigm | .erf => general

/-- A special function (R87).
DESIGN CHOICE, log entry 7. -/
def Fmt.special (f : Fmt) (fn : SfuFn) (a : Nat) : FRes :=
  let oneBits := 127 * 2 ^ (f.prec - 1)
  match f.decode a with
  | .nan s => ⟨f.qnan, s⟩
  | .inf neg => match fn with
    | .exp2 => if neg then ⟨f.zero false, false⟩ else ⟨f.infinity false, false⟩
    | .log2 => if neg then ⟨f.qnan, true⟩ else ⟨f.infinity false, false⟩
    | .rcp => ⟨f.zero neg, false⟩
    | .rsq => if neg then ⟨f.qnan, true⟩ else ⟨f.zero false, false⟩
    | .tanh | .erf => ⟨f.signed neg oneBits, false⟩
    | .sigm => if neg then ⟨f.zero false, false⟩ else ⟨oneBits, false⟩
  | .num neg 0 _ => match fn with
    | .exp2 => ⟨oneBits, false⟩
    | .log2 => ⟨f.infinity true, true⟩
    | .rcp | .rsq => ⟨f.infinity neg, true⟩
    | .tanh | .erf => ⟨f.zero neg, false⟩
    | .sigm => ⟨126 * 2 ^ (f.prec - 1), false⟩
  | .num neg m e => sfuFinite fn f a neg m e

end Sys2Proof.Machine
end

