-- ==== Sys2Proof/Machine/Operands.lean ====
section
/-!
DEFINITION. What every instruction that enters the VIQ reads, computes and writes (R48, R55, R108 to R131, R139, R144,
R150 to R152, R186, R327, R328): its operands with their widths, its function on one element, and the type checks made
as it enters (R109, R110, R132, R150).
-/
namespace Sys2Proof.Machine

/-- The pipes (R48). -/
inductive Pipe where
  | fma | alu | perm | red | sfu | tile
  deriving DecidableEq, Repr

/-- Which elements a permute or a list instruction moves. -/
inductive VMove where
  | compress | expand | slup | sldn | rgat | ext (sx : Bool) | ins
  | rins (k : Nat) | rcls | rpick
  deriving DecidableEq, Repr

/-- What an instruction does with its elements. op acts on width code, rounding mode, element number and the elements
a, b, c of the operands. -/
inductive Sem where
  | elem (op : Nat → Nat → Nat → Nat → Nat → Nat → FRes)
  | compare (op : Nat → Nat → Nat → Bool × Bool)
  | select
  | broadcast
  | iota
  | move (v : VMove)
  | reduce (op : Nat → Nat → Nat → Nat → FRes) (ident : Nat → Nat) (sx : Bool)
  | scan (op : Nat → Nat → Nat → Nat → FRes) (ident : Nat → Nat)
  | tileRead (tile : Nat) (column : Bool)
  | tileWrite (tile : Nat)
  | indexRamp (stride : Nat)
  | drop

/-- Which element types an instruction accepts (R108). -/
inductive TypeRule where
  | any | float | only (wc : Nat)
  deriving DecidableEq, Repr

/-- An instruction of the VIQ in one form. Specifiers are those of R55; va, vb, vc are the element operands it reads. src
is the width code at which va is read where it is not the entry's. -/
structure VForm where
  sem  : Sem
  pipe : Option Pipe := none
  lat  : Nat := 0
  rule : TypeRule := .any
  vd   : Option Nat := none
  va   : Option Nat := none
  vb   : Option Nat := none
  vc   : Option Nat := none
  src  : Option Nat := none
  m    : Nat := 0
  men  : Bool := false
  mn   : Bool := false
  rm   : Nat := 0
  e    : Bool := false
  me   : Nat := 0
  /-- Scalar register operand, and scalar result. -/
  xs   : Option Nat := none
  xd   : Option Nat := none
  /-- Registers of a list: k groups at vd and at vc (R150, R152). -/
  k    : Nat := 1

/-- Bits of an element. -/
def wbits (wc : Nat) : Nat := 8 * 2 ^ wc

/-- An element as a signed number, and the low bits of a number. -/
def sgn (wc x : Nat) : Int := (BitVec.ofNat (wbits wc) x).toInt
def low (wc x : Nat) : Nat := x % 2 ^ wbits wc
def lowInt (wc : Nat) (x : Int) : Nat := (x % (2 ^ wbits wc : Nat)).toNat

/-- The format of a width code (R108). -/
def fmtOf (wc : Nat) : Fmt := if wc = 1 then .bf16 else .fp32

/-! ### Integer functions (R117, R118, R122) -/

def ivOp (f : Nat → Nat → Nat → Nat) : Nat → Nat → Nat → Nat → Nat → Nat → FRes :=
  fun wc _ _ a b _ => ⟨low wc (f wc a b), false⟩

def ivMulh (wc a b : Nat) : Nat := lowInt wc (sgn wc a * sgn wc b / (2 ^ wbits wc : Nat))
def ivSll (wc a b : Nat) : Nat := a * 2 ^ (b % wbits wc)
def ivSrl (wc a b : Nat) : Nat := a / 2 ^ (b % wbits wc)
def ivSra (wc a b : Nat) : Nat := lowInt wc (sgn wc a / (2 ^ (b % wbits wc) : Nat))
def ivMin (wc a b : Nat) : Nat := if sgn wc a ≤ sgn wc b then a else b
def ivMax (wc a b : Nat) : Nat := if sgn wc a ≤ sgn wc b then b else a

/-- Conditions of vcmp (R118). -/
def ivCompare (fn wc a b : Nat) : Bool :=
  let x := sgn wc a
  let y := sgn wc b
  match fn with
  | 0 => a == b
  | 1 => a != b
  | 2 => decide (x < y)
  | 3 => decide (y ≤ x)
  | 4 => decide (a < b)
  | 5 => decide (b ≤ a)
  | 6 => decide (x ≤ y)
  | 7 => decide (y < x)
  | 8 => decide (a ≤ b)
  | _ => decide (b < a)

/-- vicvt (R122): from width code src to width code wc. -/
def ivConvert (fn wc a : Nat) : Nat :=
  let src := bitsOf fn 0 2
  let signed := bitOf fn 2
  if src < wc then (if signed then lowInt wc (sgn src a) else a)
  else if src = wc ∨ !bitOf fn 3 then low wc a
  else if signed then lowInt wc (max (-(2 ^ (wbits wc - 1) : Nat)) (min ((2 ^ (wbits wc - 1) : Nat) - 1) (sgn src a)))
  else min a (2 ^ wbits wc - 1)

/-! ### Floating-point functions (R124 to R129) -/

def fpOp (f : Fmt → Nat → Nat → Nat → Nat → FRes) : Nat → Nat → Nat → Nat → Nat → Nat → FRes :=
  fun wc rm _ a b c => f (fmtOf wc) rm a b c

/-- vfsgn (R126). -/
def fpSign (f : Fmt) (a b : Nat) : Nat := a % 2 ^ (f.bits - 1) + b / 2 ^ (f.bits - 1) % 2 * 2 ^ (f.bits - 1)

/-- vfcvt (R128): the width code of the result, that of the source, and the conversion. -/
def fpConvert (fn rm a : Nat) : FRes :=
  match fn with
  | 0 => Fmt.bf16.convert .fp32 RNE a
  | 1 => Fmt.fp32.convert .bf16 rm a
  | 2 => Fmt.fp32.toInteger rm true 32 a
  | 3 => Fmt.fp32.toInteger rm false 32 a
  | 4 => Fmt.fp32.ofInteger rm (sgn 2 a)
  | 5 => Fmt.fp32.ofInteger rm a
  | 6 => Fmt.bf16.toInteger rm true 16 a
  | 7 => Fmt.bf16.toInteger rm false 16 a
  | 8 => Fmt.bf16.ofInteger rm (sgn 1 a)
  | 9 => Fmt.bf16.ofInteger rm a
  | 10 => Fmt.fp32.toInteger rm true 64 a
  | 11 => Fmt.fp32.ofInteger rm (sgn 3 a)
  | 12 => Fmt.fp32.toInteger rm true 8 a
  | _ => Fmt.fp32.ofInteger rm (sgn 0 a)

/-- Width codes of vfcvt: destination and source (R128). -/
def fpConvertTo : Nat → Nat
  | 0 | 2 | 3 | 4 | 5 | 11 | 13 => 2
  | 1 | 6 | 7 | 8 | 9 => 1
  | 10 => 3
  | _ => 0
def fpConvertFrom : Nat → Nat
  | 0 | 6 | 7 | 8 | 9 => 1
  | 1 | 2 | 3 | 4 | 5 | 10 | 12 => 2
  | 11 => 3
  | _ => 0

/-! ### Reductions (R83, R139) -/

def redInt (f : Nat → Nat → Nat → Nat) : Nat → Nat → Nat → Nat → FRes := fun wc _ a b => ⟨low wc (f wc a b), false⟩
def redFp (f : Fmt → Nat → Nat → Nat → FRes) : Nat → Nat → Nat → Nat → FRes := fun wc rm a b => f (fmtOf wc) rm a b

def identMin (wc : Nat) : Nat := 2 ^ (wbits wc - 1)
def identMax (wc : Nat) : Nat := 2 ^ (wbits wc - 1) - 1
def identAll (wc : Nat) : Nat := 2 ^ wbits wc - 1

def sumInt (_ a b : Nat) : Nat := a + b
def maxuInt (_ a b : Nat) : Nat := max a b
def minuInt (_ a b : Nat) : Nat := min a b
def maxFp (f : Fmt) (_ a b : Nat) : FRes := f.pick false a b
def minFp (f : Fmt) (_ a b : Nat) : FRes := f.pick true a b

/-! ### Forms -/

/-- The fields of T32d, and of T48b, that every vector instruction shares. -/
def form2 (f : T32d) (sem : Sem) (pipe : Pipe) (lat : Nat) (rule : TypeRule) : VForm :=
  { sem := sem, pipe := some pipe, lat := lat, rule := rule, vd := some f.vd.toNat, m := f.m.toNat, men := f.men, mn := f.mn,
    rm := f.rm.toNat, e := f.e, me := f.me.toNat }
def form3 (f : T48b) (sem : Sem) (pipe : Pipe) (lat : Nat) (rule : TypeRule) : VForm :=
  { sem := sem, pipe := some pipe, lat := lat, rule := rule, vd := some f.vd.toNat, m := f.m.toNat, men := f.men, mn := f.mn,
    rm := f.rm.toNat, e := f.e, me := f.me.toNat }

/-- Two-source element-wise forms. -/
def ew2 (f : T32d) (op : Nat → Nat → Nat → Nat → Nat → Nat → FRes) (pipe : Pipe) (lat : Nat) (rule : TypeRule) : VForm :=
  { form2 f (.elem op) pipe lat rule with va := some f.va.toNat, vb := some f.vb.toNat }
def ew1 (f : T32d) (op : Nat → Nat → Nat → Nat → Nat → Nat → FRes) (pipe : Pipe) (lat : Nat) (rule : TypeRule) : VForm :=
  { form2 f (.elem op) pipe lat rule with va := some f.va.toNat }
def ew3 (f : T48b) (op : Nat → Nat → Nat → Nat → Nat → Nat → FRes) : VForm :=
  { form3 f (.elem op) .fma 4 .float with va := some f.va.toNat, vb := some f.vb.toNat, vc := some f.vc.toNat }
def int2 (f : T32d) (op : Nat → Nat → Nat → Nat) (lat : Nat) : VForm := ew2 f (ivOp op) .alu lat .any
def sfu1 (f : T32d) (fn : SfuFn) : VForm := ew1 f (fpOp (fun g _ a _ _ => g.special fn a)) .sfu 6 .float
def perm2 (f : T32d) (v : VMove) : VForm := { form2 f (.move v) .perm 4 .any with va := some f.va.toNat }
def perm3 (f : T48b) (v : VMove) : VForm := form3 f (.move v) .perm 4 .any
def slide (f : T48b) (v : VMove) : VForm :=
  { perm3 f v with va := some f.va.toNat, vb := some f.vb.toNat, xs := some f.x.toNat }
def reduction (f : T48b) (op : Nat → Nat → Nat → Nat → FRes) (ident : Nat → Nat) (sx : Bool) (rule : TypeRule) : VForm :=
  { form3 f (.reduce op ident sx) .red 0 rule with
      vd := none, va := some f.va.toNat, xs := some (f.vb.toNat - 0x60), xd := some f.x.toNat }
def scanForm (f : T48b) (op : Nat → Nat → Nat → Nat → FRes) (ident : Nat → Nat) (rule : TypeRule) : VForm :=
  { form3 f (.scan op ident) .red 0 rule with va := some f.va.toNat, xs := some (f.vb.toNat - 0x60) }
def sliceForm (f : T32g) (sem : Sem) : VForm :=
  { sem := sem, pipe := some .tile, rule := .float, m := f.m.toNat, men := f.men, mn := f.mn, xs := some f.x.toNat }

/-- The form of an instruction that enters the VIQ. -/
def vform : Instr → Option VForm
  | .vadd f => some (int2 f (fun _ a b => a + b) 2)
  | .vsub f => some (int2 f (fun wc a b => a + 2 ^ wbits wc - b) 2)
  | .vmul f => some (int2 f (fun _ a b => a * b) 3)
  | .vmulh f => some (int2 f ivMulh 3)
  | .vand f => some (int2 f (fun _ a b => a &&& b) 2)
  | .vor f => some (int2 f (fun _ a b => a ||| b) 2)
  | .vxor f => some (int2 f (fun _ a b => a ^^^ b) 2)
  | .vsll f => some (int2 f ivSll 2)
  | .vsrl f => some (int2 f ivSrl 2)
  | .vsra f => some (int2 f ivSra 2)
  | .vmin f => some (int2 f ivMin 2)
  | .vmax f => some (int2 f ivMax 2)
  | .vminu f => some (int2 f (fun _ a b => min a b) 2)
  | .vmaxu f => some (int2 f (fun _ a b => max a b) 2)
  | .vcmp f => some { form3 f (.compare (fun wc a b => (ivCompare f.fn.toNat wc a b, false))) .alu 2 .any with
      va := some f.va.toNat, vb := some f.vb.toNat }
  | .vsel f => some { form2 f .select .alu 2 .any with va := some f.va.toNat, vb := some f.vb.toNat }
  | .vmv f => some (ew1 f (fun _ _ _ a _ _ => ⟨a, false⟩) .alu 2 .any)
  | .vbc f => some { form2 f .broadcast .alu 2 .any with va := some f.va.toNat, xs := some (f.vb.toNat - 0x60) }
  | .vid f => some (form2 f (.elem (fun wc _ i _ _ _ => ⟨low wc i, false⟩)) .alu 2 .any)
  | .viota f => some (form2 f .iota .alu 2 .any)
  | .vicvt f => some { form3 f (.elem (fun wc _ _ a _ _ => ⟨ivConvert f.fn.toNat wc a, false⟩)) .alu 3 .any with
      va := some f.va.toNat, src := some (bitsOf f.fn.toNat 0 2) }
  | .vfadd f => some (ew2 f (fpOp (fun g rm a b _ => g.add rm a b)) .fma 4 .float)
  | .vfsub f => some (ew2 f (fpOp (fun g rm a b _ => g.sub rm a b)) .fma 4 .float)
  | .vfmul f => some (ew2 f (fpOp (fun g rm a b _ => g.mul rm a b)) .fma 4 .float)
  | .vfma f => some (ew3 f (fpOp (fun g rm a b c => g.fma rm false false a b c)))
  | .vfms f => some (ew3 f (fpOp (fun g rm a b c => g.fma rm false true a b c)))
  | .vfnma f => some (ew3 f (fpOp (fun g rm a b c => g.fma rm true false a b c)))
  | .vfdiv f => some (ew2 f (fpOp (fun g rm a b _ => g.div rm a b)) .fma 0 .float)
  | .vfsqrt f => some (ew1 f (fpOp (fun g rm a _ _ => g.sqrt rm a)) .fma 0 .float)
  | .vfmin f => some (ew2 f (fpOp (fun g _ a b _ => g.pick true a b)) .alu 2 .float)
  | .vfmax f => some (ew2 f (fpOp (fun g _ a b _ => g.pick false a b)) .alu 2 .float)
  | .vfsgn f => some (ew2 f (fpOp (fun g _ a b _ => ⟨fpSign g a b, false⟩)) .alu 2 .float)
  | .vfcmp f => some { form3 f (.compare (fun wc a b => (fmtOf wc).compare f.fn.toNat a b)) .alu 2 .float with
      va := some f.va.toNat, vb := some f.vb.toNat }
  | .vfcvt f => some { form3 f (.elem (fun _ rm _ a _ _ => fpConvert f.fn.toNat rm a)) .alu 3 (.only (fpConvertTo f.fn.toNat)) with
      va := some f.va.toNat, src := some (fpConvertFrom f.fn.toNat) }
  | .vfclass f => some { form3 f (.elem (fpOp (fun g _ a _ _ => ⟨g.classify a, false⟩))) .alu 2 .float with
      va := some f.va.toNat }
  | .vfexp2 f => some (sfu1 f .exp2)
  | .vflog2 f => some (sfu1 f .log2)
  | .vfrcp f => some (sfu1 f .rcp)
  | .vfrsq f => some (sfu1 f .rsq)
  | .vftanh f => some (sfu1 f .tanh)
  | .vfsigm f => some (sfu1 f .sigm)
  | .vferf f => some (sfu1 f .erf)
  | .vcompress f => some { perm3 f .compress with va := some f.va.toNat, xd := some f.x.toNat }
  | .vexpand f => some (perm2 f .expand)
  | .vslup f => some (slide f .slup)
  | .vsldn f => some (slide f .sldn)
  | .vrgat f => some { perm2 f .rgat with vb := some f.vb.toNat }
  | .vext f => some { perm3 f (.ext (bitOf f.fn.toNat 0)) with
      vd := none, va := some f.va.toNat, xs := some (f.vb.toNat - 0x60), xd := some f.x.toNat }
  | .vins f => some { perm3 f .ins with xs := some f.x.toNat, vb := some f.vb.toNat }
  | .vredsum f => some (reduction f (redInt sumInt) (fun _ => 0) true .any)
  | .vredmax f => some (if f.fn = 0 then reduction f (redInt ivMax) identMin true .any
      else reduction f (redInt maxuInt) (fun _ => 0) false .any)
  | .vredmin f => some (if f.fn = 0 then reduction f (redInt ivMin) identMax true .any
      else reduction f (redInt minuInt) identAll false .any)
  | .vfredsum f => some (reduction f (redFp (fun g rm a b => g.add rm a b)) (fun wc => (fmtOf wc).zero true) false .float)
  | .vfredmax f => some (reduction f (redFp maxFp) (fun wc => (fmtOf wc).infinity true) false .float)
  | .vfredmin f => some (reduction f (redFp minFp) (fun wc => (fmtOf wc).infinity false) false .float)
  | .vscan f => some (match f.fn.toNat with
      | 0 => scanForm f (redInt sumInt) (fun _ => 0) .any
      | 1 => scanForm f (redInt ivMax) identMin .any
      | 2 => scanForm f (redInt ivMin) identMax .any
      | 3 => scanForm f (redInt maxuInt) (fun _ => 0) .any
      | _ => scanForm f (redInt minuInt) identAll .any)
  | .vfscan f => some (match f.fn.toNat with
      | 0 => scanForm f (redFp (fun g rm a b => g.add rm a b)) (fun wc => (fmtOf wc).zero true) .float
      | 1 => scanForm f (redFp maxFp) (fun wc => (fmtOf wc).infinity true) .float
      | _ => scanForm f (redFp minFp) (fun wc => (fmtOf wc).infinity false) .float)
  | .vtrd f => some { sliceForm f (.tileRead f.t.toNat false) with vd := some f.v.toNat }
  | .vtcd f => some { sliceForm f (.tileRead f.t.toNat true) with vd := some f.v.toNat }
  | .vtwr f => some { sliceForm f (.tileWrite f.t.toNat) with va := some f.v.toNat }
  | .vrins f => some { form3 f (.move (.rins (f.fn.toNat + 1))) .alu 2 .float with
      va := some f.va.toNat, vc := some f.vc.toNat, xs := some f.x.toNat, k := f.fn.toNat + 1 }
  | .vrcls f => some { form3 f (.move .rcls) .alu 2 .any with va := some f.va.toNat }
  | .vrpick f => some { form3 f (.move .rpick) .red 0 .float with
      va := some f.va.toNat, vc := some f.vc.toNat, xs := some f.x.toNat }
  | .viq f => some { sem := .indexRamp f.imm.toNat, vd := some 0x54, m := f.m.toNat, men := f.men, mn := f.mn, xs := some f.x.toNat }
  | .vqdrop f => some { sem := .drop, va := some (0x40 + f.q.toNat) }
  | _ => none

/-! ### Specifiers (R55) -/

def specReg (v : Nat) : Option Nat := if v < 0x40 then some v else none
def specQueue (v : Nat) : Option Nat := if 0x40 ≤ v ∧ v < 0x50 then some (v % 8) else none
def specKeep (v : Nat) : Bool := decide (0x48 ≤ v) && decide (v < 0x50)
def specX (v : Nat) : Option Nat := if 0x60 ≤ v then some (v - 0x60) else none
/-- Store queue 0 to 3, or 4 for iq. -/
def specPush (v : Nat) : Option Nat := if 0x50 ≤ v ∧ v ≤ 0x54 then some (v - 0x50) else none

/-- Registers of a group at width code w' under a type (R109). -/
def emul (t : VType) (wc : Nat) : Nat := 2 ^ t.grp * 2 ^ wc / 2 ^ t.wc

/-- The registers that an operand group covers. -/
def groupRegs (t : VType) (wc base : Nat) : List Nat := (List.range (max 1 (emul t wc))).map (base + ·)

/-- The result is a mask, named by vd (R118, R127). -/
def VForm.toMask (f : VForm) : Bool :=
  match f.sem with
  | .compare _ => true
  | _ => false

/-- Element operands with their width codes. -/
def VForm.sources (f : VForm) (t : VType) : List (Nat × Nat) :=
  let list := match f.sem with
    | .move (.rins _) | .move .rpick => []
    | .move .ins => []
    | _ => (f.vb.map (fun v => (v, t.wc))).toList ++ (f.vc.map (fun v => (v, t.wc))).toList
  (f.va.map (fun v => (v, f.src.getD t.wc))).toList ++ list

/-- Registers that hold the lists of vrins and vrpick (R150, R152). -/
def VForm.lists (f : VForm) (t : VType) : List (List Nat) :=
  match f.sem with
  | .move (.rins _) | .move .rpick =>
    [f.vd.getD 0, f.vc.getD 0].map (fun v => (List.range (f.k * 2 ^ t.grp)).map (v + ·))
  | _ => []

/-- Sources that must stand whole before the first element group (R132, R152). An x register is no source to wait for: a vslup whose
fill is one streams, and pre-emption stops it as it stops a streaming permute (R138).
DESIGN CHOICE, log entry 114. -/
def VForm.whole (f : VForm) : List Nat :=
  (match f.sem with
    | .move .slup => f.vb.toList
    | .move .sldn | .move .rgat => f.va.toList ++ f.vb.toList
    | .move (.ext _) | .move .rpick => f.va.toList
    | _ => []).filter (fun v => decide (v < 0x50))

/-- The pipe that an instruction uses; viq runs in the integer/ALU pipe (R48, R328). -/
def VForm.unit (f : VForm) : Option Pipe :=
  match f.sem with
  | .indexRamp _ => some .alu
  | _ => f.pipe

/-- Instructions that pre-emption does not stop once their first element group has issued (R138, R153). -/
def VForm.mustFinish (f : VForm) : Bool :=
  !f.whole.isEmpty || (match f.sem with
    | .move (.rins _) | .move .rcls | .move .rpick => true
    | _ => false)

/-- It reads element i of each operand in the element group of i, and no element again later. -/
def VForm.readsInOrder (f : VForm) : Bool :=
  match f.sem with
  | .broadcast | .move .expand | .move .slup | .move .sldn | .move .rgat | .move (.ext _) | .move .rpick => false
  | _ => true

/-- It writes element i of its result in the element group of i. -/
def VForm.writesInOrder (f : VForm) : Bool :=
  match f.sem with
  | .move .compress => false
  | _ => true

/-- Vector registers read. -/
def VForm.readRegs (f : VForm) (t : VType) : List Nat :=
  ((f.sources t).flatMap (fun o => match specReg o.1 with
    | some r => groupRegs t o.2 r
    | none => [])) ++ (f.lists t).flatten

/-- Vector registers written. -/
def VForm.writeRegs (f : VForm) (t : VType) : List Nat :=
  if f.toMask then []
  else match f.lists t with
    | [] => match f.vd.bind specReg with
      | some r => groupRegs t t.wc r
      | none => []
    | l => l.flatten

/-- Masks read and written. -/
def VForm.readMasks (f : VForm) : List Nat := if f.men then [f.m] else []
def VForm.writeMasks (f : VForm) : List Nat := (if f.toMask then f.vd.toList else []) ++ (if f.e then [f.me] else [])

/-- Queues popped, once each (R56, R111). -/
def VForm.pops (f : VForm) (t : VType) : List Nat :=
  (((f.sources t).map (·.1)).filterMap (fun v => if specKeep v then none else specQueue v)).eraseDups

/-- Queues read and not popped (R56). -/
def VForm.keeps (f : VForm) (t : VType) : List Nat :=
  (((f.sources t).map (·.1)).filterMap (fun v => if specKeep v then specQueue v else none)).filter
    (fun q => !(f.pops t).contains q)

/-- Queues read. -/
def VForm.queues (f : VForm) (t : VType) : List (Nat × Nat) :=
  (f.sources t).filterMap (fun o => (specQueue o.1).map (fun q => (q, o.2)))

/-- Scalar registers captured as the instruction enters the VIQ (R50). -/
def VForm.captures (f : VForm) : List Nat :=
  f.xs.toList ++ ([f.va, f.vb, f.vc].filterMap (fun v => v.bind specX))

/-! ### Type checks on entry (R108 to R110, R132, R150, R152) -/

/-- An operand group whose registers are too many or misaligned. An EMUL above 8 counts for a register group; an operand that is a
queue or an x register has no group.
DESIGN CHOICE, log entry 113. -/
def badGroup (t : VType) (wc v : Nat) : Bool :=
  match specReg v with
  | none => false
  | some r => decide (emul t wc > 8) || r % max 1 (emul t wc) != 0

def overlap (a b : List Nat) : Bool := a.any (fun r => b.contains r)

/-- The moves whose destination may not share a register with a source (R132). -/
def VForm.separate (f : VForm) (t : VType) : Bool :=
  match f.sem with
  | .move .compress | .move .expand | .move .slup | .move .sldn | .move .rgat => true
  | _ => match f.src with
    | some w => w != t.wc
    | none => false

def VForm.badType (f : VForm) (t : VType) : Bool :=
  (match f.rule with
    | .any => false
    | .float => t.wc != 1 && t.wc != 2
    | .only w => t.wc != w)
  || (f.sources t).any (fun o => badGroup t o.2 o.1)
  || (!f.toMask && (match f.vd with
      | some v => badGroup t t.wc v
      | none => false))
  || (f.separate t && overlap (f.writeRegs t) (f.readRegs t))
  || (match f.lists t with
      | [d, c] => d.headD 0 % 2 ^ t.grp != 0 || c.headD 0 % 2 ^ t.grp != 0 || d.any (· > 63) || c.any (· > 63) || overlap d c
          || overlap (d ++ c) ((f.sources t).flatMap (fun o => match specReg o.1 with
              | some r => groupRegs t o.2 r
              | none => []))
      | _ => false)

end Sys2Proof.Machine
end

