-- ==== Sys2Proof/Machine/Tiles.lean ====
section
/-!
DEFINITION. Which tiles and rows the matrix commands of a core stand before: gang descriptors (R181, R182), row-ready bits
(R176, R190) and pending commands (R161).
-/
namespace Sys2Proof.Machine

/-- A gang descriptor (R181), from its four 32-bit words. -/
structure Gang where
  gr   : Nat
  gc   : Nat
  nt   : Nat
  z    : Bool
  b0   : Nat
  kt   : Nat
  rl   : Nat
  cl   : Nat
  aoff : Nat
  boff : Nat
  deriving DecidableEq, Repr

def gangOf (w : List Word) : Gang :=
  let g := fun i => (w.getD i 0).toNat
  { gr := bitsOf (g 0) 0 4 + 1, gc := bitsOf (g 0) 4 1 + 1, nt := bitsOf (g 0) 5 2 + 1, z := bitOf (g 0) 7,
    b0 := bitsOf (g 0) 8 5, kt := bitsOf (g 1) 0 16, rl := bitsOf (g 1) 16 8, cl := bitsOf (g 1) 24 8,
    aoff := bitsOf (g 2) 0 20, boff := bitsOf (g 3) 0 20 }

/-- K steps of a gang (R182). -/
def Gang.steps (g : Gang) : Nat := (g.kt + 47) / 48

/-- Predicates of tile n on gang core p (R182). -/
def Gang.nr (g : Gang) (p : Nat) : Nat := if p / g.gc = g.gr - 1 then g.rl else 128
def Gang.nc (g : Gang) (p n : Nat) : Nat := if p % g.gc = g.gc - 1 ∧ n = g.nt - 1 then g.cl else 128

/-- The cores of a gang whose base core is given. -/
def Gang.cores (g : Gang) (base : Nat) : List Nat := (List.range (g.gr * g.gc)).map (base + ·)

/-- A gang instruction. -/
def MatCmd.isGang (c : MatCmd) : Bool :=
  match c.instr with
  | .mmag _ => true
  | _ => false

/-- The descriptor of a gang command. -/
def MatCmd.gang (c : MatCmd) : Gang := gangOf (c.args.drop 1)

/-- The cores whose matrix units a command uses. -/
def MatCmd.cores (c : MatCmd) : List Nat :=
  if c.isGang then c.gang.cores (crewCore c.crew) else [crewCore c.crew]

/-- The rows of a tile that a command writes, as their count from row 0 (R176). -/
def MatCmd.rows (c : MatCmd) (core tile : Nat) : Nat :=
  match c.instr with
  | .ten f => if f.t.toNat = tile then 128 else 0
  | .tzero f | .mma f | .tld f => if f.t.toNat = tile ∧ c.nc ≠ 0 then c.nr else 0
  | .mmag _ => if tile < c.gang.nt then c.gang.nr (core - crewCore c.crew) else 0
  | _ => 0

/-- The command acts on the tile. -/
def MatCmd.onTile (c : MatCmd) (tile : Nat) : Bool :=
  match c.instr with
  | .ten f | .tzero f | .mma f | .tld f | .tst f => f.t.toNat == tile
  | .mmag _ => decide (tile < c.gang.nt)
  | _ => false

/-- Commands armed by any crew that will run on a core (R191). -/
def armedOn (s : State) (core : Nat) : List MatCmd :=
  s.crews.filterMap (fun e => match e.2.follow with
    | .armed c => if c.cores.contains core then some c else none
    | _ => none)

/-- Gangs of a core that pre-emption has stopped: they are not complete (R184). -/
def stoppedOn (s : State) (core : Nat) : List MatCmd :=
  s.crews.filterMap (fun e => e.2.gang.filter (fun c => c.cores.contains core))

/-- Commands accepted or armed on a core and not complete. -/
def standing (s : State) (core : Nat) : List MatCmd :=
  (s.core core).mq ++ ((s.core core).mrun.map (·.cmd)).toList ++ armedOn s core ++ stoppedOn s core

/-- A command stands before this tile (R161, R179). -/
def tilePending (s : State) (core tile : Nat) : Bool := (standing s core).any (·.onTile tile)

/-- A command in the queue has written its rows: a gang that has done all its K steps on this core. -/
def MatCmd.written (c : MatCmd) : Bool := c.isGang && decide (c.gang.steps ≤ c.gstep)

/-- The running command has written a row of a tile: a product sets the bits of a block row when it is complete, a gang in its
last K step (R176, R182). -/
def MatRun.wrote (r : MatRun) (tile row : Nat) : Bool :=
  (match r.cmd.instr with
    | .mma _ => true
    | _ => r.cmd.isGang && decide (r.cmd.gang.steps ≤ r.cmd.gstep + 1))
    && (decide (tile < r.tile) || (tile == r.tile && decide (row / 32 < r.row)))

/-- The row-ready bit of a row (R176): clear while a command that clears it stands before the tile and has not yet
written it. Commands numbered limit or above are not seen (R190). -/
def rowReady (s : State) (core tile row : Nat) (limit : Option Nat) : Bool :=
  let clears := fun (c : MatCmd) => decide (row < c.rows core tile) && limit.all (fun n => decide (c.seq < n))
  ((s.core core).mq ++ armedOn s core ++ stoppedOn s core).all (fun c => !clears c || c.written)
    && (s.core core).mrun.all (fun r => !clears r.cmd || r.wrote tile row)

end Sys2Proof.Machine
end

