-- ==== Sys2Proof/Machine/Vector.lean ====
section
/-!
DEFINITION. Vector instructions on their way through the VIQ: entry (R46, R50, R110, R186, R399), issue of the head convoy
(R47 to R52, R234, R308), and the advance of its members by element groups (R111 to R122, R131 to R153, R186 to R189, R327,
R328).
-/
namespace Sys2Proof.Machine

/-! ### Elements of vector registers (R20) -/

/-- Byte keys of element i, at width code wc, of the register group at base. -/
def elemKeys (t : VType) (sh : Share) (wc base i : Nat) : List Nat :=
  let g8 := 8 * max 1 sh.g
  let per := 32 * g8 * (1 + t.cls) / 2 ^ wc
  (List.range (2 ^ wc)).map (fun b =>
    vkey (base + i / per) (8 * sh.b + i % per % g8) (2 ^ wc * (i % per / g8) + b))

/-- The register that a byte key belongs to. -/
def keyReg (key : Nat) : Nat := key / 8192

/-- An element and its mark: the mark of its lowest byte (R415).
DESIGN CHOICE, log entry 21. -/
def readElem (m : SMap VByte) (ks : List Nat) : Nat × Bool :=
  (leNat (ks.map (fun n => (get {} m n).b)), (get {} m (ks.headD 0)).p)

/-- Write an element: the element is clean (R115). -/
def writeElem (m : SMap VByte) (ks : List Nat) (v : Nat) : SMap VByte :=
  (ks.zip (leBytes ks.length v)).foldl (fun m e => put {} m e.1 ⟨e.2, false⟩) m

/-! ### Members of a convoy -/

/-- A VIQ entry with its form. -/
structure VMem where
  e : VEntry
  f : VForm

/-- Elements of one element group (R21). -/
def VEntry.gsz (e : VEntry) : Nat := 8 * max 1 e.sh.g

/-- Elements that the entry goes through: vl, or those of the token that a vqdrop discards, whatever their count (R327). -/
def VEntry.len (e : VEntry) : Nat :=
  match e.instr with
  | .vqdrop _ => e.part.toNat
  | _ => e.vl

/-- The entry has completed. -/
def VEntry.fin (e : VEntry) : Bool := decide (max 1 e.len ≤ e.prog)

def members (es : List VEntry) : List VMem := es.filterMap (fun e => (vform e.instr).map (fun f => ⟨e, f⟩))

/-- The head convoy of a VIQ (R46). -/
def convoyOf : List VEntry → List VEntry
  | [] => []
  | h :: r => h :: r.takeWhile (·.join)

/-- Place of the token that a member reads in queue q, after the pops of earlier members (R49). -/
def tokenIndex (before : List VMem) (q : Nat) : Nat :=
  (before.filter (fun b => !b.e.fin && (b.f.pops b.e.vt).contains q)).length

def tokenOf (c : Crew) (before : List VMem) (q : Nat) : Option Tok := (c.lqAt q)[tokenIndex before q]?

/-- The scalar operand that it captured. -/
def VMem.xv (m : VMem) : Nat := (get {} m.e.xs (m.f.xs.getD 0)).v.toNat

/-- A mask as the member reads it. -/
def VMem.mask (m : VMem) (c : Crew) (n : Nat) : BitVec 16384 :=
  match m.e.stale.masks.find? (fun x => x.1 == n) with
  | some x => x.2
  | none => get 0 c.masks n

/-- The mask operand selects element i (R112). -/
def VMem.selects (m : VMem) (c : Crew) (i : Nat) : Bool := !m.f.men || (m.mask c m.f.m).getLsbD i != m.f.mn

/-- Element i is active (R112, R119). -/
def VMem.active (m : VMem) (c : Crew) (i : Nat) : Bool :=
  match m.f.sem with
  | .select => true
  | _ => m.selects c i

/-- Instructions that do all their elements in one step of the model: they read a whole source for one element, or every source
before they write any element (R137, R152).
DEDUCED, log entry 23. -/
def VMem.oneShot (m : VMem) : Bool :=
  match m.f.sem with
  | .move (.ext _) | .move .rpick => true
  | _ => false

/-- It waits for elements beyond its next element group: a source that must stand whole, or the one element that it
broadcasts (R120, R132). The groups that it pops leave their slots as they arrive (R231). -/
def VMem.hoards (m : VMem) : Bool :=
  !m.f.whole.isEmpty || m.oneShot || (match m.f.sem with
    | .broadcast => true
    | _ => false)

/-- The end of the next step of a member. -/
def VMem.hi (m : VMem) : Nat := if m.oneShot then m.e.len else min m.e.len (m.e.prog + m.e.gsz)

/-- Its progress index after the next step: at least 1 once it has completed. -/
def VMem.nextProg (m : VMem) : Nat := max 1 m.hi

/-! ### Operands -/

/-- Element i of an operand, and its mark. -/
def operand (s : State) (k : Nat) (before : List VMem) (m : VMem) (spec wc i : Nat) : Nat × Bool :=
  match specReg spec with
  | some r =>
    let ks := elemKeys m.e.vt m.e.sh wc r i
    readElem (if m.e.stale.regs.contains (keyReg (ks.headD 0)) then m.e.stale.cells else (s.core (crewCore k)).vregs) ks
  | none =>
    match specQueue spec with
    | some q =>
      match tokenOf (s.crew k) before q with
      | some t => let x := t.elems.getD i {}; (low wc x.v.toNat, x.p)
      | none => (0, false)
    | none => (low wc (get {} m.e.xs ((specX spec).getD 0)).v.toNat, false)

/-- Linear position of a tile element: by row, or by column (R159, R186). -/
def tilePos (column : Bool) (p : Nat) : Nat := if column then p % 128 * 128 + p / 128 else p

/-- The operand elements that element i uses; rank is the number of active elements below it. -/
def VMem.ops (m : VMem) (s : State) (k : Nat) (before : List VMem) (i rank : Nat) : List (Nat × Bool) :=
  let wc := m.e.vt.wc
  let vl := m.e.vl
  let x := m.xv
  let va := m.f.va.getD 0
  let vb := m.f.vb.getD 0
  let rd := operand s k before m
  match m.f.sem with
  | .elem _ | .compare _ | .select => (m.f.sources m.e.vt).map (fun o => rd o.1 o.2 i)
  | .broadcast =>
    let limit := if (specQueue va).isSome then vl else vlmax (max 1 m.e.sh.g) m.e.vt.cls wc m.e.vt.grp
    if x < limit then [rd va wc x] else []
  | .move .expand => [rd va wc rank]
  | .move .slup => if x ≤ i then [rd va wc (i - x)] else if x ≤ i + vl then [rd vb wc (i + vl - x)] else []
  | .move .sldn => if i + x < vl then [rd va wc (i + x)] else if i + x - vl < vl then [rd vb wc (i + x - vl)] else []
  | .move .rgat =>
    let j := rd vb wc i
    if j.1 < vl then [j, rd va wc j.1] else [j]
  | .move (.rins n) =>
    rd va wc i :: (List.range n).flatMap (fun r =>
      [rd (m.f.vd.getD 0 + r * 2 ^ m.e.vt.grp) wc i, rd (m.f.vc.getD 0 + r * 2 ^ m.e.vt.grp) wc i])
  | .move .rpick => [rd va wc i, rd (m.f.vd.getD 0) wc i, rd (m.f.vc.getD 0) wc i]
  | .move .compress | .move (.ext _) | .move .rcls | .reduce .. | .scan .. | .tileWrite _ => [rd va wc i]
  | .tileRead t col =>
    let e := get {} (get {} (s.core (crewCore k)).tiles t).elems (tilePos col (x + i))
    [(e.v.toNat, e.p)]
  | .move .ins | .iota | .indexRamp _ | .drop => []

/-! ### Ranking of experts (R150, R152) -/

/-- A key: a NaN, an infinity, or an exact sum. -/
def rankKey (wc : Nat) (score : Nat) (bias : Option Nat) : List Fp :=
  (fmtOf wc).decode score :: (bias.map Fmt.fp32.decode).toList

def keyNan (ts : List Fp) : Bool :=
  ts.any Fp.isNan || (ts.any (fun t => t.isInf && t.neg) && ts.any (fun t => t.isInf && !t.neg))

/-- The sign of a - b for keys that are no NaN: 1, 0 or -1. -/
def keyOrder (a b : List Fp) : Int :=
  let rank := fun (ts : List Fp) => match ts.find? Fp.isInf with
    | some t => if t.neg then (-1 : Int) else 1
    | none => 0
  if rank a ≠ 0 ∨ rank b ≠ 0 then (rank a - rank b).sign
  else
    let ts := a ++ b.map Fp.negate
    let e := (ts.filterMap Fp.exponent).foldl min 1024
    ((ts.map (termAt e)).foldl (· + ·) 0).sign

/-- Pair (a, i) ranks above pair (b, j). -/
def ranksAbove (a : List Fp) (i : Nat) (b : List Fp) (j : Nat) : Bool :=
  if keyNan a || keyNan b then !keyNan a || (keyNan b && decide (i < j))
  else
    let d := keyOrder a b
    decide (0 < d) || (d == 0 && decide (i < j))

/-- A candidate (score, index) goes down a list of pairs, best first; the pair left over falls off. -/
def insertRank (key : Nat → Nat → List Fp) : Nat × Nat → List (Nat × Nat) → List (Nat × Nat)
  | _, [] => []
  | c, p :: r =>
    if ranksAbove (key c.1 c.2) c.2 (key p.1 p.2) p.2 then c :: insertRank key p r else p :: insertRank key c r

/-- The bias of an expert, from the captured bank. -/
def biasOf (core : Core) (bank : Bool) (j : Nat) : Option Nat :=
  if j < 256 then some (get 0 (if bank then core.bank1 else core.bank0) j).toNat else none

/-! ### One element group -/

/-- An element of a group: its number, whether it is active, the active elements below it, its operands. -/
structure Lane where
  i    : Nat
  act  : Bool
  rank : Nat
  ops  : List (Nat × Bool)

/-- What one step of a member produces. outs are elements of register groups: base, element, value. -/
structure GroupOut where
  outs  : List (Nat × Nat × Nat) := []
  bits  : List (Nat × Bool) := []
  push  : List Elem := []
  tile  : List (Nat × BitVec 32) := []
  part  : Word
  flags : List Nat := []

/-- One level of the tree of R83: neighbours combine, and an odd last item passes up. -/
def pairUp (op : Nat → Nat → FRes) : List Nat → List Nat × Bool
  | a :: b :: r => match pairUp op r with
    | (l, e) => ((op a b).bits :: l, (op a b).exc || e)
  | l => (l, false)

/-- The pairwise tree (R83); fuel bounds its levels. -/
def treeOf (op : Nat → Nat → FRes) : Nat → List Nat → Bool → Nat × Bool
  | 0, l, e => (l.headD 0, e)
  | n + 1, l, e =>
    if l.length ≤ 1 then (l.headD 0, e)
    else match pairUp op l with
      | (l', e') => treeOf op n l' (e || e')

/-- Prefixes of one group (R84, R142): for each position its result and whether an operation that forms it raised an
exception. -/
def prefixes (op : Nat → Nat → FRes) (carry : Nat) : Option Nat → Bool → List Nat → List (Nat × Bool)
  | _, _, [] => []
  | p, e, y :: r =>
    let s : FRes := match p with
      | none => ⟨y, false⟩
      | some x => op x y
    let e := e || s.exc
    let z := op carry s.bits
    (z.bits, e || z.exc) :: prefixes op carry (some s.bits) e r

/-- The class code of an expert index (R151). -/
def expertClass (rnull : Word) (j : Nat) : Nat :=
  if 256 ≤ j then 4 else if 240 ≤ j then wfield rnull (2 * (j - 240)) 2 else 0

/-- The value of an active element, for the instructions that give one value per element. -/
def VMem.value (m : VMem) (c : Crew) (l : Lane) : FRes :=
  let wc := m.e.vt.wc
  let a := (l.ops.getD 0 (0, false)).1
  let b := (l.ops.getD 1 (0, false)).1
  match m.f.sem with
  | .elem op => op wc m.f.rm l.i a b (l.ops.getD 2 (0, false)).1
  | .select => ⟨if m.selects c l.i then a else b, false⟩
  | .move .rgat => ⟨b, false⟩
  | .move .ins => ⟨low wc m.xv, false⟩
  | .move .rcls => ⟨low wc (expertClass m.e.rnull a), false⟩
  | .iota => ⟨low wc l.rank, false⟩
  | .indexRamp n => ⟨low wc (m.xv + l.i * n), false⟩
  | .tileRead .. => if wc = 2 then ⟨a, false⟩ else ⟨(Fmt.fp32.convert .bf16 RNE a).bits, false⟩
  | .tileWrite _ => if wc = 2 then ⟨a, false⟩ else ⟨(Fmt.bf16.convert .fp32 RNE a).bits, false⟩
  | _ => ⟨a, false⟩

/-- The ranked lists after vrins on one element (R150): scores and indices by rank. The first element group captures the
active bank (R149). -/
def VMem.rankList (m : VMem) (core : Core) (l : Lane) (n : Nat) : List (Nat × Nat) :=
  let vs := l.ops.map (·.1)
  let pairs := (List.range n).map (fun r => (vs.getD (1 + 2 * r) 0, vs.getD (2 + 2 * r) 0))
  insertRank (fun v j => rankKey m.e.vt.wc v (biasOf core (if m.e.prog = 0 then core.act else m.e.bank) j)) (vs.getD 0 0, low m.e.vt.wc m.xv) pairs

/-- The list of vrpick with every candidate inserted (R152). Where the listed pairs are not best first on entry, they keep their order
among themselves.
DESIGN CHOICE, log entry 106. -/
def VMem.pickList (m : VMem) (ls : List Lane) : List (Nat × Nat) :=
  let wc := m.e.vt.wc
  ls.foldl (fun acc l =>
      let v := (l.ops.getD 0 (0, false)).1
      if ((fmtOf wc).decode v).isNan then acc
      else insertRank (fun v _ => rankKey wc v none) (v, low wc (m.xv + l.i)) acc)
    (ls.map (fun l => ((l.ops.getD 1 (0, false)).1, (l.ops.getD 2 (0, false)).1)))

/-- What one step of a member produces from its lanes. -/
def VMem.compute (m : VMem) (core : Core) (c : Crew) (ls : List Lane) : GroupOut :=
  let wc := m.e.vt.wc
  let act := ls.filter (·.act)
  let vd := m.f.vd.getD 0
  let a := fun (l : Lane) => (l.ops.getD 0 (0, false)).1
  let stay : GroupOut := { part := m.e.part }
  match m.f.sem with
  | .drop => stay
  | .compare op =>
    let r := act.map (fun l => (l.i, op wc (a l) (l.ops.getD 1 (0, false)).1))
    { stay with bits := r.map (fun x => (x.1, x.2.1)), flags := (r.filter (·.2.2)).map (·.1) }
  | .move .compress =>
    { stay with
      outs := act.map (fun l => (vd, l.rank, a l)), part := BitVec.ofNat 64 (m.e.part.toNat + act.length) }
  | .move (.ext _) => { stay with part := BitVec.ofNat 64 ((ls.map a).headD 0) }
  | .move (.rins n) =>
    { stay with outs := act.flatMap (fun l =>
        ((List.range n).zip (m.rankList core l n)).flatMap (fun e =>
          [(vd + e.1 * 2 ^ m.e.vt.grp, l.i, e.2.1), (m.f.vc.getD 0 + e.1 * 2 ^ m.e.vt.grp, l.i, e.2.2)])) }
  | .move .rpick =>
    { stay with outs := ((List.range ls.length).zip (m.pickList ls)).flatMap (fun e =>
        [(vd, e.1, e.2.1), (m.f.vc.getD 0, e.1, e.2.2)]) }
  | .reduce op ident _ =>
    if ls.isEmpty then stay
    else
      let ys := ls.map (fun l => if l.act then a l else ident wc) ++ List.replicate (m.e.gsz - ls.length) (ident wc)
      let g := treeOf (op wc m.f.rm) ys.length ys false
      let r := op wc m.f.rm m.e.part.toNat g.1
      { stay with part := BitVec.ofNat 64 r.bits, flags := if g.2 || r.exc then [0] else [] }
  | .scan op ident =>
    let rs := prefixes (op wc m.f.rm) m.e.part.toNat none false (ls.map (fun l => if l.act then a l else ident wc))
    let rows := ls.zip rs
    let live := rows.filter (·.1.act)
    { stay with
      outs := live.map (fun x => (vd, x.1.i, x.2.1))
      push := rows.map (fun x => if x.1.act then ⟨BitVec.ofNat 64 x.2.1, true, false⟩ else ⟨0, false, false⟩)
      flags := (live.filter (·.2.2)).map (·.1.i)
      part := BitVec.ofNat 64 ((rs.getLast?.map (·.1)).getD m.e.part.toNat) }
  | .tileWrite _ => { stay with tile := act.map (fun l => (m.xv + l.i, BitVec.ofNat 32 (m.value c l).bits)) }
  | _ =>
    let vs := ls.map (fun l => (l, if l.act then m.value c l else ⟨0, false⟩))
    let live := vs.filter (·.1.act)
    { outs := live.map (fun x => (vd, x.1.i, x.2.bits))
      push := vs.map (fun x => ⟨BitVec.ofNat 64 x.2.bits, x.1.act, false⟩)
      flags := (live.filter (·.2.exc)).map (·.1.i)
      part := BitVec.ofNat 64 (m.e.part.toNat + act.length) }

/-- Element numbers of the next step. -/
def VMem.numbers (m : VMem) : List Nat :=
  match m.f.sem with
  | .move (.ext _) => if m.xv < m.e.vl then [m.xv] else []
  | .move .ins =>
    let j := (get {} m.e.xs (((m.f.vb).bind specX).getD 0)).v.toNat
    if m.e.prog ≤ j ∧ j < m.hi then [j] else []
  | .drop => []
  | _ => (List.range (m.hi - m.e.prog)).map (m.e.prog + ·)

/-- Active elements below the next step. -/
def VMem.count0 (m : VMem) : Nat := if m.oneShot then 0 else m.e.part.toNat

/-- The lanes of the next step, from element numbers and the count of active elements so far. -/
def VMem.lanes (m : VMem) (s : State) (k : Nat) (before : List VMem) : Nat → List Nat → List Lane
  | _, [] => []
  | n, i :: r =>
    let act := m.active (s.crew k) i
    ⟨i, act, n, if act then m.ops s k before i n else []⟩ :: m.lanes s k before (if act then n + 1 else n) r

/-- The step of a member, or the first element at which it meets poison (R115). -/
def VMem.step (m : VMem) (s : State) (k : Nat) (before : List VMem) : Except Nat GroupOut :=
  let ls := m.lanes s k before m.count0 m.numbers
  match ls.find? (fun l => l.act && l.ops.any (·.2)) with
  | some l => .error l.i
  | none => .ok (m.compute (s.core (crewCore k)) (s.crew k) ls)

/-! ### When a member may take its next step (R49, R132, R189, R231, R308) -/

/-- The tile of a tile-slice instruction, and whether its positions run by column. -/
def VForm.tile (f : VForm) : Option (Nat × Bool) :=
  match f.sem with
  | .tileRead t c => some (t, c)
  | .tileWrite t => some (t, false)
  | _ => none

/-- Rows of its tile that elements lo to hi - 1 touch. -/
def VMem.rows (m : VMem) (lo hi : Nat) : List Nat :=
  match m.f.tile with
  | none => []
  | some (_, c) => ((List.range (hi - lo)).map (fun i => tilePos c (m.xv + lo + i) / 128)).eraseDups

/-- Registers of operand specifiers, each read at its width: those that it needs whole, or the others. -/
def VMem.regsOf (m : VMem) (whole : Bool) : List Nat :=
  let bcast := match m.f.sem with
    | .broadcast => true
    | _ => false
  ((m.f.sources m.e.vt).filter (fun o => (bcast || m.f.whole.contains o.1) == whole)).flatMap (fun o => match specReg o.1 with
      | some r => groupRegs m.e.vt o.2 r
      | none => [])
    ++ (if whole == (match m.f.sem with | .move .rpick => true | _ => false) then (m.f.lists m.e.vt).flatten else [])

/-- A token source of a member holds the data of its next step. -/
def VMem.dataReady (m : VMem) (c : Crew) (before : List VMem) (o : Nat × Nat) : Bool :=
  match specQueue o.1 with
  | none => true
  | some q =>
    match tokenOf c before q with
    | none => false
    | some t => !t.marker && (match m.f.sem with
        | .broadcast => decide (m.xv < t.elems.length) || decide (m.e.vl ≤ m.xv)
        | _ => if m.f.whole.contains o.1 then t.whole else decide (m.hi ≤ t.elems.length))

/-- The earlier members of a member's convoy, and the members of the convoys before it. -/
def splitConvoy (before : List VMem) (m : VMem) : List VMem × List VMem :=
  if m.e.join then
    let r := before.reverse
    let n := (r.takeWhile (·.e.join)).length + 1
    ((r.take n).reverse, (r.drop n).reverse)
  else ([], before)

/-- The result of an earlier member of the convoy for the next element group of m stands. -/
def VMem.made (m b : VMem) : Bool := b.e.fin || (b.f.writesInOrder && decide (m.nextProg ≤ b.e.prog))

/-- m lays its elements out as b does, so that their element groups agree byte by byte. -/
def VMem.aligned (m b : VMem) : Bool :=
  decide (m.e.vt = b.e.vt) && decide (m.e.sh = b.e.sh) && m.f.src.getD m.e.vt.wc == m.e.vt.wc && b.f.src.getD b.e.vt.wc == b.e.vt.wc

/-- m waits for nothing of an earlier member b of its convoy (R49). -/
def VMem.chained (m b : VMem) : Bool :=
  let w := b.f.writeRegs b.e.vt
  (!overlap w (m.regsOf true) || b.e.fin) && (!overlap w (m.regsOf false) || m.made b)
    && (!(b.f.toMask && m.f.readMasks.contains (b.f.vd.getD 8)) || m.made b)

/-- m waits for nothing of a member b of an earlier convoy: neither reads what b has yet to write, nor writes what b has yet
to read (R49, R52, R308).
DEDUCED, log entry 14. -/
def VMem.after (m b : VMem) : Bool :=
  let live := fun (l : List Nat) (x : VMem) => l.filter (fun r => !x.e.stale.regs.contains r)
  let liveMasks := fun (x : VMem) => x.f.readMasks.filter (fun n => !x.e.stale.masks.any (fun y => y.1 == n))
  let group := m.aligned b && decide (m.nextProg ≤ b.e.prog)
  b.e.fin ||
    ((!overlap (b.f.writeRegs b.e.vt) (live (m.regsOf true) m))
    && (!overlap (b.f.writeRegs b.e.vt) (live (m.regsOf false) m) || (group && b.f.writesInOrder && m.f.readsInOrder))
    && (!overlap (live (b.f.readRegs b.e.vt) b) (m.f.writeRegs m.e.vt) || (group && b.f.readsInOrder))
    && (!(b.f.toMask && (liveMasks m).contains (b.f.vd.getD 8)) || decide (m.nextProg ≤ b.e.prog))
    && !(b.f.e && (liveMasks m).contains b.f.me)
    && (!overlap (liveMasks b) m.f.writeMasks || decide (m.nextProg ≤ b.e.prog)))

/-- The token that m pops is read by no earlier member that is still behind its next element group (R49, R56). -/
def VMem.keepersDone (m : VMem) (before : List VMem) : Bool :=
  (m.f.pops m.e.vt).all (fun q => (List.range before.length).all (fun j => match before[j]? with
    | some b => b.e.fin || !(b.f.keeps b.e.vt).contains q || tokenIndex (before.take j) q != tokenIndex before q
        || decide (m.nextProg ≤ b.e.prog)
    | none => true))

/-- Member m may take its next step. -/
def VMem.ready (m : VMem) (s : State) (k : Nat) (before : List VMem) : Bool :=
  let c := s.crew k
  let own := splitConvoy before m
  (m.f.sources m.e.vt).all (m.dataReady c before)
    && own.1.all m.chained && own.2.all m.after && m.keepersDone before
    && (match m.f.vd.bind specPush with
        | none => true
        | some _ => m.e.vl == 0 || c.pushRoom (s.core (crewCore k)).q (groupSlots (max 1 m.e.sh.g) m.e.vt.wc))
    && (match m.f.tile with
        | none => true
        | some (t, _) => (m.rows m.e.prog m.hi).all (fun r =>
            rowReady s (crewCore k) t r (if m.e.prog = 0 then none else some m.e.mseq)))

/-! ### Writing the results of a step -/

/-- The registers of a register group after these elements are written. -/
def writeOuts (m : VMem) (outs : List (Nat × Nat × Nat)) (v : SMap VByte) : SMap VByte :=
  outs.foldl (fun v o => if o.1 < 64 then writeElem v (elemKeys m.e.vt m.e.sh m.e.vt.wc o.1 o.2.1) o.2.2 else v) v

/-- A mask with these bits written. -/
def writeBits (b : BitVec 16384) (l : List (Nat × Bool)) : BitVec 16384 :=
  l.foldl (fun b e => if b.getLsbD e.1 == e.2 then b else b ^^^ BitVec.ofNat 16384 (2 ^ e.1)) b

/-- Tokens of the queue that a destination pushes into, and their replacement. -/
def Crew.pushed (c : Crew) (n : Nat) : List Tok := if n = 4 then c.iq else c.sqAt n
def Crew.setPushed (c : Crew) (n : Nat) (l : List Tok) : Crew := if n = 4 then { c with iq := l } else c.setSq n l

/-- Append elements to the member's token: of the tokens of its queue that are still growing, the one after those of the
earlier members that push into it. -/
def pushGroup (before : List VMem) (m : VMem) (es : List Elem) (c : Crew) : Crew :=
  match m.f.vd.bind specPush with
  | none => c
  | some n =>
    let l := c.pushed n
    let j := (before.filter (fun b => !b.e.fin && b.f.vd.bind specPush == some n && decide (0 < b.e.vl))).length
    match ((List.range l.length).filter (fun i => match l[i]? with
        | some t => decide (t.elems.length < t.n)
        | none => false))[j]? with
    | none => c
    | some i => c.setPushed n (l.set i { l.getD i {} with elems := (l.getD i {}).elems ++ es })

/-- Slots of the groups that a popping member has read are free (R321). -/
def freeSlots (before : List VMem) (m : VMem) (hi : Nat) (c : Crew) : Crew :=
  (m.f.pops m.e.vt).foldl (fun c q =>
    let i := tokenIndex before q
    match (c.lqAt q)[i]? with
    | none => c
    | some t =>
      let n := if t.n = 0 then 0 else if t.n ≤ hi then t.groups else hi / max 1 t.gsz
      c.setLq q ((c.lqAt q).set i { t with freed := max t.freed (min n t.groups) })) c

/-- Pop the tokens of a member that has completed (R56, R111). -/
def popTokens (before : List VMem) (m : VMem) (c : Crew) : Crew :=
  (m.f.pops m.e.vt).foldl (fun c q => c.setLq q ((c.lqAt q).eraseIdx (tokenIndex before q))) c

/-- The scalar result of a member (R133, R137, R140). -/
def VMem.xresult (m : VMem) (part : Word) : Word :=
  match m.f.sem with
  | .reduce _ _ sx => if sx then sext (wbits m.e.vt.wc) part.toNat else part
  | .move (.ext sx) => if sx then sext (wbits m.e.vt.wc) part.toNat else part
  | _ => part

/-- Elements that a stale read of an SFU result does not cover: those of later element groups (R48, R145). -/
def patchSfu (m : VMem) (v : SMap VByte) (c : Crew) : Crew :=
  match m.f.pipe, m.f.vd.bind specReg with
  | some .sfu, some r =>
    let keys := ((List.range (m.e.vl - m.e.gsz)).map (m.e.gsz + ·)).flatMap (elemKeys m.e.vt m.e.sh m.e.vt.wc r)
    { c with vpend := c.vpend.map (fun p =>
        if p.old.regs.contains r then
          { p with old := { p.old with cells := keys.foldl (fun a n => put {} a n (get {} v n)) p.old.cells } }
        else p) }
  | _, _ => c

/-- The effects of a member's completion: scalar result, exception mask, zeros of vcompress, popped tokens. -/
def complete (before : List VMem) (m : VMem) (part : Word) (flags : List Nat) (v : SMap VByte) (c : Crew) :
    SMap VByte × Crew :=
  let v := match m.f.sem with
    | .move .compress =>
      writeOuts m ((List.range (m.e.vl - part.toNat)).map (fun i => (m.f.vd.getD 0, part.toNat + i, 0))) v
    | _ => v
  let c := match m.f.xd with
    | none => c
    | some d => { c with x := { c.x.write d ⟨m.xresult part, false⟩ 0 with busy := c.x.busy.erase d } }
  let c := if m.f.e then
      { c with masks := put 0 c.masks m.f.me (writeBits (get 0 c.masks m.f.me)
          ((List.range m.e.vl).map (fun i => (i, flags.contains i)))) }
    else c
  (v, popTokens before m (patchSfu m v c))

/-- Take the step of member j of the issued entries. Its first one captures the active bias bank (R149). -/
def applyStep (k j : Nat) (before : List VMem) (m : VMem) (o : GroupOut) (s : State) : State :=
  let core := s.core (crewCore k)
  let v := writeOuts m o.outs core.vregs
  let c := s.crew k
  let c := if m.f.toMask then
      { c with masks := put 0 c.masks (m.f.vd.getD 0) (writeBits (get 0 c.masks (m.f.vd.getD 0)) o.bits) }
    else c
  let c := freeSlots before m m.hi (pushGroup before m o.push c)
  let flags := m.e.flags ++ o.flags
  let first := m.e.prog = 0
  let e := { m.e with
    prog := m.nextProg, part := o.part, flags := flags, mseq := if first then s.jseq else m.e.mseq,
    bank := if first then core.act else m.e.bank }
  let r := if e.fin then complete before m o.part flags v c else (v, c)
  let c := { r.2 with viq := r.2.viq.set j e }
  let core := { core with vregs := r.1 }
  let core := match m.f.sem with
    | .tileWrite t =>
      let x := get {} core.tiles t
      { core with tiles := put {} core.tiles t { x with elems := o.tile.foldl (fun l e => put {} l e.1 ⟨e.2, false⟩) x.elems } }
    | _ => core
  (s.setCore (crewCore k) core).setCrew k c

/-! ### Traps of the VIQ (R398, R400, R403) -/

/-- The entry stays where it is under a trap of the VIQ: all but those that run to completion once they have issued. -/
def VEntry.holds (e : VEntry) : Bool :=
  match vform e.instr with
  | some f => !(f.mustFinish && decide (0 < e.prog))
  | none => true

/-- The entry waits for elements beyond its next element group. -/
def VEntry.hoards (e : VEntry) : Bool := (members [e]).any VMem.hoards

/-- The X-slice of a crew has trapped, and the trap is recorded (R402). -/
def Crew.xTrapped (c : Crew) : Bool := c.stop == .trap && (wbit c.trap.cause 12 || wbit c.trap.cause2 12)

/-- A VIQ trap of crew k in the convoy at position j of its VIQ: that convoy and the later entries are held, and the front
end stops where it is. Earlier entries go on. Members of the convoy that are behind the trapping one may still come up to its
element-group boundary; one that needs a source whole and has not begun may not. Where the X-slice has trapped already, the
convoy is only held: the registers keep one trap of each slice (R398, R402, R403).
DEDUCED, log entry 83. -/
def viqTrap (k j : Nat) (t : Trap) (s : State) : State :=
  s.modCrew k (fun c =>
    let c := if c.xTrapped then c else c.takeTrap true { t with hold := true, tval := ((c.viq[j]?).map (·.pc)).getD 0 }
    let l := c.viq.drop j
    let n := (convoyOf l).length
    { c with
      viq := c.viq.take j ++ (List.range l.length).filterMap (fun i => (l[i]?).map (fun e => { e with
        held := e.holds || i == t.member
        goal := if i < n ∧ i ≠ t.member ∧ !e.hoards then ((l[t.member]?).map (·.prog)).getD 0 else 0 }))
      x := if c.x.run = .running then { c.x with run := .halted, wait := none } else c.x })

/-! ### The advance of the issued entries (R49, R308, R398, R410) -/

/-- The VIQ of the crew works: it is not stopped, and under a pre-emption its front end has not stopped yet (R410).
DEDUCED, log entry 83. -/
def Crew.viqOn (c : Crew) : Bool := !c.parked && (c.stop != .preempt || c.x.run == .running)

/-- The members of the issued entries of a VIQ. -/
def Crew.flight (c : Crew) : List VMem := members (c.viq.takeWhile (·.issued))

/-- Groups that a waiting member will pop and that stand in the queue leave their slots as they arrive (R231, R327). -/
def arriving (before : List VMem) (m : VMem) (c : Crew) : Crew :=
  if m.hoards then
    (m.f.pops m.e.vt).foldl (fun c q =>
      freeSlots before { m with f := { m.f with va := some (0x40 + q), vb := none, vc := none } }
        (((tokenOf c before q).map (·.elems.length)).getD 0) c) c
  else c

/-- m uses a result of an earlier member b of its convoy, or pops a token that b reads as well (R49). -/
def VMem.uses (m b : VMem) : Bool :=
  overlap (b.f.writeRegs b.e.vt) (m.f.readRegs m.e.vt) || (b.f.toMask && m.f.readMasks.contains (b.f.vd.getD 8))
    || overlap (m.f.pops m.e.vt) (b.f.keeps b.e.vt)

/-- The members of a convoy with their levels: one that uses the result of a member that hoards, or that writes out of order, stands
a level above it. Members of one level advance together. -/
def levels : List (VMem × Nat) → List VMem → List (VMem × Nat)
  | acc, [] => acc
  | acc, m :: r =>
    let l := (acc.map (fun b => if m.uses b.1 then b.2 + flag (b.1.hoards || !b.1.f.writesInOrder) else 0)).foldl max 0
    levels (acc ++ [(m, l)]) r

/-- Member i of ms, which may not take its next step, waits for member j, an earlier one. -/
def waitsFor (ms : List VMem) (i j : Nat) : Bool :=
  match ms[i]?, ms[j]? with
  | some m, some b =>
    let before := ms.take i
    if i ≤ j + (splitConvoy before m).1.length then !m.chained b || (overlap (m.f.pops m.e.vt) (b.f.keeps b.e.vt) && !m.keepersDone before)
    else !m.after b
  | _, _ => false

/-- Positions of the members that go on whatever stops the others: those that run to completion once they have begun, and the
earlier members that they wait for (R138, R153, R398, R411). -/
def mustGo (ms : List VMem) : Nat → List Nat
  | 0 => []
  | n + 1 =>
    -- from the last member to the first
    let j := ms.length - (n + 1)
    let later := mustGo ms n
    match ms[j]? with
    | none => later
    | some m =>
      if !m.e.fin && ((m.f.mustFinish && decide (0 < m.e.prog) && !m.e.held) || later.any (fun i => waitsFor ms i j)) then j :: later
      else later

/-- Positions of the members that may move. A stopped VIQ moves those that must go on, and the members of a convoy that stand behind
others of it for their sake; a held member moves up to its goal (R398, R410, R411).
DEDUCED, log entry 83. -/
def movers (c : Crew) (ms : List VMem) : List Nat :=
  if c.parked then []
  else
    let go := mustGo ms ms.length
    (List.range ms.length).filter (fun j => match ms[j]? with
      | none => false
      | some m =>
        let mates := members (convoyOf ((c.viq.drop (j - (splitConvoy (ms.take j) m).1.length))))
        !m.e.fin && (go.contains j || (if m.e.held then decide (m.e.prog < m.e.goal)
          else c.viqOn || (!m.hoards && mates.any (fun b => !b.hoards && decide (m.e.prog < b.e.prog))))))

/-- Member j of the issued entries takes its next step, if it is ready. A POISON answers its position and the element; one that is
held waits at it instead. -/
def memberStep (k j : Nat) (s : State) : Except (Nat × Nat) (Option State) :=
  let ms := (s.crew k).flight
  match ms[j]? with
  | none => .ok none
  | some m =>
    if !m.ready s k (ms.take j) then .ok none
    else match m.step s k (ms.take j) with
      | .ok o => .ok (some (applyStep k j (ms.take j) m o s))
      | .error i => if m.e.held then .ok none else .error (j, i)

/-- These members take their next steps in order, all of them or none. -/
def stepAll (k : Nat) : List Nat → State → Except (Nat × Nat) (Option State)
  | [], s => .ok (some s)
  | j :: r, s => match memberStep k j s with
    | .ok (some s) => stepAll k r s
    | x => x

/-- Those of these members that may take their next steps, each for itself. A member that waits frees the slots of groups that have
arrived for it. The answer says whether anything happened. -/
def stepEach (k : Nat) : List Nat → State → Except (Nat × Nat) (Bool × State)
  | [], s => .ok (false, s)
  | j :: r, s =>
    let next := fun (b : Bool) (s : State) => match stepEach k r s with
      | .ok (b', s) => Except.ok (b || b', s)
      | .error x => .error x
    match memberStep k j s with
    | .error x => .error x
    | .ok (some s) => next true s
    | .ok none =>
      let ms := (s.crew k).flight
      match (ms[j]?).map (fun m => arriving (ms.take j) m (s.crew k)) with
      | some c => if c = s.crew k then next false s else next true (s.setCrew k c)
      | none => next false s

/-- The squads of a convoy at position j, in the order in which they advance: level by level the members that advance together, then
each of those that hoard for itself (R46, R132, R411).
DEDUCED, log entry 23. -/
def squads (j : Nat) (ms : List VMem) : List (List Nat) :=
  let lv := levels [] ms
  let at_ := fun (l : Nat) (h : Bool) => (List.range lv.length).filterMap (fun i => match lv[i]? with
    | some x => if x.2 == l && x.1.hoards == h then some (j + i) else none
    | none => none)
  (List.range lv.length).flatMap (fun l => at_ l false :: (at_ l true).map (fun i => [i]))

/-- The squads of a convoy take their next element groups. While nothing stops the convoy, the members of one squad stay at one
element-group boundary. -/
def advanceSquads (k : Nat) (together : Bool) : List (List Nat) → State → Except (Nat × Nat) (Bool × State)
  | [], s => .ok (false, s)
  | sq :: r, s =>
    let c := s.crew k
    let ps := sq.filter (movers c c.flight).contains
    match (if together && decide (1 < ps.length) then (stepAll k ps s).map (fun o => (o.isSome, o.getD s)) else stepEach k ps s) with
    | .error x => .error x
    | .ok (b, s) => match advanceSquads k together r s with
      | .error x => .error x
      | .ok (b', s) => .ok (b || b', s)

/-- The convoys of the issued entries from position j on: each takes its next element groups. -/
def advanceConvoys (k : Nat) : Nat → Nat → State → Except (Nat × Nat × Nat) (Bool × State)
  | 0, _, s => .ok (false, s)
  | n + 1, j, s =>
    let c := s.crew k
    let conv := convoyOf ((c.viq.takeWhile (·.issued)).drop j)
    if conv.isEmpty then .ok (false, s)
    else match advanceSquads k (c.viqOn && conv.all (fun e => !e.held)) (squads j (members conv)) s with
      | .error (i, e) => .error (j, i - j, e)
      | .ok (b, s) =>
        if bitOf (s.crew k).estep 0 then .ok (b, s)
        else match advanceConvoys k n (j + conv.length) s with
          | .ok (b', s) => .ok (b' || b, s)
          | .error x => .error x

/-- The convoys that have completed leave the VIQ. -/
def retireConvoys : Nat → List VEntry → List VEntry
  | 0, l => l
  | n + 1, l =>
    let conv := convoyOf l
    if conv.isEmpty ∨ !(conv.all (·.issued)) then l
    else (if conv.all (·.fin) then [] else conv) ++ retireConvoys n (l.drop conv.length)

/-- ESTEP after an element group: what is left is held (R418). The X-slice records one trap (R402, R403). -/
def stepGroup (k : Nat) (s : State) : State :=
  let c := s.crew k
  if bitOf c.estep 0 && !c.xTrapped then
    s.modCrew k (fun c =>
      let held := c.viq.head?.map (·.prog)
      let c := c.takeTrap true { code := Cause.estep, elem := held, hold := held.isSome, tval := (c.viq.head?.map (·.pc)).getD 0 }
      { c with viq := c.viq.map (fun e => { e with held := true, goal := 0 }),
               x := if c.x.run = .running then { c.x with run := .halted, wait := none } else c.x })
  else s

/-- A convoy that is entering the VIQ is one issue of the front end: nothing else of the crew's VIQ happens meanwhile. -/
def elementGroupAdvanceEv (k : Nat) (s : State) : Option State :=
  if convoyOpen s k then none
  else match advanceConvoys k 16 0 s with
    | .ok (true, s) => some (stepGroup k (s.modCrew k (fun c => { c with viq := retireConvoys 16 c.viq })))
    | .ok (false, _) => none
    | .error (c, j, i) => some (viqTrap k c { code := Cause.poison, elem := some i, member := j } s)

/-- R308: the members of the issued convoys take their next element groups. -/
def execElementGroupAdvance (k : Nat) (s : State) : Out := .next ((elementGroupAdvanceEv k s).getD s)

/-! ### Issue of the head convoy (R47, R49 to R52, R234, R308) -/

/-- The first member that breaks a rule of R47. -/
def convoyFault : List VMem → List VMem → Option Nat
  | _, [] => none
  | before, m :: r =>
    let all := before ++ [m]
    let n := fun (p : Pipe) => (all.filter (fun b => b.f.pipe == some p)).length
    let limit := match m.f.pipe with
      | some .fma => n .fma > 2
      | some p => n p > 1
      | none => false
    if m.e.bad || decide (before.length ≥ 6)
      || before.any (fun b => overlap (b.f.writeRegs b.e.vt) (m.f.writeRegs m.e.vt) || overlap b.f.writeMasks m.f.writeMasks)
      || limit then some before.length
    else convoyFault all r

/-- What the queues of a convoy say as it would issue: the first member that misses a token, or whose token breaks
R233. -/
inductive TokenCheck where
  | fine
  | missing (member queue : Nat)
  /-- A marker, or a token whose first element group has not arrived. -/
  | late
  | wrong (member queue : Nat) (info : Word)

/-- DEDUCED, log entry 84. -/
def checkTokens (c : Crew) : List VMem → List VMem → TokenCheck
  | _, [] => .fine
  | before, m :: r =>
    let here := (m.f.queues m.e.vt).findSome? (fun o => match tokenOf c before o.1 with
      | none => some (TokenCheck.missing before.length o.1)
      | some t =>
        if t.marker || decide (t.elems.length < min t.n t.gsz) then some .late
        else match m.f.sem with
          | .drop => none
          | _ => if t.n ≠ m.e.vl ∨ t.wc ≠ o.2 then
              some (.wrong before.length o.1 (qlenInfo t m.e.vl o.2)) else none)
    match here with
    | some x => x
    | none => checkTokens c (before ++ [m]) r

/-- Outstanding vector results once another convoy issues (R50). -/
def agePends (c : Crew) : List VPend :=
  (c.vpend.map (fun p => { p with left := p.left - c.vdist })).filter (fun p => p.left != 0)

/-- Registers and masks that a member reads and that no earlier member of its convoy produces. -/
def outsideRegs (before : List VMem) (m : VMem) : List Nat :=
  (m.f.readRegs m.e.vt).filter (fun r => !before.any (fun b => (b.f.writeRegs b.e.vt).contains r))
def outsideMasks (before : List VMem) (m : VMem) : List Nat :=
  m.f.readMasks.filter (fun r => !before.any (fun b => b.f.toMask && b.f.vd == some r))

/-- The first member that reads an outstanding result at too short a distance (R52). -/
def stallFault (ps : List VPend) : List VMem → List VMem → Option Nat
  | _, [] => none
  | before, m :: r =>
    if ps.any (fun p => overlap p.old.regs (outsideRegs before m) || overlap (p.old.masks.map (·.1)) (outsideMasks before m)) then
      some before.length
    else stallFault ps (before ++ [m]) r

def cellsOfRegs (v : SMap VByte) (rs : List Nat) : SMap VByte := v.filter (fun e => rs.contains (keyReg e.1))

/-- Old contents that a member reads: of outstanding results (R52), of registers and masks that later members write, and
of the masks that any member writes as its exception mask (R49, R116).
DEDUCED, log entry 22. -/
def staleOf (core : Core) (c : Crew) (ps : List VPend) (before : List VMem) (m : VMem) (after : List VMem) : Overlay :=
  let own := match m.f.sem with
    | .broadcast => m.f.writeRegs m.e.vt
    | _ => []
  let regs := outsideRegs before m
  let later := (after.flatMap (fun b => b.f.writeRegs b.e.vt) ++ own).filter (fun r => regs.contains r)
  let pend := ps.map (fun p => (p.old.regs.filter (fun r => regs.contains r), p.old.cells))
  let pregs := pend.flatMap (·.1)
  let now := later.filter (fun r => !pregs.contains r)
  let masks := outsideMasks before m
  let pm := ps.flatMap (fun p => p.old.masks.filter (fun e => masks.contains e.1))
  let lm := (after.flatMap (fun b => b.f.writeMasks)
    ++ (before ++ [m]).flatMap (fun b => if b.f.e then [b.f.me] else [])).filter (fun r => masks.contains r && !pm.any (fun e => e.1 == r))
  { regs := pregs ++ now,
    cells := (pend.map (fun e => cellsOfRegs e.2 e.1) ++ [cellsOfRegs core.vregs now]).foldl
      (fun a l => l.foldl (fun a e => put {} a e.1 e.2) a) [],
    masks := (pm ++ lm.eraseDups.map (fun r => (r, get 0 c.masks r))).foldl (fun a e => ins a e.1 e.2) [] }

/-- The result of a member as it becomes outstanding. -/
def pendOf (core : Core) (c : Crew) (m : VMem) : Option VPend :=
  if m.f.lat = 0 then none
  else
    let w := m.f.writeRegs m.e.vt
    some {
      old := {
        regs := w
        cells := cellsOfRegs core.vregs w
        masks := if m.f.toMask then [(m.f.vd.getD 0, get 0 c.masks (m.f.vd.getD 0))] else [] }
      left := m.f.lat }

/-- A member as it issues. -/
def issueMember (core : Core) (c : Crew) (ps : List VPend) (before : List VMem) (m : VMem) (after : List VMem) : VEntry :=
  let part := match m.f.sem with
    | .reduce .. | .scan .. => BitVec.ofNat 64 (low m.e.vt.wc m.xv)
    | _ => 0
  let part := match m.f.sem with
    | .drop => BitVec.ofNat 64 ((((m.f.pops m.e.vt).head?.bind (tokenOf c before)).map (·.n)).getD 0)
    | _ => part
  { m.e with issued := true, part := part, stale := staleOf core c ps before m after }

def issueAll (core : Core) (c : Crew) (ps : List VPend) : List VMem → List VMem → List VEntry
  | _, [] => []
  | before, m :: r => issueMember core c ps before m r :: issueAll core c ps (before ++ [m]) r

/-- Open the tokens that the members push (R114, R231). -/
def openTokens (ms : List VMem) (c : Crew) : Crew :=
  ms.foldl (fun c m => match m.f.vd.bind specPush with
    | none => c
    | some n =>
      let g := max 1 m.e.sh.g
      c.setPushed n (c.pushed n ++ [{ n := m.e.vl, wc := m.e.vt.wc, gsz := 8 * g, spg := groupSlots g m.e.vt.wc }])) c

/-- Slots that the first element groups of the pushes need. -/
def firstSlots (ms : List VMem) : Nat :=
  (ms.map (fun m => if (m.f.vd.bind specPush).isSome then groupSlots (max 1 m.e.sh.g) m.e.vt.wc else 0)).foldl (· + ·) 0

/-- The convoy at position j of the VIQ issues. -/
def issueConvoy (k j : Nat) (ms : List VMem) (s : State) : State :=
  let core := s.core (crewCore k)
  let c := s.crew k
  let ps := agePends c
  let es := issueAll core c ps [] ms
  let regs := ms.flatMap (fun m => m.f.writeRegs m.e.vt)
  let masks := ms.flatMap (fun m => m.f.writeMasks)
  let kept := ps.map (fun p => { p with old := { p.old with
    regs := p.old.regs.filter (fun r => !regs.contains r), masks := p.old.masks.filter (fun e => !masks.contains e.1) } })
  (s.modCore (crewCore k) (fun x => { x with vlast := crewSlot k })).setCrew k { openTokens ms c with
    viq := c.viq.take j ++ es ++ c.viq.drop (j + es.length), vpend := kept ++ ms.filterMap (pendOf core c),
    vdist := 1 + (ms.map (·.e.st)).foldl max 0 }

/-- Members of the core's crews that hold their pipes: issued, not complete, and not stopped (R308). -/
def pipeUsers (s : State) (core : Nat) : List VMem :=
  (coreCrews core).flatMap (fun k =>
    let c := s.crew k
    if c.parked then [] else c.flight.filter (fun m => !m.e.fin && !m.e.held))

/-- The pipes that the members of a convoy need are free: of the FMA pipes and the integer/ALU pipe the segments of their
lane groups, of the others the whole pipe of the core (R48, R308). -/
def pipesFree (s : State) (k : Nat) (ms : List VMem) : Bool :=
  let users := pipeUsers s (crewCore k) ++ ms
  ms.all (fun m => match m.f.unit with
    | none => true
    | some p =>
      let same := users.filter (fun u => u.f.unit == some p)
      if p == .fma || p == .alu then
        (List.range 8).all (fun j => !m.e.sh.has j
          || decide ((same.filter (·.e.sh.has j)).length ≤ (if p == .fma then 2 else 1)))
      else decide (same.length ≤ 1))

/-- The convoy writes no register and no mask that an entry before it has yet to write; and an outstanding result of the
special-function pipe that it reads too early stands complete, so that only the first element group is an old one (R48,
R52).
DEDUCED, log entry 14. -/
def earlierDone (c : Crew) (ms : List VMem) : Bool :=
  let live := c.flight.filter (fun b => !b.e.fin)
  live.all (fun b =>
    !overlap (b.f.writeRegs b.e.vt) (ms.flatMap (fun m => m.f.writeRegs m.e.vt))
    && !overlap b.f.writeMasks (ms.flatMap (·.f.writeMasks))
    && !(b.f.unit == some .sfu && (agePends c).any (fun p =>
        overlap p.old.regs (b.f.writeRegs b.e.vt) && overlap p.old.regs (ms.flatMap (fun m => m.f.readRegs m.e.vt)))))

/-- The tokens that a convoy reads are those at the heads of its queues: no earlier entry that pops one of them is still at work (R308,
R327). -/
def headTokens (c : Crew) (ms : List VMem) : Bool :=
  (c.flight.filter (fun b => !b.e.fin)).all (fun b =>
    !overlap (b.f.pops b.e.vt) (ms.flatMap (fun m => (m.f.queues m.e.vt).map (·.1))))

/-- A lane group that members of a convoy use is gated (R431). -/
def gatedFor (s : State) (core : Nat) (ms : List VMem) : List Nat :=
  (List.range 8).filter (fun j => bitOf (s.core core).lgate j && ms.any (fun m => m.e.sh.has j))

/-- The oldest unissued convoy of a VIQ: what it does as it issues, and whether its pipes and lane groups let it do so now.
DEDUCED, log entry 14. -/
def viqHead (k : Nat) (s : State) : Option (Bool × State) :=
  let c := s.crew k
  let j := c.flight.length
  let conv := convoyOf (c.viq.drop j)
  if c.vheld || !c.viqOn || conv.isEmpty || convoyOpen s k || (bitOf c.estep 0 && decide (0 < j)) then none
  else
    let ms := members conv;
    match convoyFault [] ms with
    | some i => some (true, viqTrap k j { code := Cause.convoy, elem := some 0, member := i } s)
    | none =>
      if !headTokens c ms then none else match checkTokens c c.flight ms with
      | .late => none
      | .missing i q =>
        if c.a.run == .exited && !c.aPending then
          some (true, viqTrap k j { code := Cause.qresid, reason := 5, elem := some 0, member := i - j, queue := q } s)
        else none
      | .wrong i q info =>
        some (true, viqTrap k j { code := Cause.qlen, elem := some 0, member := i - j, queue := q, cinfo := info } s)
      | .fine =>
        match (if (s.core (crewCore k)).ckstall then stallFault (agePends c) [] ms else none) with
        | some i => some (true, viqTrap k j { code := Cause.stall, elem := some 0, member := i } s)
        | none =>
          if !earlierDone c ms ∨ (firstSlots ms ≠ 0 ∧ !c.pushRoom (s.core (crewCore k)).q (firstSlots ms)) then none
          else some ((gatedFor s (crewCore k) ms).isEmpty && pipesFree s k ms, issueConvoy k j ms s)

def viqHeadIssueEv (k : Nat) (s : State) : Option State :=
  match viqHead k s with
  | some (true, s') => some s'
  | _ => none

/-- Nothing of the VIQ can move, and it does not only wait for a pipe or for lane groups to wake. -/
def viqStuck (s : State) (k : Nat) : Bool := (elementGroupAdvanceEv k s).isNone && (viqHead k s).isNone

/-- R308: the head convoy of a VIQ issues. -/
def execViqHeadIssue (k : Nat) (s : State) : Out := .next ((viqHeadIssueEv k s).getD s)

/-! ### Entry into the VIQ (R46, R50, R110, R186, R399) -/

/-- A queue whose token the instruction would read is empty, or holds a marker in its place. -/
def missingToken (c : Crew) (f : VForm) (t : VType) : Option (Nat × Bool) :=
  (f.queues t).findSome? (fun o => match tokenOf c (members c.viq) o.1 with
    | none => some (o.1, false)
    | some x => if x.marker then some (o.1, true) else none)

/-- TRANGE and TILEOFF of a tile slice (R160, R186). Where both hold, TRANGE is raised.
DESIGN CHOICE, log entry 112. -/
def tileTrap (s : State) (f : VForm) (x vl : Nat) : Option Trap :=
  match f.tile with
  | none => none
  | some (t, _) =>
    let tl := get {} (s.core s.myCore).tiles t
    if x + vl > 16384 then some { code := Cause.trange }
    else if !tl.en then some { code := Cause.tileoff, reason := 1 }
    else if tl.slot ≠ crewSlot s.me then some { code := Cause.tileoff, reason := 2 }
    else none

/-- The members that follow one of a convoy, after which the sequencer stands at q with this link: their instructions, and the lines
that q then holds. None while the line of one must be waited for; the state answered is that of the fetches (R46). -/
def followers (k : Nat) : Nat → Seqr → Word → State → Option (List Instr × List (Nat × List VByte)) × State
  | 0, q, _, s => (some ([], q.lines), s)
  | n + 1, q, link, s =>
    let r := q.advance { s.cur with link := link } true
    match joinAt s k r with
    | .no => (some ([], q.lines), s)
    | .wait => (none, s.carry (lineFrom s k r.lines r.pc).2)
    | .yes i link held =>
      match followers k n { r with lines := held } link (lineFrom s k r.lines r.pc).2 with
      | (some (l, lines), s) => (some (i :: l, if r.taken then q.lines else lines), s)
      | (none, t) => (none, s.carry t)

/-- Push the entry; the instruction is done once it stands in the VIQ. A convoy is one issue, with the largest st of its
members: the distance passes as its last member enters (R50). A member that follows the end of a loop body breaks the convoy, whether
the loop goes on or is left (R47).
DEDUCED, log entry 110. -/
def pushEntry (i : Instr) (f : VForm) (xs : SMap Scalar) (s : State) : State :=
  let q := s.seqr
  let e : VEntry := { instr := i, pc := q.pc, st := s.cur.st, join := s.cur.c && q.elig,
                      bad := s.cur.c && (q.taken || q.iter || !q.elig),
                      vl := q.vl, vt := q.vtype, sh := q.share, xs := xs, rnull := (s.core s.myCore).rnull }
  let s := s.modMe (fun c => { c with
    viq := c.viq ++ [e]
    x := { c.x with busy := (f.xd.toList.filter (fun d => d != 0)) ++ c.x.busy } })
  let s := s.modSeqr (fun q => q.advance s.cur f.pipe.isSome)
  if convoyOpen s s.me then s
  else s.modSeqr (fun q => q.tick (((lastConvoy s.myCrew.viq).map (·.st)).foldl max 0))

/-- The members that enter the VIQ with an instruction, and the state with their lines fetched; none while a line must be waited
for. A member after the first entered with its leader (R46). -/
def joined (f : VForm) (s : State) : Option (List Instr) × State :=
  if (s.cur.c && s.seqr.elig) || f.pipe.isNone then (some [], s)
  else match followers s.me 6 s.seqr s.cur.link s with
    | (some (l, lines), t) => (some l, t.modSeqr (fun q => { q with lines := lines }))
    | (none, t) => (none, t)

/-- The VIQ has a free entry for every member of the convoy that begins here, rest being those that follow, and none of them waits
for a captured register (R46, R307, R466). The members enter in one cycle: a register that an earlier member of the convoy writes is
captured with its old value.
DESIGN CHOICE, log entry 111. -/
def enterReady (f : VForm) (rest : List Instr) (s : State) : Bool :=
  decide (s.myCrew.viq.length + 1 + rest.length ≤ Config.viqSize)
    && ((s.cur.c && s.seqr.elig) || !s.seqr.blocked (f.captures ++ rest.flatMap (fun i => ((vform i).map VForm.captures).getD [])))

/-- The shared meaning of every instruction that enters the VIQ. Every check is made in the cycle of entry (R110, R186, R307):
first the captured registers, then the type, the tile and the tokens.
DEDUCED, log entries 26 and 92. -/
def enterViq (i : Instr) (s : State) : Out :=
  inX s (match vform i with
    | none => done s
    | some f => match joined f s with
    | (none, t) => waitAt i t
    | (some rest, t) => if !enterReady f rest s then waitAt i s else readRegs f.captures s (fun vs =>
      let s := t
      let c := s.myCrew
      let q := s.seqr
      let xs := (f.captures.zip vs).foldl (fun m e => put {} m e.1 ⟨e.2, false⟩) []
      if f.badType q.vtype then raise { code := Cause.badtype } s
      else match tileTrap s f (get {} xs (f.xs.getD 0)).v.toNat q.vl with
        | some t => raise t s
        | none =>
          match missingToken c f q.vtype with
          | some (n, marker) =>
            if !marker && c.a.run == .exited && !c.aPending then
              raise { code := Cause.qresid, reason := 5, queue := n } s
            else if c.stop == .trap && c.a.run == .halted && (marker || !c.aPending) then markerStop i s
            else if c.stop == .trap && c.a.run == .halted then waitAt i s
            else .next (pushEntry i f xs s)
          | none => .next (pushEntry i f xs s)))

/-! ### The vector instructions: each enters the VIQ in its own form -/

/-- VADD (R42, R43, R44, R55). -/
def execVadd (f : T32d) (s : State) : Out := enterViq (.vadd f) s

/-- VSUB (R117). -/
def execVsub (f : T32d) (s : State) : Out := enterViq (.vsub f) s

/-- VMUL (R117). -/
def execVmul (f : T32d) (s : State) : Out := enterViq (.vmul f) s

/-- VMULH (R117). -/
def execVmulh (f : T32d) (s : State) : Out := enterViq (.vmulh f) s

/-- VAND (R117). -/
def execVand (f : T32d) (s : State) : Out := enterViq (.vand f) s

/-- VOR (R117). -/
def execVor (f : T32d) (s : State) : Out := enterViq (.vor f) s

/-- VXOR (R117). -/
def execVxor (f : T32d) (s : State) : Out := enterViq (.vxor f) s

/-- VSLL (R117). -/
def execVsll (f : T32d) (s : State) : Out := enterViq (.vsll f) s

/-- VSRL (R117). -/
def execVsrl (f : T32d) (s : State) : Out := enterViq (.vsrl f) s

/-- VSRA (R117). -/
def execVsra (f : T32d) (s : State) : Out := enterViq (.vsra f) s

/-- VMIN (R117). -/
def execVmin (f : T32d) (s : State) : Out := enterViq (.vmin f) s

/-- VMAX (R117). -/
def execVmax (f : T32d) (s : State) : Out := enterViq (.vmax f) s

/-- VMINU (R117). -/
def execVminu (f : T32d) (s : State) : Out := enterViq (.vminu f) s

/-- VMAXU (R117). -/
def execVmaxu (f : T32d) (s : State) : Out := enterViq (.vmaxu f) s

/-- VCMP (R118). -/
def execVcmp (f : T48b) (s : State) : Out := enterViq (.vcmp f) s

/-- VSEL (R119). -/
def execVsel (f : T32d) (s : State) : Out := enterViq (.vsel f) s

/-- VMV (R120). -/
def execVmv (f : T32d) (s : State) : Out := enterViq (.vmv f) s

/-- VBC (R120). -/
def execVbc (f : T32d) (s : State) : Out := enterViq (.vbc f) s

/-- VID (R121). -/
def execVid (f : T32d) (s : State) : Out := enterViq (.vid f) s

/-- VIOTA (R121). -/
def execViota (f : T32d) (s : State) : Out := enterViq (.viota f) s

/-- VICVT (R109, R122). -/
def execVicvt (f : T48b) (s : State) : Out := enterViq (.vicvt f) s

/-- VFADD (R70, R71, R72, R108). -/
def execVfadd (f : T32d) (s : State) : Out := enterViq (.vfadd f) s

/-- VFSUB (R124). -/
def execVfsub (f : T32d) (s : State) : Out := enterViq (.vfsub f) s

/-- VFMUL (R124). -/
def execVfmul (f : T32d) (s : State) : Out := enterViq (.vfmul f) s

/-- VFMA (R70, R124). -/
def execVfma (f : T48b) (s : State) : Out := enterViq (.vfma f) s

/-- VFMS (R124). -/
def execVfms (f : T48b) (s : State) : Out := enterViq (.vfms f) s

/-- VFNMA (R124). -/
def execVfnma (f : T48b) (s : State) : Out := enterViq (.vfnma f) s

/-- VFDIV (R124). -/
def execVfdiv (f : T32d) (s : State) : Out := enterViq (.vfdiv f) s

/-- VFSQRT (R124). -/
def execVfsqrt (f : T32d) (s : State) : Out := enterViq (.vfsqrt f) s

/-- VFMIN (R125). -/
def execVfmin (f : T32d) (s : State) : Out := enterViq (.vfmin f) s

/-- VFMAX (R125). -/
def execVfmax (f : T32d) (s : State) : Out := enterViq (.vfmax f) s

/-- VFSGN (R126). -/
def execVfsgn (f : T32d) (s : State) : Out := enterViq (.vfsgn f) s

/-- VFCMP (R127). -/
def execVfcmp (f : T48b) (s : State) : Out := enterViq (.vfcmp f) s

/-- VFCVT (R73, R109, R128). -/
def execVfcvt (f : T48b) (s : State) : Out := enterViq (.vfcvt f) s

/-- VFCLASS (R129). -/
def execVfclass (f : T48b) (s : State) : Out := enterViq (.vfclass f) s

/-- VFEXP2 (R144). -/
def execVfexp2 (f : T32d) (s : State) : Out := enterViq (.vfexp2 f) s

/-- VFLOG2 (R144). -/
def execVflog2 (f : T32d) (s : State) : Out := enterViq (.vflog2 f) s

/-- VFRCP (R144). -/
def execVfrcp (f : T32d) (s : State) : Out := enterViq (.vfrcp f) s

/-- VFRSQ (R144). -/
def execVfrsq (f : T32d) (s : State) : Out := enterViq (.vfrsq f) s

/-- VFTANH (R144). -/
def execVftanh (f : T32d) (s : State) : Out := enterViq (.vftanh f) s

/-- VFSIGM (R144). -/
def execVfsigm (f : T32d) (s : State) : Out := enterViq (.vfsigm f) s

/-- VFERF (R144). -/
def execVferf (f : T32d) (s : State) : Out := enterViq (.vferf f) s

/-- VCOMPRESS (R131, R132, R133). -/
def execVcompress (f : T48b) (s : State) : Out := enterViq (.vcompress f) s

/-- VEXPAND (R131, R134). -/
def execVexpand (f : T32d) (s : State) : Out := enterViq (.vexpand f) s

/-- VSLUP (R131, R135). -/
def execVslup (f : T48b) (s : State) : Out := enterViq (.vslup f) s

/-- VSLDN (R131, R135). -/
def execVsldn (f : T48b) (s : State) : Out := enterViq (.vsldn f) s

/-- VRGAT (R131, R136). -/
def execVrgat (f : T32d) (s : State) : Out := enterViq (.vrgat f) s

/-- VEXT (R131, R137). -/
def execVext (f : T48b) (s : State) : Out := enterViq (.vext f) s

/-- VINS (R131, R137). -/
def execVins (f : T48b) (s : State) : Out := enterViq (.vins f) s

/-- VREDSUM (R139, R140). -/
def execVredsum (f : T48b) (s : State) : Out := enterViq (.vredsum f) s

/-- VREDMAX (R139, R140). -/
def execVredmax (f : T48b) (s : State) : Out := enterViq (.vredmax f) s

/-- VREDMIN (R139, R140). -/
def execVredmin (f : T48b) (s : State) : Out := enterViq (.vredmin f) s

/-- VFREDSUM (R139, R140). -/
def execVfredsum (f : T48b) (s : State) : Out := enterViq (.vfredsum f) s

/-- VFREDMAX (R139, R140). -/
def execVfredmax (f : T48b) (s : State) : Out := enterViq (.vfredmax f) s

/-- VFREDMIN (R139, R140). -/
def execVfredmin (f : T48b) (s : State) : Out := enterViq (.vfredmin f) s

/-- VSCAN (R139, R141). -/
def execVscan (f : T48b) (s : State) : Out := enterViq (.vscan f) s

/-- VFSCAN (R139, R141). -/
def execVfscan (f : T48b) (s : State) : Out := enterViq (.vfscan f) s

/-- VTRD (R160, R186, R187, R190). -/
def execVtrd (f : T32g) (s : State) : Out := enterViq (.vtrd f) s

/-- VTCD (R160, R186, R187). -/
def execVtcd (f : T32g) (s : State) : Out := enterViq (.vtcd f) s

/-- VTWR (R160, R186, R188). -/
def execVtwr (f : T32g) (s : State) : Out := enterViq (.vtwr f) s

/-- VRINS (R150). -/
def execVrins (f : T48b) (s : State) : Out := enterViq (.vrins f) s

/-- VRCLS (R147, R151). -/
def execVrcls (f : T48b) (s : State) : Out := enterViq (.vrcls f) s

/-- VRPICK (R152). -/
def execVrpick (f : T48b) (s : State) : Out := enterViq (.vrpick f) s

/-- VIQ (R328). -/
def execViq (f : T32g) (s : State) : Out := enterViq (.viq f) s

/-- VQDROP (R327). -/
def execVqdrop (f : T32g) (s : State) : Out := enterViq (.vqdrop f) s

end Sys2Proof.Machine
end

