-- ==== Sys2Proof/Machine/Flags.lean ====
section
/-!
DEFINITION. The mask registers, which are the flags of the vector unit: the mask instructions (R130) and the mask summary
sent to the A-slice (R331).
-/
namespace Sys2Proof.Machine

/-- Some VIQ entry that has not completed writes one of these masks, or reads one where reads count. -/
def maskPending (c : Crew) (ms : List Nat) (reads : Bool) : Bool :=
  (members c.viq).any (fun m => !m.e.fin && (overlap m.f.writeMasks ms || (reads && overlap m.f.readMasks ms)))

/-- A mask with bits 0 to vl - 1 replaced. -/
def maskMerge (vl : Nat) (old new : BitVec 16384) : BitVec 16384 :=
  let below := BitVec.ofNat 16384 (2 ^ vl - 1)
  (old &&& ~~~below) ||| (new &&& below)

/-- The number of bits set below vl. -/
def maskCount (m : BitVec 16384) (vl : Nat) : Nat := ((List.range vl).filter (fun i => m.getLsbD i)).length

/-- The shape of a mask instruction: it reads and writes the masks named, and waits for the VIQ entries that use them. -/
def maskInstr (i : Instr) (named : List Nat) (rs ws : List Nat) (s : State) (k : List Word → Out) : Out :=
  inX s (useRegs i rs ws s (fun vs => if maskPending s.myCrew named true then waitAt i s else k vs))

/-- md receives bits below vl. Where a vector result in md is still outstanding, it matures as a whole, the bits at and beyond vl
too (R52, R130).
DESIGN CHOICE, log entry 115. -/
def setMask (n : Nat) (v : BitVec 16384) (s : State) : State :=
  s.modMe (fun c => { c with
    masks := put 0 c.masks n (maskMerge c.x.vl (get 0 c.masks n) v)
    vpend := c.vpend.map (fun p => { p with old := { p.old with masks := del p.old.masks n } }) })

def State.mask (s : State) (n : Nat) : BitVec 16384 := get 0 s.myCrew.masks n

/-- Two-source mask instructions. -/
def maskBinary (i : Instr) (f : T16b) (op : BitVec 16384 → BitVec 16384 → BitVec 16384) (s : State) : Out :=
  maskInstr i [f.md.toNat, f.ma.toNat, f.mb.toNat] [] [] s (fun _ =>
    done (setMask f.md.toNat (op (s.mask f.ma.toNat) (s.mask f.mb.toNat)) s))

/-- MAND (R130). -/
def execMand (f : T16b) (s : State) : Out := maskBinary (.mand f) f (fun a b => a &&& b) s

/-- MOR (R130). -/
def execMor (f : T16b) (s : State) : Out := maskBinary (.mor f) f (fun a b => a ||| b) s

/-- MXOR (R130). -/
def execMxor (f : T16b) (s : State) : Out := maskBinary (.mxor f) f (fun a b => a ^^^ b) s

/-- MNOT (R130). -/
def execMnot (f : T16b) (s : State) : Out :=
  maskInstr (.mnot f) [f.md.toNat, f.ma.toNat] [] [] s (fun _ =>
    done (setMask f.md.toNat (~~~(s.mask f.ma.toNat)) s))

/-- MPOP (R130). -/
def execMpop (f : T16b) (s : State) : Out :=
  maskInstr (.mpop f) [f.ma.toNat] [] [f.x.toNat] s (fun _ =>
    done (s.setR f.x.toNat (BitVec.ofNat 64 (maskCount (s.mask f.ma.toNat) s.seqr.vl)) 1))

/-- MFIRST (R130). -/
def execMfirst (f : T16b) (s : State) : Out :=
  maskInstr (.mfirst f) [f.ma.toNat] [] [f.x.toNat] s (fun _ =>
    done (s.setR f.x.toNat (match (List.range s.seqr.vl).find? (fun i => (s.mask f.ma.toNat).getLsbD i) with
      | some i => BitVec.ofNat 64 i
      | none => -1) 1))

/-- MSET (R130). -/
def execMset (f : T16b) (s : State) : Out :=
  maskInstr (.mset f) [f.md.toNat] [f.x.toNat] [] s (fun vs =>
    done (setMask f.md.toNat (BitVec.ofNat 16384 (2 ^ (min 16384 (vs.getD 0 0).toNat) - 1)) s))

/-- The summary of a mask (R331). -/
def maskSummary (kind vl : Nat) (m : BitVec 16384) (neg : Bool) : Nat :=
  let n := ((List.range vl).filter (fun i => m.getLsbD i != neg)).length
  match kind with
  | 0 => if n = 0 then 0 else 1
  | 1 => if n = vl then 1 else 0
  | _ => n

/-- VBRQ (R331). -/
def execVbrq (f : T32g) (s : State) : Out :=
  let i := Instr.vbrq f
  inX s (useRegs i [] [f.x.toNat] s (fun _ =>
    if maskPending s.myCrew [f.m.toNat] false then waitAt i s
    else if s.myCrew.bq.length ≥ Config.bqSize then queueWait i 14 false s
    else
      let v := BitVec.ofNat 64 (maskSummary (bitsOf f.imm.toNat 0 2) s.seqr.vl (s.mask f.m.toNat) f.mn)
      done ((s.modMe (fun c => { c with bq := c.bq ++ [v] })).setR f.x.toNat v 0)))

end Sys2Proof.Machine
end

