-- ==== Sys2Proof/Machine/Nodes.lean ====
section
/-!
DEFINITION. Node records (R343 to R346), and the completion of nodes (R350, R358, R359).
-/
namespace Sys2Proof.Machine

/-! ### Node records (R343 to R346): 32 words of 8 bytes -/

abbrev Record := List Word

def recWord (r : Record) (i : Nat) : Nat := (r.getD i 0).toNat
def recType (r : Record) : Nat := bitsOf (recWord r 0) 0 2
def recPrio (r : Record) : Nat := bitsOf (recWord r 0) 2 2
def recNreg (r : Record) : Nat := bitsOf (recWord r 0) 4 4
def recNedge (r : Record) : Nat := bitsOf (recWord r 0) 8 3
def recChain (r : Record) : Bool := bitOf (recWord r 0) 11
def recPass (r : Record) : Bool := bitOf (recWord r 0) 12
def recCtxen (r : Record) : Bool := bitOf (recWord r 0) 13
def recCtx (r : Record) : Nat := bitsOf (recWord r 0) 32 8
def recEdge (r : Record) (e : Nat) : Nat := bitsOf (recWord r 1) (16 * e) 16
def recPhandle (r : Record) : Nat := bitsOf (recWord r 2) 0 16

/-- Region k: base, length, read, written. -/
structure Region where
  base : Nat
  len  : Nat
  rd   : Bool
  wr   : Bool

def recRegion (r : Record) (k : Nat) : Region :=
  ⟨recWord r (4 + 2 * k), bitsOf (recWord r (5 + 2 * k)) 0 32, bitOf (recWord r (5 + 2 * k)) 32, bitOf (recWord r (5 + 2 * k)) 33⟩

/-- A level of a launch header: width, extent, binding. -/
structure Level where
  width : Nat
  ext   : Nat
  bind  : Nat
  deriving DecidableEq, Repr

def hdrN (r : Record) : Nat := bitsOf (recWord r 22) 0 3
def hdrColev (r : Record) : Nat := bitsOf (recWord r 22) 3 3
def hdrCoen (r : Record) : Bool := bitOf (recWord r 22) 6
def hdrLevel (r : Record) (k : Nat) : Level :=
  ⟨bitsOf (recWord r 22) (6 * k + 8) 6 + 1, recWord r (23 + k), bitsOf (recWord r 22) (3 * k + 44) 3⟩
def hdrLevels (r : Record) : List Level := (List.range (min 6 (hdrN r))).map (hdrLevel r)
def hdrS (r : Record) : Nat := bitsOf (recWord r 29) 0 8
def hdrQ (r : Record) : Nat := bitsOf (recWord r 29) 8 6
def hdrC (r : Record) : Nat := bitsOf (recWord r 29) 14 2
def hdrLanes (r : Record) : Nat := bitsOf (recWord r 29) 16 4
def hdrPinen (r : Record) : Bool := bitOf (recWord r 29) 20
def hdrPincl (r : Record) : Nat := bitsOf (recWord r 29) 21 1
def hdrPindie (r : Record) : Nat := bitsOf (recWord r 29) 22 3
def hdrImgl (r : Record) : Nat := bitsOf (recWord r 29) 32 20
def hdrImg (r : Record) : Nat := recWord r 30

/-- The crew level: the first with that binding. -/
def crewLevel (ls : List Level) : Nat := ls.findIdx (fun l => l.bind == 1)

/-- Levels at and above the crew level. -/
def upperLevels (r : Record) : List Level := (hdrLevels r).drop (crewLevel (hdrLevels r))

/-- Crew-level WIDs of a node. -/
def widCount (r : Record) : Nat := (upperLevels r).foldl (fun a l => a * l.ext) 1

/-- The fields of a WID from the crew level up. -/
def crewField (ls : List Level) (w : Word) : Nat := w.toNat / 2 ^ ((ls.take (crewLevel ls)).foldl (fun a l => a + l.width) 0)

/-! ### Completion of nodes (R350, R358) -/

/-- A live node by handle. -/
def liveNode (s : State) (die h : Nat) : Option (Nat × Node) := (s.die die).pool.find? (fun e => e.2.handle == h)

def State.modNode (s : State) (node : Nat × Nat) (f : Node → Node) : State :=
  s.modDie node.1 (fun x => { x with pool := x.pool.map (fun (e : Nat × Node) => if e.2.handle = node.2 then (e.1, f e.2) else e) })

/-- Take a node out of its pool: its slot is free, and crews that wait for it learn its status (R358, R360). -/
def State.retireNode (s : State) (d slot : Nat) (n : Node) (status cause : Nat) : State :=
  let done : Node := { n with phase := 2, status := status, cause := cause }
  let s := s.modDie d (fun x => { x with pool := del x.pool slot, old := done :: x.old })
  let s : State := { s with crews := s.crews.map (fun e =>
    if crewDie e.1 = d ∧ e.2.await = some (n.handle, none) then (e.1, { e.2 with await := some (n.handle, some status) })
    else e) }
  s.memberDone? n.member (if status = 0 then none else some (if cause = 0 then Cause.tgnode else cause))

/-- The nodes of the pool lose the predecessor h; a failed one marks those not dispatched (R350). -/
def State.resolveEdges (s : State) (d h : Nat) (failed : Bool) : State :=
  s.modDie d (fun x => { x with pool := x.pool.map (fun (e : Nat × Node) =>
    if e.2.preds.contains h || e.2.chain == some h then
      (e.1, { e.2 with preds := e.2.preds.filter (fun p => p != h), bad := e.2.bad || (failed && e.2.phase == 0) })
    else e) })

/-- A node completes as SKIPPED: not dispatched, with pass = 0, and a predecessor failed (R350). -/
def Node.skips (n : Node) : Bool := n.bad && n.phase == 0 && !recPass n.words

/-- Complete the nodes that are skipped, and those that are skipped for them; fuel is the number of nodes in the pool. -/
def State.skipNodes (d : Nat) : Nat → State → State
  | 0, s => s
  | fuel + 1, s => match (s.die d).pool.find? (fun e => e.2.skips) with
    | none => s
    | some (slot, n) => State.skipNodes d fuel ((s.retireNode d slot n 2 0).resolveEdges d n.handle true)

/-- A node completes with a status and a cause, or 0 (R350, R358). -/
def State.completeNode (s : State) (node : Nat × Nat) (status cause : Nat) : State :=
  match liveNode s node.1 node.2 with
  | none => s
  | some (slot, n) =>
    State.skipNodes node.1 (s.die node.1).pool.length
      ((s.retireNode node.1 slot n status cause).resolveEdges node.1 node.2 (status != 0))

/-- A copy or collective node completes: with a cause, or 0. -/
def State.finishNode? (s : State) (node : Option (Nat × Nat)) (cause : Nat) : State :=
  match node with
  | some n => s.completeNode n (if cause = 0 then 0 else 1) cause
  | none => s

/-- A kernel node completes once every WID has been placed and every crew has finished; after an image that could not be
read, once the crews placed have ended (R356, R358). -/
def settleNode (node : Nat × Nat) (s : State) : State :=
  match liveNode s node.1 node.2 with
  | none => s
  | some (_, n) =>
    let need := if n.halted then n.placed.length else widCount n.words
    if n.phase = 1 ∧ n.placed.length = need ∧ n.fins ≥ need then s.completeNode node n.status n.cause else s

/-- A node's crew has counted as finished; a failure gives the node status ERROR and its cause, the first one kept. -/
def crewFinished (node : Nat × Nat) (count : Bool) (fail : Option Nat) (s : State) : State :=
  settleNode node (s.modNode node (fun n =>
    let n := if count then { n with fins := n.fins + 1 } else n
    match fail with
    | none => n
    | some e => if n.status = 0 then { n with status := 1, cause := e } else n))

/-- A tile store, which writes memory. -/
def MatCmd.stores (m : MatCmd) : Bool :=
  match m.instr with
  | .tst _ => true
  | _ => false

/-- Writes that crew k issued before its tgdone are outstanding in an engine: jobs, publications, collectives, saves and tile stores
numbered before q (R358, R359). -/
def writesLeft (s : State) (k q : Nat) : Bool :=
  let tile := fun (c : MatCmd) => c.crew == k && c.stores && decide (c.seq < q)
  (s.core (crewCore k)).jobs.any (fun j => j.crew == k && j.node.isNone && decide (j.seq < q))
    || s.pubs.any (fun p => p.crew == k && decide (p.seq < q))
    || s.colls.any (fun c => c.members.any (fun x => x.crew == k && x.node.isNone && !x.complete && decide (x.seq < q)))
    || s.saves.any (fun e => !e.2.load && e.2.member.any (fun x => x.crew == k) && decide (e.2.seq < q))
    || (s.core (crewCore k)).mq.any tile || (s.core (crewCore k)).mrun.any (fun r => tile r.cmd)

/-- A crew that has executed tgdone counts for its node once the writes that it had issued are performed (R358, R359).
DEDUCED, log entry 98. -/
def countCrew (k : Nat) (s : State) : State :=
  match (s.crew k).doneAt, (s.crew k).home with
  | some q, some node =>
    if writesLeft s k q then s else crewFinished node true none (s.modCrew k (fun c => { c with doneAt := none }))
  | _, _ => s

/-- A member of an engine completes in its batch, and its crew may then count for its node. -/
def State.engineDone (s : State) (m : Option Member) (fail : Option Nat) : State :=
  match m with
  | some m => countCrew m.crew (s.memberDone m fail)
  | none => s

end Sys2Proof.Machine
end

