-- ==== Sys2Proof/Machine/Matrix.lean ====
section
/-!
DEFINITION. The matrix unit: tiles, the command queue, mma, the gang instruction, tile loads and stores, and the follow-on
slot (R159 to R185, R191 to R194).
-/
namespace Sys2Proof.Machine

/-! ### Operands (R169) -/

def mopnd (reason : Nat) (ga : Nat) : Trap := { code := Cause.mopnd, reason := reason, tval := BitVec.ofNat 64 ga }

/-- A cluster scratchpad address: its core and offset, or the reason of R169. -/
def clusterAddr (k ga : Nat) : Except Nat (Nat × Nat) :=
  if ga / 2 ^ 60 ≠ 1 ∨ bitsOf ga 20 25 ≠ 0 then .error 1
  else if gaDie (crewDie k) ga ≠ crewDie k ∨ gaCore ga / 32 ≠ crewCore k % 64 / 32 then .error 2
  else .ok (64 * crewDie k + gaCore ga, ga % 2 ^ 20)

/-- Limits of the home core: bytes up to stop are used (reasons 3 and 5). -/
def coreLimits (s : State) (k home stop : Nat) : Option Nat :=
  if stop > Config.bankBytes * (s.core home).s then some 3
  else if (s.core home).owner ≠ some (s.crew k).ctx then some 5
  else none

/-- Check an operand that uses the first size bytes from its address; align is its alignment. Of the reasons that hold, the first
of 1, 2, 4, 3 and 5 is given. Reasons 1, 2 and 4 are raised even where no byte of the operand is used.
DESIGN CHOICE, log entry 101. -/
def operandCheck (s : State) (k ga align size : Nat) : Except Trap (Nat × Nat) :=
  match clusterAddr k ga with
  | .error r => .error (mopnd r ga)
  | .ok (home, off) =>
    if ga % align ≠ 0 then .error (mopnd 4 ga)
    else if size = 0 then .ok (home, off)
    else match coreLimits s k home (off + size) with
      | some r => .error (mopnd r ga)
      | none => .ok (home, off)

/-- Bytes that rows of a pitch use. -/
def extent (rows pitch width : Nat) : Nat := if rows = 0 ∨ width = 0 then 0 else (rows - 1) * pitch + width

/-! ### Acceptance (R163, R180, R191 to R193) -/

/-- The tile is enabled for the current crew, or the reason of R160. -/
def tileOff (s : State) (t : Nat) : Option Nat :=
  let x := get {} (s.core s.myCore).tiles t
  if !x.en then some 1 else if x.slot ≠ crewSlot s.me then some 2 else none

def onTile (t : Nat) (s : State) (k : Out) : Out :=
  match tileOff s t with
  | some r => raise { code := Cause.tileoff, reason := r } s
  | none => k

/-- The queue of a core has room (R163). -/
def queueRoom (s : State) (core : Nat) : Bool := decide ((s.core core).mq.length + flag (s.core core).mrun.isSome < 8)

/-- A command that is to be accepted waits while the queue of a core that it uses is full, before it is checked (R163); one that is
armed does not. -/
def withRoom (i : Instr) (dfr : Bool) (cores : List Nat) (s : State) (k : Out) : Out :=
  if !dfr && !cores.all (queueRoom s) then waitAt i s else k

/-- Put a command in the queue of each core it uses. -/
def enqueue (c : MatCmd) (s : State) : State :=
  c.cores.foldl (fun s n => s.modCore n (fun x => { x with mq := x.mq ++ [c] })) s

/-- A command is abandoned: it reports its failure and leaves its tile as it is (R193). -/
def abandon (c : MatCmd) (cause : Nat) (s : State) : State := s.engineDone c.member (some cause)

/-- A command of the current crew, not yet numbered. -/
def newCmd (s : State) (i : Instr) (args : List Word) (nr nc : Nat) : MatCmd :=
  { crew := s.me, instr := i, args := args, nr := nr, nc := nc, member := none, pc := s.myCrew.a.pc }

/-- Accept or arm a checked command (R163, R191): ce and its counter, dfr. -/
def acceptCmd (ce dfr : Bool) (cc : Nat) (cmd : MatCmd) (s : State) : Out :=
  if dfr && s.myCrew.follow != .awaiting then raise { code := Cause.mfollow } s
  else if !dfr && !cmd.cores.all (queueRoom s) then waitAt cmd.instr s
  else match joinIf ce cc s with
    | none => waitAt cmd.instr s
    | some (m, s') =>
      let cmd := { cmd with member := m, seq := s'.jseq }
      let s' := s'.nextJob.2
      if !dfr then done (enqueue cmd s')
      else match s'.myCrew.landed with
        | some (n + 1) => done (abandon cmd (n + 1) (s'.modMe (fun c => { c with follow := .empty, landed := none })))
        | _ => done (s'.modMe (fun c => { c with follow := .armed cmd }))

def accept (i : Instr) (op cc : Nat) (args : List Word) (nr nc : Nat) (s : State) : Out :=
  acceptCmd (bitOf op 3) (bitOf op 2) cc (newCmd s i args nr nc) s

/-- Predicates of a tile. -/
def preds (s : State) (t : Nat) : Nat × Nat :=
  let x := get {} (s.core s.myCore).tiles t
  (x.nr, x.nc)

def State.modTile (s : State) (core t : Nat) (f : Tile → Tile) : State :=
  s.modCore core (fun c => { c with tiles := put {} c.tiles t (f (get {} c.tiles t)) })

/-- TEN (R165). -/
def execTen (f : T32f) (s : State) : Out :=
  let t := f.t.toNat
  inA s (match tileOff s t with
    | none => done s
    | some r => withRoom (.ten f) false [s.myCore] s (
      if r = 2 then raise { code := Cause.tileoff, reason := 2 } s
      else accept (.ten f) 0 0 [] 128 128
        (s.modTile s.myCore t (fun x => { x with en := true, slot := crewSlot s.me, nr := 128, nc := 128 }))))

/-- TDIS (R166). -/
def execTdis (f : T32f) (s : State) : Out :=
  let t := f.t.toNat
  inA s (onTile t s (
    if tilePending s s.myCore t || (members s.myCrew.viq).any (fun m => !m.e.fin && m.f.tile.map (·.1) == some t) then
      waitAt (.tdis f) s
    else done (s.modTile s.myCore t (fun x => { x with en := false, slot := 0 }))))

/-- TZERO (R168). -/
def execTzero (f : T32f) (s : State) : Out :=
  inA s (withRoom (.tzero f) false [s.myCore] s (onTile f.t.toNat s (match preds s f.t.toNat with
    | (nr, nc) => accept (.tzero f) (bitsOf f.op.toNat 3 1 * 8) f.cc.toNat [] nr nc s)))

/-- TMASK (R167). -/
def execTmask (f : T32f) (s : State) : Out :=
  inA s (use2 (.tmask f) f.a.toNat f.b.toNat [] s (fun r c => onTile f.t.toNat s (
    if r.toNat > 128 ∨ c.toNat > 128 then raise (mopnd 8 0) s
    else done (s.modTile s.myCore f.t.toNat (fun x => { x with nr := r.toNat, nc := c.toNat })))))

/-- The K count of mma. -/
def kCount (k : Word) : Nat := if k = 0 then 48 else k.toNat

/-- MMA (R170). Of several faults TILEOFF comes first, then a K count out of range, operand A, operand B, and MFOLLOW.
DESIGN CHOICE, log entry 101. -/
def execMma (f : T32f) (s : State) : Out :=
  let i := Instr.mma f
  inA s (useRegs i [f.a.toNat, f.b.toNat, f.c.toNat] [] s (fun vs => withRoom i (bitOf f.op.toNat 2) [s.myCore] s (
    onTile f.t.toNat s (match preds s f.t.toNat with
    | (nr, nc) =>
      let a := (vs.getD 0 0).toNat
      let b := (vs.getD 1 0).toNat
      let kn := kCount (vs.getD 2 0)
      if kn > 48 then raise (mopnd 8 0) s
      else
        let some' := flag (decide (nr ≠ 0) && decide (nc ≠ 0))
        match operandCheck s s.me a 32 (some' * extent nr 96 (2 * kn)), operandCheck s s.me b 32 (some' * extent nc 96 (2 * kn)) with
        | .error t, _ => raise t s
        | _, .error t => raise t s
        | .ok _, .ok _ => accept i f.op.toNat f.cc.toNat vs nr nc s))))

/-- Bytes of an element of tld and tst. -/
def tileWidth (half : Bool) : Nat := if half then 2 else 4

/-- TLD (R177). -/
def execTld (f : T32f) (s : State) : Out :=
  let i := Instr.tld f
  inA s (useRegs i [f.a.toNat, f.b.toNat] [] s (fun vs => withRoom i (bitOf f.op.toNat 2) [s.myCore] s (
    onTile f.t.toNat s (match preds s f.t.toNat with
    | (nr, nc) =>
      let a := (vs.getD 0 0).toNat
      let pitch := (vs.getD 1 0).toNat
      match operandCheck s s.me a 32 (extent nr pitch (nc * tileWidth (bitOf f.op.toNat 0))) with
      | .error t => raise t s
      | .ok _ => if pitch % 32 ≠ 0 then raise (mopnd 4 a) s else accept i f.op.toNat f.cc.toNat vs nr nc s))))

/-- TST (R178). -/
def execTst (f : T32f) (s : State) : Out :=
  let i := Instr.tst f
  let fmt := bitsOf f.op.toNat 0 2
  let m := f.imm.toNat % 8 + 2
  inA s (useRegs i [f.a.toNat, f.b.toNat, f.c.toNat] [] s (fun vs => withRoom i false [s.myCore] s (
    onTile f.t.toNat s (match preds s f.t.toNat with
    | (nr, nc) =>
      let a := (vs.getD 0 0).toNat
      let pitch := (vs.getD 1 0).toNat
      let e := (vs.getD 2 0).toNat
      let blocks := (nc + 31) / 32
      let width := if fmt = 2 then 4 * m * blocks else nc * tileWidth (fmt == 1)
      match operandCheck s s.me a 32 (extent nr pitch width),
          (if fmt = 2 then operandCheck s s.me e 1 (extent nr 4 blocks) else .ok (0, 0)) with
      | .error t, _ => raise t s
      | _, .error t => raise t s
      | .ok _, .ok _ => if pitch % 32 ≠ 0 then raise (mopnd 4 a) s else accept i (bitsOf f.op.toNat 3 1 * 8) f.cc.toNat vs nr nc s))))

/-- TSYNC (R179). -/
def execTsync (f : T32f) (s : State) : Out :=
  inA s (onTile f.t.toNat s (if tilePending s s.myCore f.t.toNat then waitAt (.tsync f) s else done s))

/-! ### The gang instruction (R181 to R184) -/

/-- A reserved value or a misaligned offset in a descriptor: the reason of R169. -/
def gangForm (w : List Word) : Option Nat :=
  let g := gangOf w
  let hi := fun i => (w.getD i 0).toNat
  if hi 0 / 2 ^ 13 ≠ 0 ∨ hi 2 / 2 ^ 20 ≠ 0 ∨ hi 3 / 2 ^ 20 ≠ 0 ∨ g.kt = 0 ∨ g.rl = 0 ∨ g.rl > 128 ∨ g.cl = 0 ∨ g.cl > 128 then some 6
  else if g.aoff % 32 ≠ 0 ∨ g.boff % 32 ≠ 0 then some 4
  else none

/-- K count of step st. -/
def Gang.kOf (g : Gang) (st : Nat) : Nat := min 48 (g.kt - 48 * st)

/-- Ends of the panels, over the steps from st on. -/
def panelEnd (g : Gang) (st off rows : Nat) (at' : Nat → Nat) : Nat :=
  ((List.range (g.steps - st)).map (fun i => off + 12288 * at' (st + i) + extent rows 96 (2 * g.kOf (st + i)))).foldl max 0

/-- The panels of a gang lie within their cores' limits (R183). -/
def gangPanels (s : State) (k : Nat) (g : Gang) (st : Nat) : Option Nat :=
  let b := crewCore k
  ((List.range g.gr).findSome? (fun r => coreLimits s k (b + r * g.gc) (panelEnd g st g.aoff (g.nr (r * g.gc)) (fun x => x))))
    <|> ((List.range g.gc).findSome? (fun q => (List.range g.nt).findSome? (fun n =>
      coreLimits s k (b + q) (panelEnd g st g.boff (g.nc q n) (fun x => g.nt * x + n)))))

/-- A tile of a core is enabled for a crew of the node of crew k (R183). -/
def Tile.ofNode (x : Tile) (s : State) (k core : Nat) : Bool :=
  let holder := 4 * core + x.slot
  x.en && (holder == k || ((s.crew k).home.isSome && (s.crew holder).home == (s.crew k).home))

/-- Every gang tile is enabled for a crew of the issuing node (R183). -/
def gangTiles (s : State) (k : Nat) (g : Gang) : Bool :=
  (g.cores (crewCore k)).all (fun n => (List.range g.nt).all (fun t => (get {} (s.core n).tiles t).ofNode s k n))

/-- The words of a descriptor. -/
def gangWords (bs : List VByte) : List Word :=
  (List.range 4).map (fun i => BitVec.ofNat 64 (bytesNum ((bs.drop (4 * i)).take 4)))

/-- The descriptor names a gang of this core (R181): the cores that it uses exist. -/
def gangShape (k ga : Nat) (w : List Word) : Option Trap :=
  let g := gangOf w
  match gangForm w with
  | some r => some (mopnd r ga)
  | none => if g.b0 ≠ crewCore k % 32 ∨ g.b0 + g.gr * g.gc - 1 > 31 then some (mopnd 7 ga) else none

/-- Check a gang before it is accepted (R181, R183). Of several faults the first of these is given: reason 6, reason 4, reason 7,
reasons 3 and 5 of the panels, TILEOFF. For a panel sys.tval holds the descriptor's address.
DESIGN CHOICE, log entry 101. -/
def gangCheck (s : State) (k : Nat) (ga : Nat) (st : Nat) (w : List Word) : Option Trap :=
  match gangShape k ga w with
  | some t => some t
  | none => match gangPanels s k (gangOf w) st with
    | some r => some (mopnd r ga)
    | none => if gangTiles s k (gangOf w) then none else some { code := Cause.tileoff, reason := 3 }

/-- The gang that pre-emption stopped at this instruction (R184). -/
def State.stoppedHere (s : State) : Option MatCmd := s.myCrew.gang.filter (fun g => g.pc == s.myCrew.a.pc)

/-- MMAG (R181 to R183). At the PC of a gang that pre-emption has stopped it is accepted again, from the next K step on (R184). An
address on another core of the cluster gives MOPND with reason 2, and a poisoned descriptor POISON.
DESIGN CHOICE, log entries 101 and 102. -/
def execMmag (f : T32f) (s : State) : Out :=
  let i := Instr.mmag f
  let dfr := bitOf f.op.toNat 2 && s.stoppedHere.isNone
  inA s (use1 i f.a.toNat [] s (fun a => withRoom i dfr [s.myCore] s (
    let ga := a.toNat
    match operandCheck s s.me ga 16 16 with
    | .error t => raise t s
    | .ok (home, off) =>
      if home ≠ s.myCore then raise (mopnd 2 ga) s
      else
        let ps := (List.range 16).map (fun j => spadByte home (off + j))
        if !s.lets s.me 0 ps then waitAt i s
        else match crewRead s s.me ps with
          | (bs, s') =>
            let old := s'.stoppedHere
            let cmd := newCmd s' i (a :: gangWords bs) 0 0
            if bs.any (·.p) then raise { code := Cause.poison } s'
            else match gangShape s'.me ga (gangWords bs) with
              | some t => raise t s'
              | none => withRoom i dfr cmd.cores s' (match gangCheck s' s'.me ga ((old.map (·.gstep)).getD 0) (gangWords bs) with
                | some t => raise t s'
                | none => match old with
                  | none => acceptCmd (bitOf f.op.toNat 3) (bitOf f.op.toNat 2) f.cc.toNat cmd s'
                  | some g => acceptCmd (bitOf f.op.toNat 3) false f.cc.toNat { cmd with gstep := g.gstep, cause := g.cause }
                      (s'.modMe (fun c => { c with gang := none }))))))

/-! ### Running (R171, R175, R176, R189) -/

/-- A tile slice in flight claims this row (R189). The claims of a crew end where its VIQ stops (R411).
DEDUCED, log entry 103. -/
def claimed (s : State) (core tile row : Nat) : Bool :=
  (coreCrews core).any (fun k => (s.crew k).viqOn && (members (s.crew k).viq).any (fun m =>
    decide (0 < m.e.prog) && !m.e.fin && m.f.tile.map (·.1) == some tile && (m.rows 0 m.e.vl).contains row))

/-- No row that the command writes in a tile of a core is claimed. -/
def unclaimed (s : State) (core tile : Nat) (c : MatCmd) : Bool :=
  (List.range (c.rows core tile)).all (fun r => !claimed s core tile r)

/-- Physical bytes of a cluster operand. -/
def operandBase (k ga : Nat) : Nat := spadByte (64 * crewDie k + gaCore ga) (ga % 2 ^ 20)

/-- One product into a tile: the bytes at which its operands start, its K count, its predicates, and z (R170, R182). -/
structure Product where
  a  : Nat
  b  : Nat
  kn : Nat
  nr : Nat
  nc : Nat
  z  : Bool
  deriving DecidableEq, Repr

/-- The product that a command forms into a tile of a core: an mma, or the next K step of a gang. -/
def MatCmd.product (c : MatCmd) (core tile : Nat) : Option Product :=
  let arg := fun i => operandBase c.crew (c.args.getD i 0).toNat
  match c.instr with
  | .mma f => some ⟨arg 0, arg 1, kCount (c.args.getD 2 0), c.nr, c.nc, bitOf f.op.toNat 0⟩
  | .mmag _ =>
    let g := c.gang
    let base := crewCore c.crew
    let p := core - base
    some ⟨spadByte (base + p / g.gc * g.gc) (g.aoff + 12288 * c.gstep),
      spadByte (base + p % g.gc) (g.boff + 12288 * (g.nt * c.gstep + tile)), g.kOf c.gstep, g.nr p, g.nc p tile, g.z && c.gstep == 0⟩
  | _ => none

/-- Bytes that a product reads. -/
def Product.reads (p : Product) : List Nat :=
  if p.nr = 0 ∨ p.nc = 0 then []
  else (List.range p.nr).flatMap (fun i => (List.range (2 * p.kn)).map (fun b => p.a + 96 * i + b))
    ++ (List.range p.nc).flatMap (fun j => (List.range (2 * p.kn)).map (fun b => p.b + 96 * j + b))

/-- Block rows of a product. -/
def Product.blockRows (p : Product) : Nat := if p.nc = 0 then 0 else (p.nr + 31) / 32

/-- Bytes that a command reads from scratchpad for a tile of a core. -/
def MatCmd.reads (c : MatCmd) (core tile : Nat) : List Nat :=
  match c.instr, c.product core tile with
  | .tld f, _ =>
    (List.range c.nr).flatMap (fun i => (List.range (c.nc * tileWidth (bitOf f.op.toNat 0))).map (fun b =>
      operandBase c.crew (c.args.getD 0 0).toNat + (c.args.getD 1 0).toNat * i + b))
  | _, some p => p.reads
  | _, none => []

/-- The tile that a command starts with. -/
def MatCmd.first (c : MatCmd) : Nat :=
  match c.instr with
  | .ten f | .tzero f | .mma f | .tld f | .tst f => f.t.toNat
  | _ => 0

/-- Read operand bytes: their values, and the cause if one of them is uncorrectable (R175).
DEDUCED, log entry 88. -/
def readOperands (ps : List Nat) (s : State) : SMap VByte × Nat × State :=
  let fresh := s.anyBad ps
  match s.readBytes ps with
  | (bs, s) =>
    ((ps.zip bs).foldl (fun m e => put {} m e.1 e.2) [], if fresh then Cause.ue else if bs.any (·.p) then Cause.poison else 0, s)

/-- A command starts on a tile of a core: none while a row that it will write is claimed or a byte that it reads is held. A claim
that is taken later does not hold it up.
DESIGN CHOICE, log entry 104. -/
def startTile (core tile : Nat) (cmd : MatCmd) (s : State) : Option State :=
  if unclaimed s core tile cmd && s.admitsEngine (engineId cmd.seq) (cmd.reads core tile) then
    match readOperands (cmd.reads core tile) (s.leaveAll (engineId cmd.seq)) with
    | (op, cause, s) => some (s.modCore core (fun c => { c with mrun := some ⟨cmd, tile, 0, op, max cmd.cause cause⟩ }))
  else none

/-- A command that could start on a tile of a core but for bytes that are held takes its place among those that wait for them
(R273). -/
def awaitTile (core tile : Nat) (cmd : MatCmd) (s : State) : Option State :=
  if unclaimed s core tile cmd then s.await (engineId cmd.seq) (cmd.reads core tile) else none

/-- DEDUCED, log entry 31. -/
def matrixCommandStartEv (core : Nat) (s : State) : Option State :=
  match (s.core core).mrun, (s.core core).mq with
  | none, cmd :: r =>
    if (s.chip (dieChip (coreDie core))).tripped || cmd.isGang then none
    else startTile core cmd.first cmd (s.modCore core (fun c => { c with mq := r })) <|> awaitTile core cmd.first cmd s
  | _, _ => none

/-- R163. -/
def execMatrixCommandStart (core : Nat) (s : State) : Out := .next ((matrixCommandStartEv core s).getD s)

/-- BF16 operand k of a row at a base, with its mark. -/
def bfAt (op : SMap VByte) (base k : Nat) : Nat × Bool :=
  let lo := get {} op (base + 2 * k)
  let hi := get {} op (base + 2 * k + 1)
  (lo.b.toNat + 256 * hi.b.toNat, lo.p || hi.p)

/-- The cell steps of one element (R81, R82, R171). -/
def cellSteps (ra rb : List (Nat × Bool)) : Nat → Nat → Nat
  | 0, c => c
  | n + 1, c =>
    cellSteps (ra.drop 8) (rb.drop 8) n (cellStep c (((ra.take 8).zip (rb.take 8)).map (fun e => (e.1.1, e.2.1))))

/-- One element of a product: rows of A and B over K positions, old value c. -/
def mmaElem (ra rb : List (Nat × Bool)) (c : TElem) : TElem :=
  ⟨BitVec.ofNat 32 (cellSteps ra rb ((ra.length + 7) / 8) c.v.toNat), c.p || ra.any (·.2) || rb.any (·.2)⟩

/-- Rows lo to hi - 1 of a product into a tile; the answer also says whether an element became poisoned, element by
element. -/
def mmaRows (op : SMap VByte) (a b kn nc : Nat) (z : Bool) (elems : SMap TElem) (rows : List Nat) :
    SMap TElem × List Nat :=
  let col := (List.range nc).map (fun j => (j, (List.range kn).map (bfAt op (b + 96 * j))))
  rows.foldl (fun acc i =>
    let ra := (List.range kn).map (bfAt op (a + 96 * i))
    col.foldl (fun acc e =>
      let n := 128 * i + e.1
      let r := mmaElem ra e.2 (if z then {} else get {} acc.1 n)
      (put {} acc.1 n r, if r.p then acc.2 ++ [n] else acc.2)) acc) (elems, [])

/-- Log poisoned tile elements (R175): the packing of tile and element is not stated. -/
def logElems (core : Nat) (s : State) : List Nat → State
  | [] => s
  | _ :: r =>
    let info := s.freeVal
    let addr := info.2.freeVal
    logElems core (addr.2.logError (coreDie core) 7 4 1 addr.1.toNat info.1.toNat) r

/-- One block row of a product: rows 32 x row onwards. -/
def mmaBlockRowCompleteEv (core : Nat) (s : State) : Option State :=
  (s.core core).mrun.bind (fun r => (r.cmd.product core r.tile).bind (fun p =>
    if p.blockRows ≤ r.row then none
    else
      let rows := (List.range (min 32 (p.nr - 32 * r.row))).map (32 * r.row + ·)
      match mmaRows r.opnd p.a p.b p.kn p.nc p.z (get {} (s.core core).tiles r.tile).elems rows with
      | (elems, marked) =>
        let s := (s.modTile core r.tile (fun x => { x with elems := elems })).modCore core (fun c =>
          { c with mrun := some { r with row := r.row + 1, cause := if marked = [] then r.cause else max r.cause Cause.poison } })
        some (logElems core s marked)))

/-- R172, R176. -/
def execMmaBlockRowComplete (core : Nat) (s : State) : Out := .next ((mmaBlockRowCompleteEv core s).getD s)

/-- Elements (i, j) below the predicates. -/
def gridOf (nr nc : Nat) : List (Nat × Nat) := (List.range nr).flatMap (fun i => (List.range nc).map (fun j => (i, j)))

/-- The element that tld forms (R177). -/
def tldElem (op : SMap VByte) (p : Nat) (half : Bool) : TElem :=
  let bs := (List.range (tileWidth half)).map (fun b => get {} op (p + b))
  let v := bytesNum bs
  ⟨BitVec.ofNat 32 (if half then (Fmt.bf16.convert .fp32 RNE v).bits else v), bytesMark bs⟩

/-- The bytes that tst writes (R178). -/
def tstCells (cmd : MatCmd) (f : T32f) (elems : SMap TElem) : List (Nat × VByte) :=
  let arg := fun i => (cmd.args.getD i 0).toNat
  let base := operandBase cmd.crew (arg 0)
  let at' := fun i j => get {} elems (128 * i + j)
  if cmd.nc = 0 then []
  else match bitsOf f.op.toNat 0 2 with
    | 2 =>
      let m := f.imm.toNat % 8 + 2
      (List.range cmd.nr).flatMap (fun i => (List.range ((cmd.nc + 31) / 32)).flatMap (fun b =>
        let es := (List.range (min 32 (cmd.nc - 32 * b))).map (fun j =>
          let e := at' i (32 * b + j)
          (⟨e.v.setWidth 64, true, e.p⟩ : Elem))
        let cells := blockCells .fp32 m es
        ((List.range (4 * m)).map (fun x => (base + i * arg 1 + 4 * m * b + x, cells.getD x {})))
          ++ [(operandBase cmd.crew (arg 2) + 4 * i + b, cells.getD (4 * m) {})]))
    | n =>
      (gridOf cmd.nr cmd.nc).flatMap (fun e =>
        let x := at' e.1 e.2
        let v := if n = 1 then (Fmt.fp32.convert .bf16 RNE x.v.toNat).bits else x.v.toNat
        storeCells ((List.range (tileWidth (n == 1))).map (fun b => base + e.1 * arg 1 + e.2 * tileWidth (n == 1) + b))
          ⟨BitVec.ofNat 64 v, x.p⟩)

/-! ### Gangs (R182, R184) -/

/-- A gang stands at the head of the queue of each of its cores, none of them in a K step, with this many K steps done. -/
def gangHeads (s : State) (cmd : MatCmd) (steps : Nat) : Bool :=
  cmd.cores.all (fun n => (s.core n).mrun.isNone && (match (s.core n).mq with
    | [] => false
    | c :: _ => c.seq == cmd.seq && c.gstep == steps))

/-- The cause that a gang has met on any of its cores: an uncorrectable word before a marked byte (R175). -/
def gangCause (s : State) (cmd : MatCmd) : Nat :=
  (cmd.cores.flatMap (fun n => ((s.core n).mq.filter (·.seq == cmd.seq)).map (·.cause))).foldl max cmd.cause

/-- Take a gang out of the queues of its cores. -/
def dropGang (cmd : MatCmd) (s : State) : State :=
  cmd.cores.foldl (fun s n => s.modCore n (fun c => { c with mq := c.mq.filter (·.seq != cmd.seq) })) s

/-- Pre-emption stops a gang between K steps: its crew keeps the first one with its next step (R184).
DEDUCED, log entry 25. -/
def stopGang (cmd : MatCmd) (s : State) : State :=
  let kept := { cmd with cause := gangCause s cmd }
  ((dropGang cmd s).withdraw cmd.member).modCrew cmd.crew (fun c => { c with gang := c.gang <|> some kept })

/-- The gangs of crew k stop. -/
def stopGangs (k : Nat) (s : State) : State :=
  ((s.core (crewCore k)).mq.filter (fun c => c.crew == k && c.isGang)).foldl (fun s c => stopGang c s) s

/-- A K step of the gang at the head of its base core's queue starts, on all of its cores at once (R182); where its crew is being
pre-empted and its access sequencer has stopped, the gang stops instead, and those behind it with it (R184).
DEDUCED, log entry 25. -/
def gangStepStartEv (core : Nat) (s : State) : Option State :=
  match (s.core core).mq with
  | [] => none
  | cmd :: _ =>
    if (s.chip (dieChip (coreDie core))).tripped || !cmd.isGang || crewCore cmd.crew != core || !gangHeads s cmd cmd.gstep then none
    else if ((s.crew cmd.crew).stop = .preempt ∨ (s.crew cmd.crew).gang.isSome) ∧ (s.crew cmd.crew).a.run ≠ .running then some (stopGang cmd s)
    else cmd.cores.foldlM (fun s n => startTile n 0 ((s.core n).mq.headD cmd) (s.modCore n (fun c => { c with mq := c.mq.tail }))) s
      <|> cmd.cores.findSome? (fun n => awaitTile n 0 cmd s)

/-- R182. -/
def execGangStepStart (core : Nat) (s : State) : Out := .next ((gangStepStartEv core s).getD s)

/-- A core has done its K step: the gang completes when every one of its cores has done the last one. -/
def endGangStep (core : Nat) (r : MatRun) (s : State) : State :=
  let cmd := { r.cmd with gstep := r.cmd.gstep + 1, cause := r.cause }
  let s := s.modCore core (fun c => { c with mrun := none, mq := cmd :: c.mq })
  if decide (cmd.gang.steps ≤ cmd.gstep) && gangHeads s cmd cmd.gstep then
    let cause := gangCause s cmd
    (dropGang cmd s).engineDone cmd.member (if cause = 0 then none else some cause)
  else s

/-! ### Completion (R180) -/

/-- The running command completes, or a gang's K step on this core goes on to its next tile or is done; none while a product has
block rows left, or its bytes are held. -/
def matrixCommandCompleteEv (core : Nat) (s : State) : Option State :=
  match (s.core core).mrun with
  | none => none
  | some r =>
    let cmd := r.cmd
    let close := fun (cause : Nat) (s : State) =>
      (s.modCore core (fun c => { c with mrun := none })).engineDone cmd.member (if cause = 0 then none else some cause)
    let fill := fun (t : Nat) (es : List (Nat × TElem)) (s : State) =>
      s.modTile core t (fun x => { x with elems := es.foldl (fun m e => put {} m e.1 e.2) x.elems })
    match cmd.instr with
    | .ten f | .tzero f =>
      some (close r.cause (fill f.t.toNat ((gridOf cmd.nr cmd.nc).map (fun e => (128 * e.1 + e.2, {}))) s))
    | .mma _ => if (cmd.product core r.tile).any (fun p => r.row < p.blockRows) then none else some (close r.cause s)
    | .mmag _ =>
      if (cmd.product core r.tile).any (fun p => r.row < p.blockRows) then none
      else if r.tile + 1 < cmd.gang.nt then startTile core (r.tile + 1) { cmd with cause := r.cause } s <|> awaitTile core (r.tile + 1) cmd s
      else some (endGangStep core r s)
    | .tld f =>
      let half := bitOf f.op.toNat 0
      some (close r.cause (fill f.t.toNat ((gridOf cmd.nr cmd.nc).map (fun e => (128 * e.1 + e.2,
        tldElem r.opnd (operandBase cmd.crew (cmd.args.getD 0 0).toNat + (cmd.args.getD 1 0).toNat * e.1 + e.2 * tileWidth half) half))) s))
    | .tst f =>
      let elems := (get {} (s.core core).tiles f.t.toNat).elems
      let cells := tstCells cmd f elems
      let marked := (gridOf cmd.nr cmd.nc).any (fun e => (get {} elems (128 * e.1 + e.2)).p)
      let ps := cells.map (·.1)
      if !s.admitsEngine (engineId cmd.seq) ps then s.await (engineId cmd.seq) ps
      else some (close (if marked then Cause.poison else 0) ((s.leaveAll (engineId cmd.seq)).perform cells))
    | _ => none

/-- R180. -/
def execMatrixCommandComplete (core : Nat) (s : State) : Out := .next ((matrixCommandCompleteEv core s).getD s)

/-! ### The follow-on slot (R191, R193) -/

/-- The copy that opened the slot has landed: the armed command is placed; after a failed copy it is abandoned, and its batch records
the cause of the copy's failure (R191, R193).
DESIGN CHOICE, log entry 117. -/
def followOnPlaceEv (k : Nat) (s : State) : Option State :=
  match (s.crew k).follow, (s.crew k).landed with
  | .armed cmd, some 0 =>
    if cmd.cores.all (queueRoom s) then
      some ((enqueue cmd s).modCrew k
        (fun c => { c with follow := .empty, landed := none }))
    else none
  | .armed cmd, some n => some (abandon cmd n (s.modCrew k (fun c => { c with follow := .empty, landed := none })))
  | _, _ => none

/-- R191. -/
def execFollowOnPlace (k : Nat) (s : State) : Out := .next ((followOnPlaceEv k s).getD s)

/-- The copy that opened the follow-on slot of crew k has completed, with a cause or 0. -/
def copyLanded (k cause : Nat) (s : State) : State :=
  s.modCrew k (fun c => if c.follow = .empty then c else { c with landed := some cause })

/-- Matrix commands of crew k in queues or running. -/
def matrixBusy (s : State) (k : Nat) : Bool :=
  s.cores.any (fun e => e.2.mq.any (·.crew == k) || (match e.2.mrun with
    | some r => r.cmd.crew == k
    | none => false))

/-- A crew that leaves disables its tiles (R194). -/
def freeTiles (k : Nat) (s : State) : State :=
  (List.range 4).foldl (fun s t => s.modTile (crewCore k) t (fun x =>
    if x.en ∧ x.slot = crewSlot k then { x with en := false, slot := 0 } else x)) s

end Sys2Proof.Machine
end

