-- ==== Sys2Proof/Machine/Jobs.lean ====
section
/-!
DEFINITION. Engine accesses, the order of engine jobs (R221), and the copy units: cpy,
cpy2, cpyx, put and get (R296 to R298, R364 to R366).
-/
namespace Sys2Proof.Machine

/-! ### Engine accesses -/

/-- Check an access of an engine of a die, for context ctx; core is the issuing crew's core, if a crew issued it. No engine reads or
writes through a window (R297). -/
def engineLook (die : Nat) (core : Option Nat) (ctx : Nat) (acc : Acc) (s : State) (ga n : Nat) : Chk (List Nat) × State :=
  let tv := BitVec.ofNat 64 ga
  match issuerCheck s die core (fun _ => none) acc.writes ga n with
  | .error e => (.fault { code := Cause.addrflt, reason := e, tval := tv }, s)
  | .ok pl =>
    let d := pl.die die
    if pathDown s die d then (.fault { code := Cause.darkpath, tval := tv }, s)
    else if !linkOpen s die d then (.wait, s)
    else match locate s core ctx acc n pl with
      | (.error r, s) => (.fault (r.trap ga), s)
      | (.wait, s) => (.wait, s)
      | (.ok l, s) => (.ok l.bytes, s)

/-- Check an access of requester r, an engine, and find whether its home lets it in. Where it must wait there, the state answered
gives it its place (R273). -/
def engineCheck (s : State) (r die : Nat) (core : Option Nat) (ctx : Nat) (acc : Acc) (ga n : Nat) : Chk (List Nat) × State :=
  match engineLook die core ctx acc s ga n with
  | (.ok ps, s) => if s.admitsEngine r ps then (.ok ps, s) else (.wait, s.queueUp r ps)
  | x => x

/-- Bytes of a range, page by page, each checked by look; fuel is the number of pages that it may touch. -/
def enginePages (look : State → Nat → Nat → Chk (List Nat) × State) : Nat → Nat → Nat → State → Chk (List Nat) × State
  | 0, _, _, s => (.ok [], s)
  | fuel + 1, ga, n, s =>
    let first := min n (2 ^ 16 - ga % 2 ^ 16)
    match look s ga first with
    | (.ok ps, s) =>
      if first = n then (.ok ps, s)
      else match enginePages look fuel ((ga + first) % 2 ^ 64) (n - first) s with
        | (.ok qs, s) => (.ok (ps ++ qs), s)
        | x => x
    | x => x

/-- Bytes of a range of requester r, an engine. -/
def engineRange (s : State) (r die : Nat) (core : Option Nat) (ctx : Nat) (acc : Acc) (ga n : Nat) : Chk (List Nat) × State :=
  enginePages (fun s ga n => engineCheck s r die core ctx acc ga n) (n / 2 ^ 16 + 2) ga n s

/-- The pod die that holds the location of an address, as its issuer's die sees it. -/
def addrDie (die ga : Nat) : Nat := if ga / 2 ^ 60 ≤ 1 then gaDie die ga else die

/-- The pod die that found a failure: the home for what the home checks, else the issuer's (R305). -/
def finder (die : Nat) (t : Trap) : Nat :=
  if t.code = Cause.darkpath ∨ t.code = Cause.fabopnd ∨ (t.code = Cause.addrflt ∧ t.reason ≤ 7) then die
  else addrDie die t.tval.toNat

/-! ### Footprints (R221) -/

/-- An engine job as the order of R221 sees it: its number, the crew or the node that issued it, and the regions that it
declares, each as (written, first address, address after the last). -/
structure Footprint where
  seq  : Nat
  crew : Option Nat
  ctx  : Nat
  die  : Nat
  regs : List (Bool × Nat × Nat)

def overlaps (a b : List (Bool × Nat × Nat)) : Bool :=
  a.any (fun x => b.any (fun y => (x.1 || y.1) && decide (x.2.1 < y.2.2) && decide (y.2.1 < x.2.2)))

/-- Fields of a card (R296, R364). -/
def cardDst (c : List Word) : Nat := (c.getD 0 0).toNat
def cardSrc (c : List Word) : Nat := (c.getD 1 0).toNat
def cardLen (c : List Word) : Nat := wfield (c.getD 2 0) 0 32
def cardFlags (c : List Word) : Nat := wfield (c.getD 2 0) 32 32
def cardSig (c : List Word) : Bool := bitOf (cardFlags c) 0
def cardSigBytes (c : List Word) : Nat := if bitOf (cardFlags c) 2 then 8 else 4
def cardSaddr (c : List Word) : Nat := (c.getD 3 0).toNat
def cardVal (c : List Word) : Word := c.getD 4 0
def cardRows (c : List Word) : Nat := wfield (c.getD 5 0) 0 32
def cardFext (c : List Word) : Nat := wfield (c.getD 5 0) 32 32
def cardDstride (c : List Word) : Int := ((c.getD 6 0).extractLsb' 0 32).toInt
def cardSstride (c : List Word) : Int := ((c.getD 6 0).extractLsb' 32 32).toInt
def cardXaddr (c : List Word) : Nat := (c.getD 7 0).toNat

/-- Rows of a job. -/
def jobRows (kind : Nat) (c : List Word) : Nat := if kind = 1 ∨ kind = 2 then cardRows c else 1

/-- The address of row i under a signed stride, modulo 2^64. -/
def rowAddr (base : Nat) (i : Nat) (stride : Int) : Nat := (BitVec.ofInt 64 (base + i * stride)).toNat

/-- The span of rows of len bytes from a base. -/
def rowSpan (base rows len : Nat) (stride : Int) : Nat × Nat :=
  let last := (base : Int) + (rows - 1 : Nat) * stride
  ((min (base : Int) last).toNat, (max (base : Int) last).toNat + len)

/-- What a job declares (R297, R365). Addresses are compared with self resolved. -/
def jobRegions (die kind : Nat) (c : List Word) : List (Bool × Nat × Nat) :=
  let rows := jobRows kind c
  let src := resolveSelf die (cardSrc c)
  let rd := if kind = 2 then
      [(false, src, src + cardFext c), (false, resolveSelf die (cardXaddr c), resolveSelf die (cardXaddr c) + 4 * rows)]
    else
      let x := rowSpan src rows (cardLen c) (if kind = 1 then cardSstride c else 0)
      [(false, x.1, x.2)]
  let w := rowSpan (resolveSelf die (cardDst c)) rows (cardLen c) (if rows = 1 then 0 else cardDstride c)
  rd ++ [(true, w.1, w.2)] ++
    (if cardSig c then [(true, resolveSelf die (cardSaddr c), resolveSelf die (cardSaddr c) + cardSigBytes c)] else [])

def Job.footprint (j : Job) (die : Nat) : Footprint :=
  { seq := j.seq, crew := if j.node.isSome then none else some j.crew, ctx := j.ctx, die := die,
    regs := jobRegions die j.kind j.card }

/-- Bytes of an element of a collective. -/
def collWidth (half : Bool) : Nat := if half then 2 else 4

/-- Fields of a member's shape: kind, combination, half format, element count, root rank. -/
def CollMember.kind (m : CollMember) : Nat := m.shape.1
def CollMember.comb (m : CollMember) : Nat := m.shape.2.1
def CollMember.half (m : CollMember) : Bool := m.shape.2.2.1
def CollMember.n (m : CollMember) : Nat := m.shape.2.2.2.1
def CollMember.root (m : CollMember) : Nat := m.shape.2.2.2.2
def CollMember.rank (m : CollMember) : Nat := (m.mask.takeWhile (fun d => d != m.die)).length
def CollMember.width (m : CollMember) : Nat := collWidth m.half
def CollMember.core (m : CollMember) : Option Nat := if m.node.isSome then none else some (crewCore m.crew)

/-- The requester that a member is at the homes of its bytes. -/
def CollMember.id (m : CollMember) : Nat := engineId m.seq

/-- Contributions are combined: allreduce, reducescatter, reduce. -/
def CollMember.combines (m : CollMember) : Bool := m.kind == 0 || m.kind == 1 || m.kind == 4

/-- First element of block q, and the block of an element (R301). -/
def CollMember.lo (m : CollMember) (q : Nat) : Nat := q * m.n / m.mask.length
def CollMember.blockOf (m : CollMember) (e : Nat) : Nat := ((e + 1) * m.mask.length + m.n - 1) / m.n - 1

/-- Elements that a member of rank `rank` of p reads, and elements that it receives, in a collective of n elements (R301). -/
def collReads (kind rank root n : Nat) : Nat := if kind = 3 ∧ root ≠ rank then 0 else n
def collResults (kind rank root p n : Nat) : Nat :=
  match kind with
  | 1 => (rank + 1) * n / p - rank * n / p
  | 2 => p * n
  | 4 => if root = rank then n else 0
  | _ => n

/-- What a member's part of a collective declares (R301, R302). -/
def CollMember.footprint (m : CollMember) : Footprint :=
  let src := resolveSelf m.die m.src.toNat
  let dst := resolveSelf m.die m.dst.toNat
  { seq := m.seq, crew := if m.node.isSome then none else some m.crew, ctx := m.ctx, die := m.die,
    regs := [(false, src, src + m.width * collReads m.kind m.rank m.root m.n),
             (true, dst, dst + m.width * collResults m.kind m.rank m.root m.mask.length m.n)] }

def Pub.footprint (p : Pub) : Footprint :=
  let src := resolveSelf p.die p.src.toNat
  { seq := p.seq, crew := some p.crew, ctx := p.ctx, die := p.die, regs := [(false, src, src + p.len)] }

/-- Two jobs of one crew, or of copy and collective nodes of one context on one die (R221, R351). -/
def Footprint.sameOwner (a b : Footprint) : Bool :=
  match a.crew, b.crew with
  | some x, some y => x == y
  | none, none => a.die == b.die && a.ctx == b.ctx
  | _, _ => false

/-- Every engine job in progress. -/
def engineJobs (s : State) : List Footprint :=
  s.cores.flatMap (fun e => e.2.jobs.map (·.footprint (coreDie e.1)))
    ++ (s.pubs.filter (fun p => !p.accepted)).map (·.footprint)
    ++ s.colls.flatMap (fun c => (c.members.filter (fun m => !m.complete)).map (·.footprint))

/-- An earlier job of the same issuer overlaps this one (R221). -/
def blocked (s : State) (f : Footprint) : Bool :=
  (engineJobs s).any (fun g => decide (g.seq < f.seq) && f.sameOwner g && overlaps f.regs g.regs)

/-! ### Card checks (R286, R296, R297, R364, R365) -/

/-- DEDUCED, log entry 30. -/
def fabopnd (reason : Nat) : Trap := { code := Cause.fabopnd, reason := reason }

/-- Reserved bits of a card are zero (reason 6). -/
def cardReserved (kind : Nat) (c : List Word) : Bool :=
  cardFlags c / 2 ^ 6 == 0 && decide (bitsOf (cardFlags c) 3 3 ≤ 5) &&
    (if kind ≥ 3 then (c.drop 5).all (· == 0)
     else decide (cardRows c < 2 ^ 16)
      && (kind != 0 || (cardRows c == 0 && (c.getD 6 0) == 0))
      && (kind == 2 || (cardFext c == 0 && cardXaddr c == 0)))

/-- A range of bytes that an operand names: whether it is written, its address and its length. -/
abbrev Operand := Bool × Nat × Nat

/-- The destination and the source of a card as operands: a range for every row, and the extent of a cpyx (R297, R365). -/
def cardDsts (kind : Nat) (c : List Word) : List Operand :=
  let rows := jobRows kind c
  (List.range (max 1 rows)).map (fun i => (true, rowAddr (cardDst c) i (if rows = 1 then 0 else cardDstride c), cardLen c))
def cardSrcs (kind : Nat) (c : List Word) : List Operand :=
  if kind = 2 then [(false, cardSrc c, cardFext c)]
  else (List.range (max 1 (jobRows kind c))).map (fun i =>
    (false, rowAddr (cardSrc c) i (if kind = 1 then cardSstride c else 0), cardLen c))
def cardIndex (kind : Nat) (c : List Word) : List Operand :=
  if kind = 2 then [(false, cardXaddr c, 4 * jobRows kind c)] else []

/-- Every address operand of a card. -/
def cardAddrs (kind : Nat) (c : List Word) : List Operand :=
  cardDsts kind c ++ cardSrcs kind c ++ (if cardSig c then [(true, cardSaddr c, cardSigBytes c)] else []) ++ cardIndex kind c

/-- A range of an operand that does not lie on a die. -/
def Operand.far (die : Nat) (a : Operand) : Bool :=
  gaDie die a.2.1 != die || gaDie die ((a.2.1 + (a.2.2 - 1)) % 2 ^ 64) != die

/-- The FABOPND reason of a card, if it breaks a rule: die, then length, then reserved bits. -/
def cardReason (die kind : Nat) (c : List Word) : Option Nat :=
  let far := fun (as : List Operand) => as.any (Operand.far die)
  if (kind != 3 && far (cardDsts kind c)) || (kind != 4 && far (cardSrcs kind c)) || far (cardIndex kind c)
      || (cardSig c && (cardSaddr c / 2 ^ 60 == 0 || gaDie die (cardSaddr c) != gaDie die (cardDst c))) then some 2
  else if cardLen c < 1 ∨ cardLen c > 0x04000000 ∨ ((kind = 1 ∨ kind = 2) ∧ cardRows c = 0) then some 5
  else if cardReserved kind c then none else some 6

/-- The first operand of an engine with a byte that breaks R22 to R27. A range of at most 2^32 bytes breaks them at its first
or its last byte, if at any. -/
def rangeTrap (s : State) (die : Nat) (core : Option Nat) (as : List Operand) : Option Trap :=
  as.findSome? (fun a =>
    let at' := fun (ga : Nat) => match issuerCheck s die core (fun _ => none) a.1 ga 1 with
      | .error r => some { code := Cause.addrflt, reason := r, tval := BitVec.ofNat 64 a.2.1 : Trap }
      | .ok _ => none
    at' a.2.1 <|> at' ((a.2.1 + (a.2.2 - 1)) % 2 ^ 64))

/-- The trap that a card raises at its instruction. An address outside spaces 0x0 and 0x1 names no die, so that its
reason comes first (R27).
DEDUCED, log entry 29. -/
def cardCheck (s : State) (die : Nat) (core : Option Nat) (kind : Nat) (c : List Word) : Option Trap :=
  let as := cardAddrs kind c
  match rangeTrap s die core (as.filter (fun a => decide (a.2.1 / 2 ^ 60 > 1))) with
  | some t => some t
  | none => match cardReason die kind c with
    | some r => some (fabopnd r)
    | none =>
      if cardSig c ∧ cardSaddr c % cardSigBytes c ≠ 0 then
        some { code := Cause.align, tval := BitVec.ofNat 64 (cardSaddr c) }
      else rangeTrap s die core as

/-- n consecutive 64-bit words of marked bytes. -/
def wordsOfBytes (n : Nat) (bs : List VByte) : List Word :=
  (List.range n).map (fun i => BitVec.ofNat 64 (bytesNum ((bs.drop (8 * i)).take 8)))

/-! ### Issue (R296, R365, R366) -/

/-- Entries of a copy unit (R366). -/
def copyRoom (s : State) (core : Nat) : Bool := decide ((s.core core).jobs.length < 16)

/-- A copy command, put or get. -/
def issueCopy (i : Instr) (kind : Nat) (f : T32f) (s : State) : Out :=
  inA s (use1 i f.a.toNat [] s (fun a =>
    let ga := a.toNat
    let k := s.me
    if ga / 2 ^ 60 > 2 then raise { code := Cause.addrflt, reason := 1, tval := a } s
    else if !ownScratchpad k ga || ga % 64 != 0 then raise (fabopnd 7) s
    else match ownCheck s k false ga 64 with
      | .error r => raise { code := Cause.addrflt, reason := r, tval := a } s
      | .ok _ =>
        let ps := (List.range 64).map (fun j => spadByte s.myCore (ga % 2 ^ 20 + j))
        if !s.lets k 0 ps then waitAt i s
        else match crewRead s k ps with
          | (bs, s') =>
            if bs.any (·.p) then raise { code := Cause.poison } s'
            else
              let card := wordsOfBytes 8 bs
              match cardCheck s' s.myDie (some s.myCore) kind card with
              | some t => raise t s'
              | none =>
                if f.mm && s.myCrew.follow != .empty then raise { code := Cause.mfollow } s'
                else if !copyRoom s s.myCore || (s.myCrew.counter f.cc.toNat).blocked then namedWait i s
                else match s'.joinBatch k f.cc.toNat with
                  | (m, s') => match s'.nextJob with
                    | (q, s') =>
                      let job : Job := { kind := kind, card := card, crew := k, ctx := s.myCrew.ctx, member := some m,
                                         node := none, mm := f.mm, seq := q }
                      let s' := s'.modCore s.myCore (fun c => { c with jobs := c.jobs ++ [job] })
                      done (if f.mm then s'.modMe (fun c => { c with follow := .awaiting, landed := none }) else s')))

/-- cpy (R365). -/
def execCpy (f : T32f) (s : State) : Out := issueCopy (.cpy f) 0 f s

/-- cpy2 (R365). -/
def execCpy2 (f : T32f) (s : State) : Out := issueCopy (.cpy2 f) 1 f s

/-- cpyx (R365). -/
def execCpyx (f : T32f) (s : State) : Out := issueCopy (.cpyx f) 2 f s

/-- put (R296). -/
def execPut (f : T32f) (s : State) : Out := issueCopy (.put f) 3 f s

/-- get (R296). -/
def execGet (f : T32f) (s : State) : Out := issueCopy (.get f) 4 f s

/-! ### Running (R297, R298, R365, R366) -/

def State.setJob (s : State) (core i : Nat) (j : Job) : State :=
  s.modCore core (fun c => { c with jobs := c.jobs.set i j })

/-- The oldest waiting job that no earlier overlapping job holds back, while fewer than 4 run. -/
def copyJobTakeEv (core : Nat) (s : State) : Option State :=
  let jobs := (s.core core).jobs
  if (s.chip (dieChip (coreDie core))).tripped ∨ (jobs.filter (·.running)).length ≥ 4 then none
  else match ((List.range jobs.length).zip jobs).find? (fun e => !e.2.running && !blocked s (e.2.footprint (coreDie core))) with
    | none => none
    | some (i, j) => some (s.setJob core i { j with running := true })

/-- R366. -/
def execCopyJobTake (core : Nat) (s : State) : Out := .next ((copyJobTakeEv core s).getD s)

/-- A failure across a dark path is logged through the event arbiter of the issuer's die (R284).
DEDUCED, log entry 16. -/
def logDark (die : Nat) (t : Trap) (s : State) : State :=
  if t.code = Cause.darkpath then s.logError die 6 6 1 t.tval.toNat (addrDie die t.tval.toNat) else s

/-- A job leaves its unit: its batch, node, follow-on slot and failure record learn how it ended (R191, R298, R305, R358). -/
def endJob (core i : Nat) (j : Job) (fail : Option Trap) (s : State) : State :=
  let die := coreDie core
  let s := (s.modCore core (fun c => { c with jobs := c.jobs.eraseIdx i })).leaveAll (engineId j.seq)
  let s := match fail with
    | some t =>
      let s := logDark die t s
      if j.kind ≥ 3 ∧ j.node.isNone then s.recordFail j.crew (addrDie die t.tval.toNat) (finder die t) 0 2 t.code 0 else s
    | none => s
  let cause := fail.map (·.code)
  let s := (s.engineDone j.member cause).finishNode? j.node (cause.getD 0)
  if j.mm then copyLanded j.crew (cause.getD 0) s else s

/-- The issuing core of a job, for the checks of its own scratchpad. -/
def Job.core (j : Job) (core : Nat) : Option Nat := if j.node.isSome then none else some core

/-- The requester that a job is at the homes of its bytes. -/
def Job.id (j : Job) : Nat := engineId j.seq

/-- The source address of the job's row: under cpyx read from its index word, once for the row (R365). -/
def jobSource (s : State) (core : Nat) (j : Job) : Chk Nat × State :=
  let die := coreDie core
  let c := j.card
  if j.kind = 2 then
    let xa := (cardXaddr c + 4 * j.row) % 2 ^ 64
    match j.src with
    | some a => (.ok a, s)
    | none => match engineRange s j.id die (j.core core) j.ctx .read xa 4 with
      | (.fault t, s) => (.fault t, s)
      | (.wait, s) => (.wait, s)
      | (.ok ps, s) =>
        let fresh := s.anyBad ps
        match s.readBytes ps with
        | (bs, s) =>
          if bytesMark bs then
            (.fault { code := if fresh then Cause.ue else Cause.poison, tval := BitVec.ofNat 64 xa }, s)
          else
            let a := (cardSrc c : Int) + bytesNum bs * cardSstride c
            if a < cardSrc c ∨ a + cardLen c > cardSrc c + cardFext c then
              (.fault { code := Cause.fabopnd, tval := BitVec.ofInt 64 a }, s)
            else (.ok a.toNat, s)
  else (.ok (rowAddr (cardSrc c) j.row (if j.kind = 1 then cardSstride c else 0)), s)

/-- The packet moves: from the die of the source to the die of the destination. -/
def jobTravel (core : Nat) (j : Job) (n : Nat) (s : State) : Option State :=
  let die := coreDie core
  if j.kind = 3 then s.pass die (addrDie die (cardDst j.card)) n
  else if j.kind = 4 then s.exchange die (addrDie die (cardSrc j.card)) 0 n
  else some s

/-- The job after a packet of n bytes from a row that starts at src. -/
def Job.landed (j : Job) (src n : Nat) : Job :=
  if j.off + n ≥ cardLen j.card then { j with row := j.row + 1, off := 0, src := none } else { j with off := j.off + n, src := some src }

/-- The next packet of at most 256 bytes of a running job: written wholly or not at all (R297). -/
def jobPacketLandEv (core i : Nat) (s : State) : Option State :=
  match (s.core core).jobs[i]? with
  | none => none
  | some j =>
    let c := j.card
    if (s.chip (dieChip (coreDie core))).tripped ∨ !j.running ∨ j.row ≥ jobRows j.kind c then none
    else match jobSource s core j with
      | (.wait, t) => s.held t
      | (.fault t, s) => some (endJob core i j (some t) s)
      | (.ok src, s1) =>
        let n := min 256 (cardLen c - j.off)
        let die := coreDie core
        match engineRange s1 j.id die (j.core core) j.ctx .read ((src + j.off) % 2 ^ 64) n with
        | (.wait, t) => s.held t
        | (.fault t, s) => some (endJob core i j (some t) s)
        | (.ok ps, s2) =>
          match engineRange s2 j.id die (j.core core) j.ctx .write
              ((rowAddr (cardDst c) j.row (if jobRows j.kind c = 1 then 0 else cardDstride c) + j.off) % 2 ^ 64) n with
          | (.wait, t) => s.held t
          | (.fault t, s) => some (endJob core i j (some t) s)
          | (.ok qs, s3) =>
            let fresh := s3.anyBad ps
            match s3.readBytes ps with
            | (bs, s4) =>
              if fresh then some (endJob core i j (some { code := Cause.ue, tval := BitVec.ofNat 64 (src + j.off) }) s4)
              else (jobTravel core j n s4).map (fun s => ((s.perform (qs.zip bs)).leaveAll j.id).setJob core i (j.landed src n))

/-- R297, R365. -/
def execJobPacketLand (core : Nat) (j : Nat) (s : State) : Out := .next ((jobPacketLandEv core j s).getD s)

/-- After the last packet the signal word is written, as a release at the card's scope, and the job is complete (R224,
R297). An add that meets a poisoned word leaves it as it is (R268).
DEDUCED, log entry 32. -/
def jobSignalWriteEv (core i : Nat) (s : State) : Option State :=
  match (s.core core).jobs[i]? with
  | none => none
  | some j =>
    let c := j.card
    if (s.chip (dieChip (coreDie core))).tripped ∨ !j.running ∨ j.row < jobRows j.kind c then none
    else if !cardSig c then some (endJob core i j none s)
    else
      let die := coreDie core
      match engineCheck s j.id die (j.core core) j.ctx (if bitOf (cardFlags c) 1 then .rmw else .write) (cardSaddr c) (cardSigBytes c) with
      | (.wait, t) => s.held t
      | (.fault t, s) => some (endJob core i j (some t) s)
      | (.ok ps, s) =>
        match s.pass die (addrDie die (cardSaddr c)) (cardSigBytes c) with
        | none => none
        | some s =>
          let s := if bitOf (cardFlags c) 1 then (rmwAt s ps false 0 ⟨cardVal c, false⟩ {}).2
            else s.perform (storeCells ps ⟨cardVal c, false⟩)
          some (endJob core i j none s)

/-- R224, R297. -/
def execJobSignalWrite (core : Nat) (j : Nat) (s : State) : Out := .next ((jobSignalWriteEv core j s).getD s)

end Sys2Proof.Machine
end

