-- ==== Sys2Proof/Machine/Fabric.lean ====
section
/-!
DEFINITION. Read-only windows, publications and subscriptions, collectives, and dark lanes and paths (R283 to R305).
-/
namespace Sys2Proof.Machine

/-! ### Read-only windows (R287 to R290) -/

def State.modWindow (s : State) (k w : Nat) (f : Window → Window) : State :=
  s.modCrew k (fun c => { c with win := put {} c.win w (f (get {} c.win w)) })

/-- Selectors of word j of a subscription, of a publication channel and of a group of a die (R291). -/
def subSel (n j : Nat) : Nat := 0x600 + 4 * n + j
def pubSel (ch j : Nat) : Nat := 0xA00 + 2 * ch + j
def grpSel (g j : Nat) : Nat := 0x800 + 8 * g + j

/-- A valid entry owned by a context: bit 0 and bits [8:1] of word 0.
DEDUCED, log entry 34. -/
def entryOwned (w : Word) (ctx : Nat) : Bool := wbit w 0 && wfield w 1 8 == ctx

def subOwned (s : State) (die ctx n : Nat) : Bool := decide (n < 64) && entryOwned (s.reg die (subSel n 0)) ctx

/-- rwmap (R288): the state of R287 is written, and the completion is a refresh point. -/
def execRwmap (f : T32f) (s : State) : Out :=
  let sub := bitOf f.op.toNat 0
  inA s (useRegs (.rwmap f) (if sub then [f.a.toNat, f.b.toNat, f.c.toNat] else [f.a.toNat, f.b.toNat]) [] s (fun vs =>
    let base := (vs.getD 0 0).toNat
    let len := (vs.getD 1 0).toNat
    let n := (vs.getD 2 0).toNat
    if base / 2 ^ 60 > 2 then raise { code := Cause.addrflt, reason := 1, tval := vs.getD 0 0 } s
    else if base / 2 ^ 60 = 2 ∨ base % 256 ≠ 0 ∨ len % 256 ≠ 0 ∨ len = 0
        ∨ (base / 2 ^ 60 = 1 ∧ base % 2 ^ 20 + len > 2 ^ 20) then raise (fabopnd 1) s
    else if sub ∧ !subOwned s s.myDie s.myCrew.ctx n then raise (fabopnd 3) s
    else if len > 2 ^ 48 - 256 then raise (fabopnd 5) s
    else match crewCheck s s.me false base 1 with
      | .error r => raise { code := Cause.addrflt, reason := r, tval := vs.getD 0 0 } s
      | .ok _ =>
        done (s.modWindow s.me (bitsOf f.imm.toNat 0 4) (fun _ =>
          { base := BitVec.ofNat 64 (resolveSelf s.myDie base), len := len, sub := if sub then n else 0, bsub := sub,
            bound := true, seen := if sub then s.reg s.myDie (subSel n 3) else 0, blocks := [] }))))

/-- rwinv (R289). -/
def execRwinv (f : T32f) (s : State) : Out :=
  inA s (done (s.modWindow s.me (bitsOf f.imm.toNat 0 4) (fun w => { w with blocks := [] })))

/-- Fetch a block of a bound window (R290).
DEDUCED, log entry 40. -/
def windowBlockFillEv (k w blk : Nat) (s : State) : Option State :=
  let x := get {} (s.crew k).win w
  if !x.bound ∨ 256 * blk ≥ x.len ∨ get [] x.blocks blk ≠ [] then none
  else match fillBlock s k w blk with
    | (.ok _, s) => some s
    | _ => none

/-- R290. -/
def execWindowBlockFill (k : Nat) (w : Nat) (blk : Nat) (s : State) : Out := .next ((windowBlockFillEv k w blk s).getD s)

def windowBlockEvictionEv (k w blk : Nat) (s : State) : Option State :=
  let x := get {} (s.crew k).win w
  if get [] x.blocks blk = [] then none
  else some (s.modWindow k w (fun x => { x with blocks := put [] x.blocks blk [] }))

/-- R290. -/
def execWindowBlockEviction (k : Nat) (w : Nat) (blk : Nat) (s : State) : Out :=
  .next ((windowBlockEvictionEv k w blk s).getD s)

/-! ### Subscriptions (R295) -/

/-- The crew observes the edition of a subscription: its windows bound to it refresh (R290). -/
def observeEdition (n : Nat) (e : Word) (s : State) : State :=
  s.modMe (fun c => { c with win := c.win.map (fun (x : Nat × Window) =>
    if x.2.bsub ∧ x.2.sub = n ∧ x.2.seen ≠ e then (x.1, { x.2 with seen := e, blocks := [] }) else x) })

/-- edget (R295). -/
def execEdget (f : T32f) (s : State) : Out :=
  let n := f.imm.toNat
  inA s (useRegs (.edget f) [] [f.a.toNat] s (fun _ =>
    if !subOwned s s.myDie s.myCrew.ctx n then raise (fabopnd 3) s
    else
      let e := s.reg s.myDie (subSel n 3)
      done ((observeEdition n e s).setR f.a.toNat e 0)))

/-- edwait (R295). -/
def execEdwait (f : T32f) (s : State) : Out :=
  let n := f.imm.toNat
  inA s (use1 (.edwait f) f.b.toNat [f.a.toNat] s (fun b =>
    if !subOwned s s.myDie s.myCrew.ctx n then raise (fabopnd 3) s
    else
      let e := s.reg s.myDie (subSel n 3)
      if b.toNat ≤ e.toNat then done ((observeEdition n e s).setR f.a.toNat e 0)
      else if wbit (s.reg s.myDie (subSel n 0)) 23 then
        raise { code := Cause.darkpath } (s.darkFail s.me (wfield (s.reg s.myDie (subSel n 0)) 9 8) 0)
      else namedWait (.edwait f) s))

/-! ### Publications (R292 to R294) -/

/-- pub (R292): the publication waits for the engine of its channel. -/
def execPub (f : T32f) (s : State) : Out :=
  let ch := f.imm.toNat
  inA s (use2 (.pub f) f.a.toNat f.b.toNat [] s (fun a b =>
    let w := s.reg s.myDie (pubSel ch 0)
    if a.toNat / 2 ^ 60 > 1 then
      raise { code := Cause.addrflt, reason := if a.toNat / 2 ^ 60 = 2 then 6 else 1, tval := a } s
    else if gaDie s.myDie a.toNat ≠ s.myDie then raise (fabopnd 2) s
    else if !entryOwned w s.myCrew.ctx then raise (fabopnd 3) s
    else if b.toNat < 1 ∨ b.toNat > wfield w 16 32 then raise (fabopnd 5) s
    else match rangeTrap s s.myDie (some s.myCore) [(false, a.toNat, b.toNat)] with
      | some t => raise t s
      | none =>
        if (s.myCrew.counter f.cc.toNat).blocked then namedWait (.pub f) s
        else match s.joinBatch s.me f.cc.toNat with
          | (m, s) => match s.nextJob with
            | (q, s) =>
              let p : Pub := { die := s.myDie, ch := ch, edition := 0, crew := s.me, ctx := s.myCrew.ctx, member := some m,
                               src := a, len := b.toNat, seq := q }
              done { s with pubs := s.pubs ++ [p] }))

/-- The members of a group as a die's table gives them (R291). -/
def groupMembers (s : State) (die g : Nat) : List Nat :=
  (List.range 256).filter (fun d => wbit (s.reg die (grpSel g (1 + d / 64))) (d % 64))

/-- The publication is complete: its batch learns the first failure (R294). -/
def settlePub (i : Nat) (s : State) : State :=
  match s.pubs[i]? with
  | none => s
  | some p =>
    if p.accepted ∧ p.dests = [] then ({ s with pubs := s.pubs.eraseIdx i }).engineDone p.member p.fail else s

/-- A failure across a dark path, whose address is not stated, is logged through the event arbiter of the issuer's die (R284).
DEDUCED, log entry 16. -/
def darkLogged (die peer code : Nat) (s : State) : State :=
  if code = Cause.darkpath then
    let loc := s.freeVal
    loc.2.logError die 6 6 1 loc.1.toNat peer
  else s

/-- A member fails: the subscription logic logs it, and the publisher's crew records it (R294, R305). The packing of
channel and edition in info, and the location of the unit, are not stated: free values. -/
def failDest (i mem rep code : Nat) (s : State) : State :=
  match s.pubs[i]? with
  | none => s
  | some p =>
    let info := s.freeVal
    let addr := info.2.freeVal
    let s := darkLogged p.die mem code (addr.2.logError mem 11 6 1 addr.1.toNat info.1.toNat)
    let s := s.recordFail p.crew mem rep p.ch 1 code p.edition
    settlePub i { s with pubs := s.pubs.set i { p with dests := p.dests.filter (fun d => d.1 != mem), fail := p.fail <|> some code } }

/-- The next pub of a channel is accepted: its edition is counted and its source read once (R293). A source that cannot
be read fails the publication, and nothing is sent.
DEDUCED, log entry 35. -/
def publicationAcceptEv (die ch : Nat) (s : State) : Option State :=
  match ((List.range s.pubs.length).zip s.pubs).find? (fun e => e.2.die == die && e.2.ch == ch && !e.2.accepted) with
  | none => none
  | some (i, p) =>
    if blocked s p.footprint then none
    else
      let e := s.reg die (pubSel ch 1) + 1
      match engineRange s (engineId p.seq) die (some (crewCore p.crew)) p.ctx .read p.src.toNat p.len with
      | (.wait, t) => s.held t
      | (.fault t, s) =>
        let s := (s.setReg die (pubSel ch 1) e).recordFail p.crew (addrDie die t.tval.toNat) (finder die t) ch 1 t.code e.toNat
        some (({ s with pubs := s.pubs.eraseIdx i }).engineDone p.member (some t.code))
      | (.ok ps, s) =>
        let fresh := s.anyBad ps
        match s.readBytes ps with
        | (bs, s) =>
          let s := (s.leaveAll (engineId p.seq)).setReg die (pubSel ch 1) e
          if fresh then
            let s := s.recordFail p.crew die die ch 1 Cause.ue e.toNat
            some (({ s with pubs := s.pubs.eraseIdx i }).engineDone p.member (some Cause.ue))
          else
            let grp := wfield (s.reg die (pubSel ch 0)) 9 6
            some (settlePub i { s with pubs := s.pubs.set i { p with
              accepted := true, edition := e.toNat, data := bs, dests := (groupMembers s die grp).map (fun d => (d, 0)) } })

/-- R293. -/
def execPublicationAccept (die : Nat) (ch : Nat) (s : State) : Out := .next ((publicationAcceptEv die ch s).getD s)

/-- The valid subscription of a die to a channel of a publisher: the lowest (R293). -/
def findSub (s : State) (mem die ch : Nat) : Option Nat :=
  (List.range 64).find? (fun n =>
    let w := s.reg mem (subSel n 0)
    wbit w 0 && wfield w 9 8 == die && wfield w 17 6 == ch)

/-- A poison fault of a landing region (R294): a packet that covers only part of a word finds the word poisoned. The cause. -/
def partPoison (s : State) (ps : List Nat) : Option Nat :=
  let part := (wordsOf ps).filter (fun w => !(List.range 8).all (fun i => ps.contains (8 * w + i)))
  if part.any (fun w => get false s.bad w) then some Cause.ue
  else if part.any (fun w => get false s.poison w) then some Cause.poison else none

/-- The next packet of publication i lands at a member (R293, R294); after the last one the edition is written.
DEDUCED, log entry 36. -/
def publicationPacketLandEv (i mem : Nat) (s : State) : Option State :=
  match s.pubs[i]? with
  | none => none
  | some p => match p.dests.find? (fun d => d.1 == mem) with
    | none => none
    | some (_, off) =>
      if (s.pubs.take i).any (fun q => q.die == p.die && q.ch == p.ch && q.accepted) then none
      else if mem ≠ p.die ∧ !routeValid s p.die mem then some (failDest i mem p.die Cause.addrflt s)
      else if pathDown s p.die mem || (mem != p.die && pathDown s mem p.die) then some (failDest i mem p.die Cause.darkpath s)
      else if !linkOpen s p.die mem then none
      else match findSub s mem p.die p.ch with
        | none => some (failDest i mem mem Cause.fabopnd s)
        | some n =>
          let w := s.reg mem (subSel n 0)
          let llen := wfield (s.reg mem (subSel n 2)) 0 32
          if wbit w 23 then some (failDest i mem mem Cause.darkpath s)
          else
            let cnt := min 256 (p.len - off)
            let keep := min cnt (llen - off)
            let ga := ((s.reg mem (subSel n 1)).toNat + off) % 2 ^ 64
            match (if keep = 0 then (.ok [], s) else engineRange s (engineId p.seq) mem none (wfield w 1 8) .write ga keep) with
            | (.wait, t) => s.held t
            | (.fault t, s) => some (failDest i mem mem t.code s)
            | (.ok ps, s) => match (s.leave (engineId p.seq) ps).pass p.die mem cnt with
              | none => none
              | some s =>
                let bad := partPoison s ps
                let s := (if bad.isSome then (s.readBytes ps).2 else s).perform (ps.zip ((p.data.drop off).take keep))
                match bad with
                | some code => some (failDest i mem mem code s)
                | none =>
                  if off + cnt < p.len then
                    some { s with pubs := s.pubs.set i { p with
                      dests := p.dests.map (fun (d : Nat × Nat) => if d.1 = mem then (mem, off + cnt) else d) } }
                  else if p.len > llen then some (failDest i mem mem Cause.fabopnd s)
                  else
                    let s := s.setReg mem (subSel n 3) (BitVec.ofNat 64 p.edition)
                    some (settlePub i { s with pubs := s.pubs.set i { p with dests := p.dests.filter (fun d => d.1 != mem) } })

/-- R293. -/
def execPublicationPacketLand (p : Nat) (mem : Nat) (s : State) : Out := .next ((publicationPacketLandEv p mem s).getD s)

/-! ### Collectives (R299 to R303) -/

/-- A block's outcome stands at this member. -/
def CollMember.has (m : CollMember) (q : Nat) : Bool := m.landed.contains q || m.failed.any (fun f => f.1 == q)

/-- The member receives the results of this block (R301). -/
def CollMember.receives (m : CollMember) (q : Nat) : Bool :=
  match m.kind with
  | 0 | 2 => true
  | 1 => q == m.rank
  | 3 => q == m.root
  | _ => m.root == m.rank

/-- A member declares a block failed (R303): a notice that names the member itself as unreachable is turned round.
DEDUCED, log entry 37. -/
def CollMember.fail (m : CollMember) (q dark rep cause : Nat) : CollMember :=
  if m.has q then m
  else
    let turn := dark == m.die && cause == Cause.darkpath
    { m with failed := m.failed ++ [if turn then (q, rep, m.die, cause) else (q, dark, rep, cause)] }

def Coll.at (c : Coll) (die : Nat) : Option CollMember := c.members.find? (fun m => m.die == die)

def Coll.set (c : Coll) (m : CollMember) : Coll :=
  { c with members := c.members.map (fun (x : CollMember) => if x.die = m.die then m else x) }

def Coll.elem (c : Coll) (owner e : Nat) : CollElem := get {} c.elems (owner * 2 ^ 32 + e)

/-- Every contribution to block q has been combined at its owner. -/
def Coll.combined (c : Coll) (m : CollMember) (q : Nat) : Bool :=
  (List.range (m.lo (q + 1) - m.lo q)).all (fun i =>
    m.mask.all (fun d => (c.elem (m.mask.getD q 0) (m.lo q + i)).got.contains d))

/-- The poison of a combined block: its cause and the die that sent it, UE before POISON, then the lowest die. -/
def Coll.blockMark (c : Coll) (m : CollMember) (q : Nat) : Option (Nat × Nat × Nat × Nat) :=
  (List.range (m.lo (q + 1) - m.lo q)).foldl (fun acc i =>
    let x := c.elem (m.mask.getD q 0) (m.lo q + i)
    if x.code = 0 then acc else match acc with
      | none => some (q, x.who, m.mask.getD q 0, x.code)
      | some (_, w, _, code) =>
        if x.code > code ∨ (x.code = code ∧ x.who < w) then some (q, x.who, m.mask.getD q 0, x.code) else acc) none

/-- The outcome of block q is known to the member, so far as its completion needs it (R302, R303). -/
def Coll.known (c : Coll) (m : CollMember) (q : Nat) : Bool :=
  m.has q || (!m.receives q && (!m.combines || c.combined m q))

/-- What the member sends has been accepted (R302). -/
def Coll.delivered (s : State) (c : Coll) (m : CollMember) : Bool :=
  if m.kind = 2 ∨ (m.kind = 3 ∧ m.root = m.rank) then
    m.mask.all (fun d => pathDown s m.die d || (match c.at d with
      | some x => x.has m.rank
      | none => false))
  else true

/-- The record of a member that completes: that of its lowest-ranked block with a failure, else with a poisoned element
(R303). -/
def Coll.record (c : Coll) (m : CollMember) : Option (Nat × Nat × Nat × Nat) :=
  let marks := if m.combines then
      ((List.range m.mask.length).filter (fun q => !m.failed.any (fun f => f.1 == q))).filterMap (c.blockMark m)
    else []
  let low := fun (l : List (Nat × Nat × Nat × Nat)) => l.foldl (fun (acc : Option (Nat × Nat × Nat × Nat)) x => match acc with
    | none => some x
    | some y => if x.1 < y.1 then some x else acc) none
  match low m.failed with
  | some r => some r
  | none => low (m.marks ++ marks)

/-- One member completes, if all that it needs is known.
DEDUCED, log entry 39. -/
def settleMember (ci : Nat) (s : State) (die : Nat) : State :=
  match s.colls[ci]? with
  | none => s
  | some c => match c.at die with
    | none => s
    | some m =>
      if m.complete || !(List.range m.mask.length).all (c.known m) || !Coll.delivered s c m then s
      else
        let s : State := { s with colls := s.colls.set ci (c.set { m with complete := true }) }
        match c.record m with
        | none => (s.engineDone m.member none).finishNode? m.node 0
        | some (_, dark, rep, cause) =>
          let s := darkLogged m.die dark cause s
          let s := if m.node.isSome then s else s.recordFail m.crew dark rep c.group 0 cause c.num
          (s.engineDone m.member (some cause)).finishNode? m.node cause

/-- Members complete; a collective that every die of its group has joined and completed is gone. -/
def settleColl (ci : Nat) (s : State) : State :=
  match s.colls[ci]? with
  | none => s
  | some c =>
    let s := (c.members.map (·.die)).foldl (settleMember ci) s
    match s.colls[ci]? with
    | none => s
    | some c =>
      if c.members.all (fun m => m.complete && m.mask.all (fun d => (c.at d).isSome)) then
        { s with colls := s.colls.eraseIdx ci }
      else s

/-- Replace a member of a collective. -/
def State.setMember (s : State) (ci : Nat) (c : Coll) (m : CollMember) : State :=
  { s with colls := s.colls.set ci (c.set m) }

/-- What a dark path from a member to a peer decides: the member's own block lacks the peer's contributions, and the
peer's block cannot reach the member (R303). -/
def CollMember.cutOff (c : Coll) (peer : Nat) (m : CollMember) : CollMember :=
  if m.complete ∨ peer = m.die ∨ !m.mask.contains peer then m
  else
    let qp := (m.mask.takeWhile (fun d => d != peer)).length
    let own := m.rank
    let lacks := m.combines && (List.range (m.lo (own + 1) - m.lo own)).any (fun i =>
      !(c.elem m.die (m.lo own + i)).got.contains peer)
    let m' := if lacks then m.fail own peer m.die Cause.darkpath else m
    if m.combines || m.kind == 2 || (m.kind == 3 && m.root == qp) then
      (if m'.combines && !m'.receives qp && c.combined m' qp then m' else m'.fail qp peer m.die Cause.darkpath)
    else m'

/-- A die marks its path to a peer dark: its part in every collective learns of it (R303). -/
def collDark (die peer : Nat) (s : State) : State :=
  (List.range s.colls.length).reverse.foldl (fun s ci =>
    match s.colls[ci]? with
    | none => s
    | some c => match c.at die with
      | none => settleColl ci s
      | some m => settleColl ci (s.setMember ci c (m.cutOff c peer))) s

/-- Collectives of a group outstanding on a die (R300). -/
def collsOut (s : State) (die g : Nat) : Nat :=
  (s.colls.filter (fun c => c.group == g && (match c.at die with
    | some m => !m.complete
    | none => false))).length

/-- A die joins the next collective of a group (R300): the one of that number which it has not joined yet. -/
def joinColl (g : Nat) (m : CollMember) (s : State) : State :=
  let num := get 0 (s.die m.die).cseq g
  let s := s.modDie m.die (fun x => { x with cseq := put 0 x.cseq g (num + 1) })
  let downs := m.mask.filter (fun d => pathDown s m.die d)
  let enter := fun (c : Coll) => downs.foldl (fun c d => match c.at m.die with
    | some x => c.set (x.cutOff c d)
    | none => c) { c with members := c.members ++ [m] }
  match s.colls.findIdx? (fun c => c.group == g && c.num == num && (c.at m.die).isNone) with
  | some ci => settleColl ci { s with colls := s.colls.modify ci enter }
  | none =>
    let s : State := { s with colls := s.colls ++ [enter { group := g, num := num, members := [] }] }
    settleColl (s.colls.length - 1) s

/-- The count word of a collective: n and root (R299). -/
def collCount (w : Word) : Nat × Nat := (wfield w 0 25, wfield w 32 8)

/-- Checks of a collective at its issuer (R299): the FABOPND reason, lowest first. -/
def collReason (s : State) (die ctx g kind : Nat) (src dst : Nat) (w : Word) : Option Nat :=
  let n := (collCount w).1
  let root := (collCount w).2
  let p := (groupMembers s die g).length
  let rooted := kind == 3 || kind == 4
  let rank := ((groupMembers s die g).takeWhile (fun d => d != die)).length
  let useDst := kind != 4 || root == rank
  if gaDie die src ≠ die ∨ (useDst ∧ gaDie die dst ≠ die) then some 2
  else if !entryOwned (s.reg die (grpSel g 0)) ctx then some 3
  else if !(groupMembers s die g).contains die then some 4
  else if n < 1 ∨ n > 2 ^ 24 ∨ (rooted ∧ root ≥ p) then some 5
  else if wfield w 25 7 ≠ 0 ∨ wfield w 40 24 ≠ 0 ∨ (!rooted ∧ root ≠ 0) then some 6
  else none

/-- The ranges of a collective's operands that are used (R301): of P members, with elements of a width in bytes. -/
def collAddrs (s : State) (die g kind src dst width : Nat) (w : Word) : List Operand :=
  let mask := groupMembers s die g
  let rank := (mask.takeWhile (fun d => d != die)).length
  let n := (collCount w).1
  let root := (collCount w).2
  [(false, src, max 1 (width * collReads kind rank root n))]
    ++ (if kind != 4 || root == rank then [(true, dst, width * collResults kind rank root mask.length n)] else [])

/-- The trap that a collective raises at its issuer. -/
def collCheck (s : State) (die : Nat) (core : Option Nat) (ctx g kind src dst width : Nat) (w : Word) : Option Trap :=
  let as := collAddrs s die g kind src dst width w
  match rangeTrap s die core (as.filter (fun a => decide (a.2.1 / 2 ^ 60 > 1))) with
  | some t => some t
  | none => match collReason s die ctx g kind src dst w with
    | some r => some (fabopnd r)
    | none => rangeTrap s die core as

/-- vcoll (R299). -/
def execVcoll (f : T32f) (s : State) : Out :=
  let i := Instr.vcoll f
  let g := f.imm.toNat
  let kind := bitsOf f.op.toNat 0 3
  inA s (useRegs i [f.a.toNat, f.b.toNat, f.c.toNat] [] s (fun vs =>
    let src := vs.getD 0 0
    let dst := vs.getD 1 0
    let w := vs.getD 2 0
    let die := s.myDie
    match collCheck s die (some s.myCore) s.myCrew.ctx g kind src.toNat dst.toNat (collWidth (bitOf f.op.toNat 3)) w with
    | some t => raise t s
    | none =>
      if collsOut s die g ≥ 4 || (s.myCrew.counter f.cc.toNat).blocked then namedWait i s
      else match s.joinBatch s.me f.cc.toNat with
        | (m, s) => match s.nextJob with
          | (q, s) =>
            let part : CollMember := {
              die := die, crew := s.me, ctx := s.myCrew.ctx, member := some m, node := none,
              shape := (kind, f.t.toNat, bitOf f.op.toNat 3, (collCount w).1, (collCount w).2),
              mask := groupMembers s die g, src := src, dst := dst, seq := q }
            done (joinColl g part s)))

/-- Combine a contribution (R86): a maximum or minimum treats a quiet NaN and zeros of both signs as vfmax and vfmin do (R125).
DESIGN CHOICE, log entry 107. -/
def combine (comb : Nat) (acc x : Nat) : Nat :=
  match comb with
  | 0 => (Fmt.fp32.add RNE acc x).bits
  | 1 => (Fmt.fp32.pick false acc x).bits
  | _ => (Fmt.fp32.pick true acc x).bits

/-- The owner of a block declares it failed (R303). -/
def ownerFails (ci : Nat) (c : Coll) (o : CollMember) (dark cause : Nat) (s : State) : State :=
  settleColl ci (s.setMember ci c (o.fail o.rank dark o.die cause))

/-- Two members differ in kind, combination, format, count or root, or in their masks, or one is outside the mask of the other: a
packet of m is a mismatch at o (R300). -/
def CollMember.differs (o m : CollMember) : Bool := o.mask != m.mask || o.shape != m.shape || !o.mask.contains m.die

/-- A member that finds a mismatch fails the block that it owns (R303). In a broadcast that waits for a root which differs, it takes the
root's block as failed as well: the root receives no packet in which it could find the difference itself.
DESIGN CHOICE, log entry 118. -/
def CollMember.mismatch (o : CollMember) (from_ : Nat) : CollMember :=
  let o' := o.fail o.rank from_ o.die Cause.fabopnd
  if o.kind = 3 ∧ o.mask.getD o.root 0 = from_ then o'.fail o.root from_ o.die Cause.fabopnd else o'

/-- A packet of a member that combines nothing reaches a member that differs from it (R300). -/
def strangePacket (ci : Nat) (c : Coll) (m : CollMember) (e : Nat) (s : State) : Option State :=
  match c.at (m.mask.getD e 0) with
  | none => none
  | some o =>
    let o' := o.mismatch m.die
    if !(m.kind == 2 || m.root == m.rank) || decide (e ≥ m.mask.length) || o.complete || !o.differs m || o' == o
        || pathDown s m.die o.die || !linkOpen s m.die o.die || blocked s m.footprint then none
    else (s.pass m.die o.die (min 256 (m.n * m.width))).map (fun s => settleColl ci (s.setMember ci c o'))

/-- A contribution to element e of member m is combined at its owner: an element with these bytes, fresh if their read found them
uncorrectable (R302). -/
def contributed (ci : Nat) (c : Coll) (m o : CollMember) (e : Nat) (fresh : Bool) (bs : List VByte) (s : State) : State :=
  let x := c.elem o.die e
  let v := if m.half then (Fmt.bf16.convert .fp32 RNE (bytesNum bs)).bits else bytesNum bs
  let code := if fresh then Cause.ue else if bytesMark bs then Cause.poison else 0
  let worse := decide (code > x.code) || (code == x.code && decide (m.die < x.who))
  let x' : CollElem :=
    { got := x.got ++ [m.die], acc := BitVec.ofNat 32 (if x.got = [] then v else combine m.comb x.acc.toNat v),
      p := x.p || bytesMark bs, code := if worse then code else x.code, who := if worse then m.die else x.who }
  let s : State := { s with colls := s.colls.set ci { c with elems := ins c.elems (o.die * 2 ^ 32 + e) x' } }
  let loc := s.freeVal
  settleColl ci (if bytesMark bs then loc.2.logError o.die 12 6 1 loc.1.toNat c.group else s)

/-- The contribution of a member to one element arrives at its owner, or the marker that stands for one that it could not read (R300 to
R303). Of a member that combines nothing, a packet to its e-th peer does. -/
def collectiveContributionArriveEv (ci die e : Nat) (s : State) : Option State :=
  match s.colls[ci]? with
  | none => none
  | some c => match c.at die with
    | none => none
    | some m =>
      if !m.combines then strangePacket ci c m e s else
      let q := m.blockOf e
      let owner := m.mask.getD q 0
      match c.at owner with
      | none => none
      | some o =>
        let stranger := fun (s : State) => settleColl ci (s.setMember ci c (o.mismatch die))
        if decide (e ≥ m.n) || m.complete || o.complete || m.failed.any (fun f => f.1 == q)
            || o.failed.any (fun f => f.1 == o.rank) || (c.elem owner e).got.contains die || pathDown s die owner
            || !linkOpen s die owner || blocked s m.footprint then none
        else match engineRange s m.id die m.core m.ctx .read ((m.src.toNat + e * m.width) % 2 ^ 64) m.width with
          | (.wait, t) => s.held t
          | (.fault t, s) => (s.pass die owner 0).map (fun s => if o.differs m then stranger s else ownerFails ci c o die t.code s)
          | (.ok ps, s) => ((s.leave m.id ps).pass die owner m.width).map (fun s =>
            let fresh := s.anyBad ps
            match s.readBytes ps with
            | (bs, s) => if o.differs m then stranger s else contributed ci c m o e fresh bs s)

/-- R302. -/
def execCollectiveContributionArrive (c : Nat) (die : Nat) (elem : Nat) (s : State) : Out :=
  .next ((collectiveContributionArriveEv c die elem s).getD s)

/-- The next packet of the results of block q, of at most 256 bytes, lands at a member, from offset off of its destination on: a
write that fails is the member's own failure (R277, R301).
DEDUCED, log entry 38. -/
def landBlock (ci : Nat) (c : Coll) (m : CollMember) (q from_ off : Nat) (all : List VByte) (mark : Option (Nat × Nat × Nat × Nat))
    (s : State) : Option State :=
  let start := get 0 m.part q
  let bs := (all.drop start).take 256
  let done := { m with landed := m.landed ++ [q], part := put 0 m.part q 0 }
  let m' := if all.length ≤ start + bs.length then { done with marks := m.marks ++ mark.toList }
    else { m with part := put 0 m.part q (start + bs.length) }
  if bs.isEmpty then some (settleColl ci (s.setMember ci c m'))
  else match engineRange s m.id m.die m.core m.ctx .write ((m.dst.toNat + off * m.width + start) % 2 ^ 64) bs.length with
    | (.wait, t) => s.held t
    | (.fault t, s) =>
      let r := (q, addrDie m.die t.tval.toNat, finder m.die t, t.code)
      (s.pass from_ m.die bs.length).map (fun s => settleColl ci (s.setMember ci c { done with marks := m.marks ++ [r] }))
    | (.ok ps, s) => ((s.leave m.id ps).pass from_ m.die bs.length).map (fun s =>
      settleColl ci ((s.perform (ps.zip bs)).setMember ci c m'))

/-- The bytes of a result element: rounded once where the format is BF16 (R86). -/
def CollMember.result (m : CollMember) (x : CollElem) : List VByte :=
  let v := if m.half then (Fmt.fp32.convert .bf16 RNE x.acc.toNat).bits else x.acc.toNat
  (leBytes m.width v).map (fun b => ⟨b, x.p⟩)

/-- The source of a member that sends its elements unchanged, read once (R302). -/
def readSource (s : State) (m : CollMember) : Chk (List VByte × Nat) × State :=
  match m.sent with
  | some x => (.ok x, s)
  | none => match engineRange s m.id m.die m.core m.ctx .read m.src.toNat (m.n * m.width) with
    | (.wait, s) => (.wait, s)
    | (.fault t, s) => (.fault t, s)
    | (.ok ps, s) =>
      let fresh := s.anyBad ps
      match (s.leave m.id ps).readBytes ps with
      | (bs, s) => (.ok (bs, if fresh then Cause.ue else if bs.any (·.p) then Cause.poison else 0), s)

/-- The next packet of the results of a block arrives at a member (R277, R301, R302). -/
def collectiveResultArriveEv (ci die q : Nat) (s : State) : Option State :=
  match s.colls[ci]? with
  | none => none
  | some c => match c.at die with
    | none => none
    | some m =>
      let src' := m.mask.getD q 0
      match c.at src' with
      | none => none
      | some o =>
        if decide (q ≥ m.mask.length) || m.complete || m.has q || !m.receives q || blocked s m.footprint
            || pathDown s src' die || pathDown s die src' || !linkOpen s src' die then none
        else if m.combines then
          if o.failed.any (fun f => f.1 == q) || !c.combined m q then none
          else
            let es := (List.range (m.lo (q + 1) - m.lo q)).map (fun i => c.elem src' (m.lo q + i))
            landBlock ci c m q src' (if m.kind = 1 then 0 else m.lo q) (es.flatMap m.result) none s
        else if o.differs m || m.differs o || o.failed.any (fun f => f.1 == o.rank) || blocked s o.footprint then none
        else match readSource s o with
          | (.wait, t) => s.held t
          | (.fault t, s) => (s.pass src' die 0).map (fun s => settleColl ci (s.setMember ci c (m.fail q src' die t.code)))
          | (.ok (bs, code), s) =>
            let c := c.set { o with sent := some (bs, code) }
            landBlock ci c ((c.at die).getD m) q src' (if m.kind = 2 then q * m.n else 0) bs (if code = 0 then none else some (q, src', die, code)) s

/-- R302. -/
def execCollectiveResultArrive (c : Nat) (die : Nat) (blk : Nat) (s : State) : Out :=
  .next ((collectiveResultArriveEv c die blk s).getD s)

/-- The notice of a block's owner reaches a member (R303). The member knows the block by its own group entry: it is the owner's,
whatever rank the owner's entry gives it (R300). -/
def failureNoticeReceiveEv (ci die q dark rep code : Nat) (s : State) : Option State :=
  match s.colls[ci]? with
  | none => none
  | some c => match c.at die with
    | none => none
    | some m => match c.at rep with
      | none => none
      | some o =>
        if m.complete || m.has q || rep == die || m.mask.getD q 0 != rep || !m.mask.contains rep
            || !o.failed.contains (o.rank, dark, rep, code) || pathDown s rep die then none
        else (s.pass rep die 0).map (fun s => settleColl ci (s.setMember ci c (m.fail q dark rep code)))

/-- R303. -/
def execFailureNoticeReceive (c : Nat) (die : Nat) (blk : Nat) (dark : Nat) (rep : Nat) (code : Nat) (s : State) : Out :=
  .next ((failureNoticeReceiveEv c die blk dark rep code s).getD s)

/-! ### Lanes and dark paths (R283, R284) -/

/-- A lane of an in-package path is removed: its unacknowledged flits are sent again on the lanes that remain, which are
numbered from 0 anew. -/
def laneDarkEv (die peer lane : Nat) (s : State) : Option State :=
  let n := routeLanes s die peer
  if die = peer ∨ dieChip die ≠ dieChip peer ∨ lane ≥ n then none
  else
    let p := get {} (s.die die).paths peer
    let move := fun (e : Nat × Nat) =>
      if e.2 = lane then (e.1, e.1 % max 1 (n - 1)) else if e.2 > lane then (e.1, e.2 - 1) else e
    let s := s.setReg die (0x500 + peer) (putField (s.reg die (0x500 + peer)) 8 4 (n - 1))
    let s := s.modDie die (fun x => { x with paths := put {} x.paths peer { p with unack := p.unack.map move } })
    let loc := s.freeVal
    some (loc.2.logError die 5 6 (n - 1) loc.1.toNat peer)

/-- R283. -/
def execLaneDark (die : Nat) (peer : Nat) (lane : Nat) (s : State) : Out := .next ((laneDarkEv die peer lane s).getD s)

/-- A die's subscriptions to a publisher become dark (R294). -/
def darkSubs (die peer : Nat) (s : State) : State :=
  (List.range 64).foldl (fun s n =>
    let w := s.reg die (subSel n 0)
    if wbit w 0 ∧ wfield w 9 8 = peer then s.setReg die (subSel n 0) (putField w 23 1 1) else s) s

/-- What a die does as its path to a peer becomes dark: its subscriptions to the peer, and its part in every collective (R294,
R303). -/
def pathLost (die peer : Nat) (s : State) : State := collDark die peer (darkSubs die peer s)

/-- A die marks its route entry for a peer dark: no lane of the path is in service (R278, R284). -/
def pathDarkMarkEv (die peer : Nat) (s : State) : Option State :=
  if die = peer ∨ peer ≥ 256 ∨ routeDark s die peer then none
  else
    let s := s.setReg die (0x500 + peer) (putField (putField (s.reg die (0x500 + peer)) 12 1 1) 8 4 0)
    let loc := s.freeVal
    some (pathLost die peer (loc.2.logError die 6 6 1 loc.1.toNat peer))

/-- R284. -/
def execPathDarkMark (die : Nat) (peer : Nat) (s : State) : Out := .next ((pathDarkMarkEv die peer s).getD s)

end Sys2Proof.Machine
end

