-- ==== Sys2Proof/Machine/Hash.lean ====
section
/-!
DEFINITION. SHA-256 (FIPS 180-4), and what the parameter set of R393 fixes in an HSS signature and its public key (RFC 8554).
-/
namespace Sys2Proof.Machine

/-! ### SHA-256 (R393, R394) -/

/-- The integer root of degree k of n, bit by bit from bit b - 1. -/
def rootBits (k n : Nat) : Nat → Nat → Nat
  | 0, r => r
  | b + 1, r => rootBits k n b (if (r + 2 ^ b) ^ k ≤ n then r + 2 ^ b else r)

/-- The primes below 312, of which there are 64. -/
def shaPrimes : List Nat := (List.range 312).filter (fun n => decide (2 ≤ n) && (List.range 18).all (fun d => decide (d < 2 ∨ n % d ≠ 0 ∨ n = d)))

/-- 32 bits of the fraction of the cube roots of the primes, and of the square roots of the first eight.
PRESUMED, log entry 100. -/
def shaRounds : List (BitVec 32) := shaPrimes.map (fun p => BitVec.ofNat 32 (rootBits 3 (p * 2 ^ 96) 36 0))
def shaStart : List (BitVec 32) := (shaPrimes.take 8).map (fun p => BitVec.ofNat 32 (rootBits 2 (p * 2 ^ 64) 38 0))

/-- The exclusive or of three rotations. -/
def rotations (x : BitVec 32) (a b c : Nat) : BitVec 32 := x.rotateRight a ^^^ x.rotateRight b ^^^ x.rotateRight c

/-- The message schedule, newest word first. -/
def shaSchedule : Nat → List (BitVec 32) → List (BitVec 32)
  | 0, w => w
  | n + 1, w =>
    let s0 := fun (x : BitVec 32) => x.rotateRight 7 ^^^ x.rotateRight 18 ^^^ (x >>> 3)
    let s1 := fun (x : BitVec 32) => x.rotateRight 17 ^^^ x.rotateRight 19 ^^^ (x >>> 10)
    shaSchedule n ((s1 (w.getD 1 0) + w.getD 6 0 + s0 (w.getD 14 0) + w.getD 15 0) :: w)

/-- One round on the eight working words. -/
def shaRound (v : List (BitVec 32)) (kw : BitVec 32) : List (BitVec 32) :=
  match v with
  | [a, b, c, d, e, f, g, h] =>
    let t := h + rotations e 6 11 25 + ((e &&& f) ^^^ (~~~e &&& g)) + kw
    [t + rotations a 2 13 22 + ((a &&& b) ^^^ (a &&& c) ^^^ (b &&& c)), a, b, c, d + t, e, f, g]
  | v => v

/-- The chaining value after a block of 64 bytes. -/
def shaBlock (v : List (BitVec 32)) (block : List Byte) : List (BitVec 32) :=
  let word := fun (i : Nat) => BitVec.ofNat 32 (leNat ((block.drop (4 * i)).take 4).reverse)
  let w := (shaSchedule 48 ((List.range 16).map word).reverse).reverse
  List.zipWith (· + ·) v (List.foldl shaRound v (List.zipWith (· + ·) shaRounds w))

/-- The blocks of a padded message. -/
def shaBlocks : Nat → List Byte → List (BitVec 32) → List (BitVec 32)
  | 0, _, v => v
  | n + 1, m, v => shaBlocks n (m.drop 64) (shaBlock v m)

/-- Numbers as 4 and 2 bytes, high byte first. -/
def be32 (n : Nat) : List Byte := (leBytes 4 n).reverse
def be16 (n : Nat) : List Byte := (leBytes 2 n).reverse

/-- The digest of a message: 32 bytes. -/
def sha256 (m : List Byte) : List Byte :=
  let n := m.length
  let fill := (119 - n % 64) % 64
  let padded := m ++ [0x80] ++ List.replicate fill 0 ++ (leBytes 8 (8 * n)).reverse
  let v := shaBlocks ((n + 72) / 64) padded shaStart
  (List.range 32).map (fun i => BitVec.ofNat 8 ((v.getD (i / 4) 0).toNat / 2 ^ (8 * (3 - i % 4))))

/-! ### HSS signatures (R393, R395) -/

/-- Bytes of a signature and of a public key. -/
def hssBytes : Nat := 5396
def hssKeyBytes : Nat := 60

/-- The 32-bit words of a signature that the parameter set fixes, by offset: one signed public key, and the type codes of
LMOTS_SHA256_N32_W4 and LMS_SHA256_M32_H15 in both levels and in the key between them.
PRESUMED, log entry 100. -/
def hssTypes : List (Nat × Nat) := [(0, 1), (8, 3), (2188, 7), (2672, 7), (2676, 3), (2732, 3), (4912, 7)]

/-- A list of exactly n bytes, n at least 1. -/
def lengthIs (n : Nat) (l : List Byte) : Bool := !(l.drop (n - 1)).isEmpty && (l.drop n).isEmpty

/-- A list of bytes holds these 32-bit words, each with its high byte first. -/
def holdsWords (l : List Byte) (ws : List (Nat × Nat)) : Bool :=
  ws.all (fun e => leNat ((l.drop e.1).take 4).reverse == e.2)

/-- Bytes from an offset on. -/
def bytesAt (l : List Byte) (o n : Nat) : List Byte := (l.drop o).take n

/-- Digit i of 4 bits of a list of bytes, the high one of each byte first. -/
def digit (l : List Byte) (i : Nat) : Nat := (l.getD (i / 2) 0).toNat / (if i % 2 = 0 then 16 else 1) % 16

/-- The digits that a one-time signature signs: those of the hashed message, and of their checksum. -/
def otsDigits (h : List Byte) : List Nat :=
  let ds := (List.range 64).map (digit h)
  ds ++ (List.range 3).map (digit (be16 (16 * (ds.map (15 - ·)).foldl (· + ·) 0)))

/-- The chain of a digit, from its value to its end; n steps are left. -/
def otsChain (tag : List Byte) (i : Nat) : Nat → List Byte → List Byte
  | 0, x => x
  | n + 1, x => otsChain tag i n (sha256 (tag ++ be16 i ++ [BitVec.ofNat 8 (14 - n)] ++ x))

/-- The one-time public key that a signature leads to; tag is the tree's identifier and the leaf's number. -/
def otsKey (tag message sig : List Byte) : List Byte :=
  let ds := otsDigits (sha256 (tag ++ be16 0x8181 ++ bytesAt sig 4 32 ++ message))
  sha256 (tag ++ be16 0x8080 ++ (List.range 67).flatMap (fun i => otsChain tag i (15 - ds.getD i 0) (bytesAt sig (36 + 32 * i) 32)))

/-- The root that the path of a signature leads to, from a node up; n nodes of the path are left. -/
def treeRoot (tree sig : List Byte) : Nat → Nat → List Byte → List Byte
  | 0, _, x => x
  | n + 1, node, x =>
    let y := bytesAt sig (2188 + 32 * (14 - n)) 32
    treeRoot tree sig n (node / 2) (sha256 (tree ++ be32 (node / 2) ++ be16 0x8383 ++ (if node % 2 = 1 then y ++ x else x ++ y)))

/-- The root of the tree that a signature of one level leads to (RFC 8554). -/
def lmsRoot (tree message sig : List Byte) : List Byte :=
  let leaf := bytesAt sig 0 4
  let node := 2 ^ 15 + leNat leaf.reverse
  treeRoot tree sig 15 node (sha256 (tree ++ be32 node ++ be16 0x8282 ++ otsKey (tree ++ leaf) message (bytesAt sig 4 2180)))

/-- A signature, and a public key, of the one algorithm and parameter set that is accepted. -/
def hssShape (key sig : List Byte) : Bool :=
  lengthIs hssBytes sig && holdsWords sig hssTypes && lengthIs hssKeyBytes key && holdsWords key [(0, 2), (4, 7), (8, 3)]
    && [4, 2728].all (fun o => decide (leNat (bytesAt sig o 4).reverse < 2 ^ 15))

/-- The signature is one of the message under the key: each level leads to the root that its public key holds. -/
def hssVerify (key message sig : List Byte) : Bool :=
  hssShape key sig && lmsRoot (bytesAt key 12 16) (bytesAt sig 2672 56) (bytesAt sig 4 2668) == bytesAt key 28 32
    && lmsRoot (bytesAt sig 2680 16) message (bytesAt sig 2728 2668) == bytesAt sig 2696 32

/-! ### Signatures that a chip makes (R393, R395)

A chip has one key pair: a level-0 tree, number 0, and a level-1 tree for each leaf of it, number t + 1 for leaf t. What its private key
holds no spec states.
DESIGN CHOICE, log entry 9. -/

/-- n bytes of the private key of a chip. -/
def secretBytes (serial : List Word) (n : Nat) (what : List Nat) : List Byte :=
  (List.range n).map (fun b => Config.secretByte serial (what ++ [b]))

def treeId (serial : List Word) (t : Nat) : List Byte := secretBytes serial 16 [0, t]
def otsSecret (serial : List Word) (t leaf i : Nat) : List Byte := secretBytes serial 32 [1, t, leaf, i]
def randomizer (serial : List Word) (t leaf : Nat) : List Byte := secretBytes serial 32 [2, t, leaf]

/-- The first n steps of the chain of a digit. -/
def otsFrom (tag : List Byte) (i : Nat) : Nat → List Byte → List Byte
  | 0, x => x
  | n + 1, x => sha256 (tag ++ be16 i ++ [BitVec.ofNat 8 n] ++ otsFrom tag i n x)

/-- The identifier of a tree and the number of a leaf. -/
def leafTag (serial : List Word) (t leaf : Nat) : List Byte := treeId serial t ++ be32 leaf

/-- The public key of a leaf's one-time key. -/
def otsPublic (serial : List Word) (t leaf : Nat) : List Byte :=
  let tag := leafTag serial t leaf
  sha256 (tag ++ be16 0x8080 ++ (List.range 67).flatMap (fun i => otsFrom tag i 15 (otsSecret serial t leaf i)))

/-- A node of a tree at a height above its leaves. -/
def treeNode (serial : List Word) (t : Nat) : Nat → Nat → List Byte
  | 0, r => sha256 (treeId serial t ++ be32 r ++ be16 0x8282 ++ otsPublic serial t (r - 2 ^ 15))
  | h + 1, r => sha256 (treeId serial t ++ be32 r ++ be16 0x8383 ++ treeNode serial t h (2 * r) ++ treeNode serial t h (2 * r + 1))

/-- The public key of a tree. -/
def lmsKey (serial : List Word) (t : Nat) : List Byte := be32 7 ++ be32 3 ++ treeId serial t ++ treeNode serial t 15 1

/-- The one-time signature of a message by a leaf. -/
def otsSign (serial : List Word) (t leaf : Nat) (message : List Byte) : List Byte :=
  let tag := leafTag serial t leaf
  let c := randomizer serial t leaf
  let ds := otsDigits (sha256 (tag ++ be16 0x8181 ++ c ++ message))
  be32 3 ++ c ++ (List.range 67).flatMap (fun i => otsFrom tag i (ds.getD i 0) (otsSecret serial t leaf i))

/-- The other child of a node's parent. -/
def sibling (r : Nat) : Nat := if r % 2 = 0 then r + 1 else r - 1

/-- The signature of a message by a leaf of a tree: its number, the one-time signature, and the path to the root. -/
def lmsSign (serial : List Word) (t leaf : Nat) (message : List Byte) : List Byte :=
  be32 leaf ++ otsSign serial t leaf message ++ be32 7
    ++ (List.range 15).flatMap (fun h => treeNode serial t h (sibling ((2 ^ 15 + leaf) / 2 ^ h)))

/-- The public key of a chip, and its signature of a message with one-time key q: level-0 leaf q / 2^15 and level-1 leaf q mod 2^15. -/
def hssKey (serial : List Word) : List Byte := be32 2 ++ lmsKey serial 0
def hssSign (serial : List Word) (q : Nat) (message : List Byte) : List Byte :=
  let t := q / 2 ^ 15
  be32 1 ++ lmsSign serial 0 t (lmsKey serial (t + 1)) ++ lmsKey serial (t + 1) ++ lmsSign serial (t + 1) (q % 2 ^ 15) message

end Sys2Proof.Machine
end

