-- ==== Sys2Proof/Machine/Net.lean ====
section
/-!
DEFINITION. The Ethernet ports and inbound RoCEv2 (R387 to R392), and the performing of operations at their homes (R229,
R280).
-/
namespace Sys2Proof.Machine

/-! ### Ports (R387, R388) -/

/-- Selector of word j of the register block of local port p. -/
def portSel (p j : Nat) : Nat := 0x2800 + 16 * p + j

/-- The die has Ethernet ports, and this is one of them. -/
def portHere (die p : Nat) : Bool := (die % 8 == 0 || die % 8 == 7) && decide (p < 2)

/-- The port accepts frames: it is there, trained and enabled. -/
def portOpen (s : State) (die p : Nat) : Bool :=
  portHere die p && wbit (s.reg die (portSel p 0)) 0 && wbit (s.reg die (portSel p 0)) 1

/-- The address of a port: 128 bits, low word first. -/
def portIp (s : State) (die p : Nat) : Nat := (s.reg die (portSel p 1)).toNat + (s.reg die (portSel p 2)).toNat * 2 ^ 64

/-- A port sends a reply; a RoCEv2 one waits while the port's priority is paused (R387).
DESIGN CHOICE, log entry 62. -/
def sendReply (die : Nat) (r : Reply) (s : State) : State := s.modDie die (fun x =>
  if r.kind ≤ 7 && x.paused.contains r.port then { x with held := x.held ++ [r] } else { x with replies := x.replies ++ [r] })

/-- A request for the port's own address is answered with its MAC address. -/
def answerAddress (kind die p ip : Nat) (s : State) : State :=
  if portOpen s die p && ip == portIp s die p then
    sendReply die { qp := p, kind := kind, psn := 0, data := leBytes 6 (wfield (s.reg die (portSel p 0)) 16 48), port := p } s
  else s

/-- R387: an IPv4 address stands IPv4-mapped in the port register. -/
def execArpRequest (die : Nat) (p : Nat) (ip : Nat) (s : State) : Out :=
  .next (answerAddress 8 die p (0xFFFF * 2 ^ 32 + ip % 2 ^ 32) s)

/-- R387. -/
def execNeighbourSolicitation (die : Nat) (p : Nat) (ip : Nat) (s : State) : Out := .next (answerAddress 9 die p ip s)

/-- A PFC frame is honoured on the one priority of the port register: what a pause held back is sent when it ends.
DESIGN CHOICE, log entry 63. -/
def pfcFrame (die p pri : Nat) (pause : Bool) (s : State) : State :=
  if portOpen s die p && pri == wfield (s.reg die (portSel p 0)) 2 3 then
    let s := s.modDie die (fun x => { x with paused := (x.paused.filter (fun q => q != p)) ++ (if pause then [p] else []) })
    (s.die die).held.foldl (fun s r => sendReply die r s) (s.modDie die (fun x => { x with held := [] }))
  else s

/-- R387. -/
def execPriorityFlowControlFrame (die : Nat) (p : Nat) (pri : Nat) (pause : Bool) (s : State) : Out :=
  .next (pfcFrame die p pri pause s)

/-- A port asks its peer to pause the flow-controlled priority, or to resume: while a packet that has arrived must wait at the port, the
port sends a pause once, and it resumes as the next one is taken (R387).
DESIGN CHOICE, log entry 63. -/
def askPeer (die p : Nat) (pause : Bool) (s : State) : State :=
  if (s.die die).pausing.contains p == pause then s
  else
    let s := s.modDie die (fun x => { x with pausing := (x.pausing.filter (fun q => q != p)) ++ (if pause then [p] else []) })
    sendReply die { qp := 0, kind := 10, psn := wfield (s.reg die (portSel p 0)) 2 3, data := [BitVec.ofNat 8 (flag pause)], port := p } s

/-- A frame addressed to the port that falls outside the list is dropped and counted. -/
def dropFrame (die p : Nat) (s : State) : State :=
  if portOpen s die p then s.setReg die (portSel p 3) (s.reg die (portSel p 3) + 1) else s

/-- R387, R440. -/
def execEthernetFrameDrop (die : Nat) (p : Nat) (s : State) : Out := .next (dropFrame die p s)

/-- The list takes a frame that carries RoCEv2: its size, at most one tag, no options, and the UDP port (R387). -/
def frameListed (f : Frame) : Bool := decide (f.size ≤ 4200) && decide (f.tags ≤ 1) && !f.options && f.udp == 4791

/-- A read of the drops word: its value, and the state after it. -/
def readDrops (die p : Nat) (s : State) : Word × State := (s.reg die (portSel p 3), s.setReg die (portSel p 3) 0)

/-- R387. -/
def execPortDropsRead (die : Nat) (p : Nat) (s : State) : Out := .next (if portHere die p then (readDrops die p s).2 else s)

/-- The link of a port trains, or is lost. A chip that has not booted keeps its ports down (R394). -/
def setUp (die p : Nat) (up : Bool) (s : State) : State :=
  if portHere die p && (!up || (s.chip (dieChip die)).booted) then s.setReg die (portSel p 0) (putField (s.reg die (portSel p 0)) 0 1 (flag up)) else s

/-- R387. -/
def execPortLinkTrained (die : Nat) (p : Nat) (s : State) : Out := .next (setUp die p true s)

/-- R387. -/
def execPortLinkLoss (die : Nat) (p : Nat) (s : State) : Out := .next (setUp die p false s)

/-! ### Queue pairs and keys (R389, R390) -/

def qpSel (q j : Nat) : Nat := 0x2000 + 4 * q + j
def keySel (k j : Nat) : Nat := 0x1000 + 4 * k + j

/-- Path MTU of a queue pair in bytes; 0 for a reserved code. -/
def qpMtu (w : Word) : Nat := if 3 ≤ wfield w 11 3 ∧ wfield w 11 3 ≤ 5 then 2 ^ (7 + wfield w 11 3) else 0

/-- A write of word 0 of a queue-pair entry clears err (R390). -/
def writeQp (die q : Nat) (v : Word) (s : State) : State :=
  (s.setReg die (qpSel q 0) (putField (BitVec.ofNat 64 (wfield v 0 14)) 10 1 0)).modDie die (fun x => { x with msgs := x.msgs.filter (fun e => e.1 != q) })

/-- R390. -/
def execQpEntryWrite (die : Nat) (q : Nat) (v : Word) (s : State) : Out := .next (writeQp die (q % 512) v s)

/-- A write of a word of the key table (R389): inflight is the hardware's. -/
def writeKey (die sel : Nat) (v : Word) (s : State) : State :=
  match sel % 4 with
  | 0 => s.setReg die sel (putField (BitVec.ofNat 64 (wfield v 0 34)) 40 16 (wfield (s.reg die sel) 40 16))
  | 1 => s.setReg die sel v
  | 2 => s.setReg die sel (BitVec.ofNat 64 (wfield v 0 48))
  | _ => s

/-- R389, R392. -/
def execKeyEntryWrite (die : Nat) (sel : Nat) (v : Word) (s : State) : Out := .next (writeKey die (0x1000 + sel % 0x1000) v s)

/-! ### Checks of R391 -/

/-- Step 1: the queue pair that takes the packet. -/
def qpOf (s : State) (die : Nat) (pkt : Rdma) : Option Nat :=
  let q := pkt.qpn - 0x100
  let w := s.reg die (qpSel q 0)
  if portOpen s die pkt.port && decide (0x100 ≤ pkt.qpn) && decide (q < 512) && wbit w 0 && !wbit w 10
      && wfield w 1 1 == pkt.port && qpMtu w != 0
      && pkt.src == (s.reg die (qpSel q 2)).toNat + (s.reg die (qpSel q 3)).toNat * 2 ^ 64 then some q else none

/-- An operation, or an answer, waits its turn. -/
def queueOp (die : Nat) (op : NetOp) (s : State) : State :=
  let s := s.modDie die (fun x => { x with netOps := x.netOps ++ [op] })
  if op.kind ≥ 4 then s
  else
    let w := s.reg die (keySel op.key 0)
    s.setReg die (keySel op.key 0) (putField w 40 16 (wfield w 40 16 + 1))

/-- An answer of a kind of Reply. -/
def answer (die q psn kind : Nat) (s : State) : State :=
  queueOp die { qp := q, key := 0, psn := psn, mtu := 0, kind := 4 + kind } s

/-- A NAK that puts the queue pair in the error state.
PRESUMED, log entry 60. -/
def nakErr (die q psn kind : Nat) (s : State) : State :=
  let s := s.setReg die (qpSel q 0) (putField (s.reg die (qpSel q 0)) 10 1 1)
  answer die q psn kind (s.modDie die (fun x => { x with msgs := x.msgs.filter (fun e => e.1 != q) }))

/-- Step 3: how a PSN stands to the one expected. -/
inductive PsnClass where
  | expected | duplicate | ahead
  deriving DecidableEq, Repr

def epsn (s : State) (die q : Nat) : Nat := wfield (s.reg die (qpSel q 1)) 24 24

def psnClass (s : State) (die q psn : Nat) : PsnClass :=
  let d := (psn % 2 ^ 24 + 2 ^ 24 - epsn s die q) % 2 ^ 24
  if d = 0 then .expected else if d ≥ 2 ^ 23 then .duplicate else .ahead

/-- The expected PSN moves on by n packets. -/
def advancePsn (die q n : Nat) (s : State) : State :=
  s.setReg die (qpSel q 1) (putField (s.reg die (qpSel q 1)) 24 24 (epsn s die q + n))

/-- Step 4: the key permits the range. right is the bit of the right in word 0. -/
def keyOk (s : State) (die rkey ctx right va len : Nat) : Bool :=
  let k := rkey % 1024
  let w := s.reg die (keySel k 0)
  let base := (s.reg die (keySel k 1)).toNat
  wbit w 0 && wfield w 12 22 == rkey / 1024 % 2 ^ 22 && wfield w 4 8 == ctx && wbit w right
    && decide (base ≤ va) && decide (va + len ≤ base + wfield (s.reg die (keySel k 2)) 0 48)

/-- Step 5 for a range within one page. -/
def netPage (s : State) (die ctx : Nat) (acc : Acc) (ga n : Nat) : Look (List Nat) × State :=
  match issuerCheck s die none (fun _ => none) acc.writes ga n with
  | .ok (.hbm d va) =>
    if pathDown s die d then (.error ⟨Cause.darkpath, 0⟩, s)
    else if !linkOpen s die d then (.wait, s)
    else match locate s none ctx acc n (.hbm d va) with
      | (.ok l, s) => (.ok l.bytes, s)
      | (.error r, s) => (.error r, s)
      | (.wait, s) => (.wait, s)
  | .ok _ => (.error ⟨Cause.addrflt, 1⟩, s)
  | .error r => (.error ⟨Cause.addrflt, r⟩, s)

/-- Step 5 for a range: its physical bytes. -/
def netRange (die ctx : Nat) (acc : Acc) : Nat → Nat → Nat → State → Look (List Nat) × State
  | 0, _, _, s => (.ok [], s)
  | _, _, 0, s => (.ok [], s)
  | fuel + 1, ga, n, s =>
    let first := min n (2 ^ 16 - ga % 2 ^ 16)
    match netPage s die ctx acc ga first with
    | (.ok ps, s) => match netRange die ctx acc fuel (ga + first) (n - first) s with
      | (.ok qs, s) => (.ok (ps ++ qs), s)
      | x => x
    | x => x

/-- Steps 4 and 5: on success the physical bytes of [lo, lo + n), else the NAK. The key is checked for [va, va + len). None while
the translation waits, or while inflight stands at its most: the packet stands at the port.
DEDUCED, log entry 61. -/
def netAccess (die q : Nat) (psn rkey right : Nat) (acc : Acc) (va len lo n : Nat) (aligned : Bool) (s : State)
    (k : List Nat → State → State) : Option State :=
  let ctx := wfield (s.reg die (qpSel q 0)) 2 8
  if !keyOk s die rkey ctx right va len then some (nakErr die q psn 3 s)
  else if !aligned then some (nakErr die q psn 2 s)
  else match netRange die ctx acc (n / 2 ^ 16 + 2) lo n s with
    | (.ok ps, s) => if wfield (s.reg die (keySel (rkey % 1024) 0)) 40 16 = 65535 then none else some (k ps s)
    | (.wait, _) => none
    | (.error _, s) => match s.freeVal with
      | (v, s) => some (nakErr die q psn 3 (s.logError die (v.toNat % 256) 6 1 lo q))

/-- A CNP answers every packet that arrives with ECN CE (R387).
DEDUCED, log entry 99. -/
def notify (die : Nat) (pkt : Rdma) (s : State) : State :=
  let q := pkt.qpn - 0x100
  if pkt.ce then sendReply die { qp := q, kind := 7, psn := pkt.psn, data := [], port := pkt.port, peer := pkt.src,
                                 dqpn := wfield (s.reg die (qpSel q 1)) 0 24 } s else s

/-- Steps 1 to 3: a packet with an opcode of the list that is accepted, or is a duplicate, goes on; one that must wait stands at its
port. -/
def netArrive (die : Nat) (pkt : Rdma) (listed : Bool) (s : State) (fresh again : Nat → State → Option State) : Out :=
  if !portOpen s die pkt.port then .next s
  else if !frameListed pkt.frame then .next (dropFrame die pkt.port s)
  else
    let s' := notify die pkt s
    match qpOf s die pkt with
    | none => .next s'
    | some q =>
      if !listed then .next (nakErr die q pkt.psn 2 s')
      else match psnClass s die q pkt.psn with
        | .expected => .next (((fresh q s').map (askPeer die pkt.port false)).getD (askPeer die pkt.port true s))
        | .duplicate => .next (((again q s').map (askPeer die pkt.port false)).getD (askPeer die pkt.port true s))
        | .ahead => .next (answer die q (epsn s die q) 1 s')

/-! ### Requests -/

/-- The message that a WRITE packet belongs to, if its segment and its length are as the transport defines. -/
def messageOf (s : State) (die q : Nat) (pkt : Rdma) : Option NetMsg :=
  let open' := ((s.die die).msgs.find? (fun e => e.1 == q)).map (·.2)
  let mtu := qpMtu (s.reg die (qpSel q 0))
  let n := pkt.data.length
  let new : NetMsg := { rkey := pkt.rkey, va := pkt.va, len := pkt.len, next := pkt.va }
  match pkt.seg, open' with
  | 0, none => if n = mtu ∧ mtu < pkt.len then some new else none
  | 1, some m => if n = mtu ∧ m.next + n < m.va + m.len then some m else none
  | 2, some m => if n ≤ mtu ∧ 0 < n ∧ m.next + n = m.va + m.len then some m else none
  | 3, none => if n ≤ mtu ∧ n = pkt.len then some new else none
  | _, _ => none

/-- A WRITE packet: its bytes before the word of the message's last byte are performed, and that word comes last (R229). -/
def writePacket (die q : Nat) (pkt : Rdma) (s : State) : Option State :=
  match messageOf s die q pkt with
  | none => some (nakErr die q pkt.psn 2 s)
  | some m =>
    let lo := m.next - m.tail.length
    let data := m.tail ++ pkt.data
    netAccess die q pkt.psn m.rkey 2 .netWrite m.va m.len lo data.length true s (fun ps s =>
      let word := (m.va + m.len - 1) / 8 * 8
      let before := min data.length (word - lo)
      let final := pkt.seg ≥ 2
      let keep := if final then [] else data.drop before
      let sent := if final then data else data.take before
      let next : NetMsg := { m with next := m.next + pkt.data.length, tail := keep }
      let s := s.modDie die (fun x => { x with msgs := if final then x.msgs.filter (fun e => e.1 != q) else ins x.msgs q next })
      queueOp die { qp := q, key := m.rkey % 1024, psn := pkt.psn, mtu := 0, kind := 0, bytes := ps.take sent.length,
                    data := sent, split := before } (advancePsn die q 1 s))

/-- R229, R391: an RDMA WRITE; or, with any other seg, a request with an opcode outside the list of R387. -/
def execRdmaWrite (die : Nat) (pkt : Rdma) (s : State) : Out :=
  netArrive die pkt (decide (pkt.seg ≤ 3)) s (fun q s => writePacket die q pkt s) (fun q s => some (answer die q pkt.psn 0 s))

/-- A READ Request: n packets of response. -/
def readRequest (die q : Nat) (pkt : Rdma) (again : Bool) (s : State) : Option State :=
  let mtu := qpMtu (s.reg die (qpSel q 0))
  netAccess die q pkt.psn pkt.rkey 1 .netRead pkt.va pkt.len pkt.va pkt.len true s (fun ps s =>
    let s := if again then s else advancePsn die q (max 1 ((pkt.len + mtu - 1) / mtu)) s
    queueOp die { qp := q, key := pkt.rkey % 1024, psn := pkt.psn, mtu := mtu, kind := 1, bytes := ps } s)

/-- R391. -/
def execRdmaReadRequest (die : Nat) (pkt : Rdma) (s : State) : Out :=
  netArrive die pkt true s (fun q s => readRequest die q pkt false s) (fun q s => readRequest die q pkt true s)

/-- An atomic of 64 bits. -/
def atomicRequest (kind die q : Nat) (pkt : Rdma) (s : State) : Option State :=
  netAccess die q pkt.psn pkt.rkey 3 .netRmw pkt.va 8 pkt.va 8 (pkt.va % 8 == 0) s (fun ps s =>
    queueOp die { qp := q, key := pkt.rkey % 1024, psn := pkt.psn, mtu := 0, kind := kind, bytes := ps,
                  x := if kind = 2 then pkt.swap else pkt.cmp, new := pkt.swap } (advancePsn die q 1 s))

/-- A duplicate atomic is answered with the response that was sent. -/
def atomicAgain (die q psn : Nat) (s : State) : Option State :=
  match (s.die die).answered.find? (fun r => r.qp == q && r.psn == psn) with
  | some r => some (sendReply die r s)
  | none => some s

/-- R391. -/
def execCompareAndSwap (die : Nat) (pkt : Rdma) (s : State) : Out :=
  netArrive die pkt true s (fun q s => atomicRequest 3 die q pkt s) (fun q s => atomicAgain die q pkt.psn s)

/-- R391. -/
def execFetchAndAdd (die : Nat) (pkt : Rdma) (s : State) : Out :=
  netArrive die pkt true s (fun q s => atomicRequest 2 die q pkt s) (fun q s => atomicAgain die q pkt.psn s)

/-! ### Performing -/

/-- A reply of a queue pair, to its peer (R390). -/
def qpReply (s : State) (die q kind psn : Nat) (data : List Byte) : Reply :=
  { qp := q, kind := kind, psn := psn, data := data, port := wfield (s.reg die (qpSel q 0)) 1 1,
    peer := (s.reg die (qpSel q 2)).toNat + (s.reg die (qpSel q 3)).toNat * 2 ^ 64, dqpn := wfield (s.reg die (qpSel q 1)) 0 24 }

/-- Read responses of at most mtu bytes: the PSN and the bytes of each. -/
def readReplies (psn mtu : Nat) : Nat → List Byte → List (Nat × List Byte)
  | 0, _ => []
  | n + 1, bs => (psn % 2 ^ 24, bs.take mtu) :: readReplies (psn + 1) mtu n (bs.drop mtu)

/-- Perform an operation at the homes of its bytes, and answer it. -/
def performOp (die : Nat) (op : NetOp) (s : State) : State :=
  let reply := fun (kind : Nat) (data : List Byte) (s : State) => sendReply die (qpReply s die op.qp kind op.psn data) s
  match op.kind with
  | 0 =>
    let cells := (op.bytes.zip op.data).map (fun e => (e.1, (⟨e.2, false⟩ : VByte)))
    reply 0 [] ((s.perform (cells.take op.split)).perform (cells.drop op.split))
  | 1 => match s.readBytes op.bytes with
    | (bs, s) => match (op.bytes.zip bs).find? (fun e => e.2.p) with
      | some e => reply 4 [] (s.logError die 9 (byteArray e.1) 1 (byteAddr (e.1 / 8 * 8)) op.qp)
      | none =>
        let rs := readReplies op.psn op.mtu (max 1 ((bs.length + op.mtu - 1) / op.mtu)) (bs.map (·.b))
        rs.foldl (fun s r => sendReply die (qpReply s die op.qp 5 r.1 r.2) s) s
  | 2 | 3 => match rmwAt s op.bytes (op.kind == 3) 0 ⟨op.x, false⟩ ⟨op.new, false⟩ with
    | (v, s) =>
      if v.p then reply 4 [] s
      else
        let r := qpReply s die op.qp 6 op.psn (leBytes 8 v.v.toNat)
        sendReply die r (s.modDie die (fun x => { x with answered := r :: x.answered }))
  | n => reply (n - 4) [] s

/-- The oldest accepted operation of a die is performed; while a word of it is held it waits in the word's order (R273). -/
def netPerformEv (die : Nat) (s : State) : Option State :=
  match (s.die die).netOps with
  | [] => none
  | op :: r =>
    if op.bytes.any (fun p => !linkOpen s die (byteDie p)) then none
    else if !s.admitsEngine (netId die) op.bytes then s.await (netId die) op.bytes
    else
      let s := (s.leaveAll (netId die)).modDie die (fun x => { x with netOps := r })
      let w := s.reg die (keySel op.key 0)
      let s := if op.kind ≥ 4 then s else s.setReg die (keySel op.key 0) (putField w 40 16 (wfield w 40 16 - 1))
      some (performOp die op s)

/-- R280: the request of crew i is performed at its home; from 65536 on, the oldest RDMA operation of die i - 65536. -/
def execHomeAccessPerform (i : Nat) (s : State) : Out :=
  .next (((if i < 65536 then homeAccessPerformEv i s else netPerformEv (i - 65536) s)).getD s)

end Sys2Proof.Machine
end

