-- ==== Sys2Proof/Machine/Control.lean ====
section
/-!
DEFINITION. Branches, jumps, hardware loops, and leaving or pausing a stream (R310 to R320, R407).
-/
namespace Sys2Proof.Machine

/-- A branch target: the line of the instruction plus disp lines, at the slot (R57). -/
def target (pc : Word) (slot : BitVec 5) (disp : BitVec 14) : Word :=
  BitVec.ofNat 64 (pcLine pc) + (disp.signExtend 64) * 64 + BitVec.ofNat 64 (2 * slot.toNat)

/-- The condition of a branch (R57, R310). -/
def condHolds (cond : Nat) (x y : Word) : Bool :=
  match cond with
  | 0 => x == y
  | 1 => x != y
  | 2 => x.slt y
  | 3 => !x.slt y
  | 4 => x.ult y
  | _ => !x.ult y

/-- Conditional branch (R310). -/
def execBcc (f : T32b) (s : State) : Out :=
  control s (use2 (.bcc f) f.a.toNat f.b.toNat [] s (fun x y =>
    if condHolds f.cond.toNat x y then jump (target s.seqr.pc f.slot f.disp) s else done s))

/-- Jump (R310). -/
def execJmp (f : T32b) (s : State) : Out := control s (jump (target s.seqr.pc f.slot f.disp) s)

/-- Jump and link: d stands in field a (R310). -/
def execJal (f : T32b) (s : State) : Out :=
  control s (useRegs (.jal f) [] [f.a.toNat] s (fun _ =>
    jump (target s.seqr.pc f.slot f.disp) (s.setR f.a.toNat s.cur.link 1)))

/-- Jump to a register, with a link (R310). -/
def execJr (f : T16a) (s : State) : Out :=
  control s (use1 (.jr f) f.a.toNat [f.d.toNat] s (fun x => jump x (s.setR f.d.toNat s.cur.link 1)))

/-- Go on in t past the end PC of a loop body (R312, R314). -/
def goPast (i : Instr) (stop : Word) (s t : State) (go : Word → State → Out) : Out :=
  match seqAfter s s.me s.cur.xs stop with
  | some pc => go pc t
  | none => waitAt i s

/-- Open a loop level with a count, or skip the body for a count of 0, which is no taken transfer of R40: the line is kept
(R312). -/
def openLoop (i : Instr) (count : Nat) (stop : Word) (s : State) : Out :=
  let q := s.seqr
  if q.loops.length ≥ 6 then raise { code := Cause.loopstk, reason := 1 } s
  else if stop.toNat < s.cur.link.toNat then raise { code := Cause.loopstk, reason := 2 } s
  else if (match q.loops with | [] => false | l :: _ => decide (stop.toNat > l.stop.toNat)) then
    raise { code := Cause.loopstk, reason := 3 } s
  else if count = 0 then goPast i stop s s skipTo
  else done (s.setSeqr { q with loops := ⟨s.cur.link, stop, count, 0⟩ :: q.loops })

/-- Hardware loop with its count in a register (R312). -/
def execLoop (f : T32b) (s : State) : Out :=
  control s (use1 (.loop f) f.a.toNat [] s (fun x =>
    openLoop (.loop f) (x.toNat % 2 ^ 32) (target s.seqr.pc f.slot f.disp) s))

/-- Hardware loop with an immediate count (R312). -/
def execLoopi (f : T48d) (s : State) : Out :=
  control s (openLoop (.loopi f) f.imm.toNat (target s.seqr.pc f.slot f.disp) s)

/-- Leave the innermost loop level (R314). -/
def execLbrk (s : State) : Out :=
  control s (match s.seqr.loops with
    | [] => raise { code := Cause.loopstk, reason := 5 } s
    | l :: r => goPast .lbrk l.stop s (s.modSeqr (fun q => { q with loops := r })) jump)

/-- The level lcK of a loop stack, innermost first (R311). -/
def loopLevel (ls : List LoopLevel) (k : Nat) : Option LoopLevel := ls.reverse[k]?

/-- Read a loop index, or the iterations that remain (R315). -/
def execLidx (f : T32a) (s : State) : Out :=
  useRegs (.lidx f) [] [f.d.toNat] s (fun _ =>
    let v := match loopLevel s.seqr.loops (bitsOf f.imm.toNat 0 3) with
      | none => 0
      | some l => if bitOf f.imm.toNat 3 then l.count - l.index - 1 else l.index
    done (s.setR f.d.toNat (BitVec.ofNat 64 v) 1))

/-- The queue codes of R403 that hold a token or entry for the consumer of one slice.
DEDUCED, log entry 46. -/
def residue (c : Crew) (xs : Bool) : Option Nat :=
  if xs then
    ((List.range 8).find? (fun n => !(c.lqAt n).isEmpty)) <|> (if c.cq.isEmpty then none else some 13)
  else
    (((List.range 4).find? (fun n => !(c.sqAt n).isEmpty)).map (8 + ·))
      <|> (if c.iq.isEmpty then none else some 12) <|> (if c.bq.isEmpty then none else some 14)

/-- The sequencer stops for good (R318). -/
def exitNow (s : State) : Out := .next (s.modSeqr (fun q => { q with run := .exited, wait := none }))

/-- End the turn; a pending stop is taken after it has executed (R317, R399). -/
def execYield (s : State) : Out :=
  control s (
    let s' := finish s
    if s.myCrew.stop = .none ∨ (s.myCrew.stop = .trap ∧ s.cur.xs) then .next s'
    else .next (s'.modSeqr (fun q => { q with run := .halted })))

/-- Breakpoint: BKPT before any effect (R317). -/
def execBkpt (s : State) : Out := control s (raise { code := Cause.bkpt } s)

/-- Raise TRAP with the immediate in sys.tval (R407). -/
def execTrap (f : T32a) (s : State) : Out := control s (raise { code := Cause.trap, tval := f.imm.signExtend 64 } s)

end Sys2Proof.Machine
end

