-- ==== Sys2Proof/Machine/TaskGraph.lean ====
section
/-!
DEFINITION. The task-graph unit: node records and their checks, posting, dispatch, placement, start and retirement of
crews, and strip chaining (R28 to R30, R319, R341 to R363, R367 to R374).
-/
namespace Sys2Proof.Machine

/-- Body fields of a collective node (R346). -/
def recColl (r : Record) : Nat × Nat × Bool × Nat :=
  (bitsOf (recWord r 23) 0 6, bitsOf (recWord r 23) 6 3, bitOf (recWord r 23) 9, bitsOf (recWord r 23) 10 2)

def recCard (r : Record) : List Word := (r.drop 20).take 8

/-! ### Checks of R348 -/

/-- Reason 1: a reserved or unused field that is not zero. -/
def recReserved (r : Record) : Bool :=
  let hdr := recType r == 3 || bitsOf (recWord r 0) 14 18 != 0 || bitsOf (recWord r 0) 40 24 != 0
    || (!recCtxen r && recCtx r != 0) || (!recChain r && recPhandle r != 0) || recWord r 2 / 2 ^ 16 != 0 || recWord r 3 != 0
    || ((List.range 4).drop (recNedge r)).any (fun e => recEdge r e != 0)
    || ((List.range 8).drop (recNreg r)).any (fun k => recWord r (4 + 2 * k) != 0 || recWord r (5 + 2 * k) != 0)
    || (List.range (recNreg r)).any (fun k => recWord r (5 + 2 * k) / 2 ^ 34 != 0)
  let body := match recType r with
    | 0 => bitOf (recWord r 22) 7 || recWord r 22 / 2 ^ 62 != 0 || (!hdrCoen r && hdrColev r != 0)
        || ((List.range 6).drop (min 6 (hdrN r))).any (fun k => bitsOf (recWord r 22) (6 * k + 8) 6 != 0
            || bitsOf (recWord r 22) (3 * k + 44) 3 != 0 || recWord r (23 + k) != 0)
        || bitsOf (recWord r 29) 25 7 != 0 || bitsOf (recWord r 29) 52 12 != 0
    | 1 => recWord r 28 / 4 != 0 || recWord r 28 == 3 || (r.drop 29).any (· != 0)
    | _ => recWord r 23 / 2 ^ 12 != 0 || (r.drop 24).any (· != 0)
  hdr || body

/-- Units of a binding in one unit of the next one up (R29). -/
def unitsPer : Nat → Nat
  | 1 => 4
  | 2 => 32
  | 3 => 2
  | 4 => 8
  | _ => 32

/-- Units u in one unit of the next higher binding that some level has. Where none has one, the crews stand on one chip (R354),
and chips lie in the pod. -/
def unitsIn (ls : List Level) (u : Nat) : Nat :=
  let top := if u = 5 then 6 else 5
  let next := ((List.range 7).filter (fun v => decide (u < v) && ls.any (fun l => l.bind == v))).headD top
  ((List.range 6).filter (fun v => decide (u ≤ v) && decide (v < next))).foldl (fun a v => a * unitsPer v) 1

/-- The levels obey R28 and R29. -/
def levelsOk (ls : List Level) : Bool :=
  let c := crewLevel ls
  let up := (ls.map (·.bind)).filter (fun b => b != 0 && b != 6)
  decide (1 ≤ ls.length) && ls.all (fun l => decide (l.width ≤ 63) && decide (1 ≤ l.ext) && decide (l.ext ≤ 2 ^ l.width) && l.bind != 7)
    && decide ((ls.map (·.width)).foldl (· + ·) 0 ≤ 64)
    && (ls.filter (fun l => l.bind == 1)).length == 1
    && (ls.take c).all (fun l => l.bind == 0)
    && (up.zip up.tail).all (fun p => decide (p.1 ≤ p.2))
    && [1, 2, 3, 4, 5].all (fun u => !ls.any (fun l => l.bind == u)
        || decide ((ls.filter (fun l => l.bind == u)).foldl (fun a l => a * l.ext) 1 ≤ unitsIn ls u))

/-- Crews of a placement group (R355). -/
def groupSize (r : Record) : Nat :=
  let ls := hdrLevels r
  if hdrCoen r then ((ls.take (hdrColev r + 1)).drop (crewLevel ls)).foldl (fun a l => a * l.ext) 1 else 1

/-- Cores of one unit of a binding. -/
def unitCores : Nat → Nat
  | 2 => 1
  | 3 => 32
  | 4 => 64
  | 5 => 512
  | _ => 16384

/-- Bundles of the crews of a placement group: each unit of binding u holds p of them, and c values of the levels bound to u and f
values of the levels with no unit stand above them so far. -/
structure Bundle where
  u : Nat := 1
  c : Nat := 1
  f : Nat := 1
  p : Nat := 1

/-- Crew slots of a unit, at a number of crews to a core. -/
def unitSlots (slots u : Nat) : Nat := if u = 1 then 1 else unitCores u * slots

/-- The bundles that one unit of a higher binding holds: distinct values of a level bound to a unit take distinct units, and the
values of a level bound to none may share them (R354). -/
def Bundle.rise (b : Bundle) (slots v : Nat) : Nat := b.p * (unitSlots slots v / unitSlots slots b.u / b.c) / b.f

/-- A level stands above the bundles. -/
def Bundle.level (slots : Nat) (b : Bundle) (bind ext : Nat) : Bundle :=
  if bind = 0 ∨ bind = 6 then { b with f := b.f * ext }
  else if bind = b.u then { b with c := b.c * ext }
  else { u := bind, c := ext, p := b.rise slots bind }

/-- Reason 6: a group that the units that it may use cannot hold, or a pin beside a level bound to die, chip or pod (R355, R367). -/
def groupTooLarge (r : Record) : Bool :=
  let ls := hdrLevels r
  let slots := min 4 (8 / hdrLanes r)
  let up := ((List.range ls.length).zip ls).drop (crewLevel ls)
  let b : Bundle := up.foldl (fun (b : Bundle) (e : Nat × Level) => b.level slots e.2.bind (if hdrCoen r && decide (e.1 ≤ hdrColev r) then e.2.ext else 1)) {}
  let top := if hdrPinen r then 3 else if ls.any (fun l => l.bind == 5 || l.bind == 6) then 6 else 5
  b.rise slots top == 0 || (hdrPinen r && ls.any (fun l => l.bind == 4 || l.bind == 5 || l.bind == 6))

/-- The TGNODE reason of a record (R348). -/
def recReason (s : State) (die ctx : Nat) (r : Record) : Option Nat :=
  let ls := hdrLevels r
  let regions := (List.range (recNreg r)).map (recRegion r)
  if recNreg r > 8 ∨ recNedge r > 4 then some 2
  else if recReserved r then some 1
  else if regions.any (fun g => g.len == 0 || (!g.rd && !g.wr) || decide (g.base / 2 ^ 60 > 1)) then some 2
  else if recType r = 0 ∧ (hdrN r < 1 ∨ hdrN r > 6 ∨ !levelsOk ls
      ∨ (hdrCoen r ∧ (hdrColev r < crewLevel ls ∨ hdrColev r ≥ hdrN r))) then some 3
  else if recType r = 0 ∧ (hdrQ r % 4 ≠ 0 ∨ hdrQ r < 8 ∨ hdrQ r > 32 ∨ hdrS r + hdrQ r + 16 * hdrC r + 8 > 128
      ∨ hdrLanes r < 1 ∨ hdrLanes r > 8 ∨ hdrImgl r > Config.bankBytes * hdrS r ∨ hdrImg r / 2 ^ 60 ≠ 0) then some 4
  else if recChain r && (recType r != 0 || (match liveNode s die (recPhandle r) with
      | some (_, p) => recType p.words != 0 || upperLevels p.words != upperLevels r
      | none => false)) then some 5
  else if recType r = 0 ∧ groupTooLarge r then some 6
  else if recType r = 1 ∧ (cardCheck s die none (recWord r 28) (recCard r)).isSome then some 7
  else if recType r = 2 then
    match recColl r with
    | (g, kind, half, comb) =>
      if kind > 4 ∨ comb > 2 ∨ ((kind = 2 ∨ kind = 3) ∧ comb ≠ 0)
          ∨ (collCheck s die none ctx g kind (recWord r 20) (recWord r 21) (collWidth half) (r.getD 22 0)).isSome then some 7
      else none
  else none

/-! ### Posting (R347, R349) -/

/-- Regions of two nodes share a byte, with at least one writing it (R349). -/
def regionsConflict (a b : List Region) : Bool :=
  a.any (fun x => b.any (fun y => (x.wr || y.wr) && decide (x.base < y.base + y.len) && decide (y.base < x.base + x.len)))

def recRegions (r : Record) : List Region := (List.range (recNreg r)).map (recRegion r)

/-- The record with self resolved in its regions (R344). -/
def resolveRegions (die : Nat) (r : Record) : Record :=
  ((List.range r.length).zip r).map (fun e =>
    if 4 ≤ e.1 ∧ e.1 < 4 + 2 * recNreg r ∧ e.1 % 2 = 0 then BitVec.ofNat 64 (resolveSelf die e.2.toNat) else e.2)

/-- Nodes that one context may hold in the pool (R352). -/
def quota (s : State) (die : Nat) : Nat :=
  let q := wfield (s.reg die 0x0A0) 16 11
  if q = 0 then 1024 else q

/-- A free slot and room under the quota (R347, R352). -/
def poolRoom (s : State) (die ctx : Nat) : Bool :=
  decide ((s.die die).pool.length < 1024) && decide (((s.die die).pool.filter (fun e => e.2.ctx == ctx)).length < quota s die)

/-- A node enters the pool: the lowest free slot, its next generation, and the edges of R349. -/
def enterPool (die ctx : Nat) (r : Record) (m : Option Member) (s : State) : Nat × State :=
  let x := s.die die
  let slot := ((List.range 1024).find? (fun n => !x.pool.any (fun e => e.1 == n))).getD 0
  let gen := get 0 x.gens slot % 63 + 1
  let h := gen * 1024 + slot
  let chain := if recChain r then (liveNode s die (recPhandle r)).map (fun _ => recPhandle r) else none
  let derived := (x.pool.filter (fun e => e.2.ctx == ctx && regionsConflict (recRegions e.2.words) (recRegions r))).map (·.2.handle)
  let named := ((List.range (recNedge r)).map (recEdge r)).filter (fun p => (liveNode s die p).isSome)
  let node : Node := { handle := h, ctx := ctx, words := r, order := x.posts, level := recPrio r,
                       preds := ((derived ++ named).eraseDups).filter (fun p => some p != chain), chain := chain, member := m }
  let s : State := { s with cores := s.cores.map (fun (e : Nat × Core) =>
    if e.2.node = some (die, h) ∧ (coreCrews e.1).all (fun k => (s.crew k).state == 0) then (e.1, { e.2 with node := none }) else e) }
  (h, s.setDie die { x with pool := ins x.pool slot node, gens := ins x.gens slot gen, posts := x.posts + 1 })

/-- tgpost (R347). -/
def execTgpost (f : T32e) (s : State) : Out :=
  let i := Instr.tgpost f
  let k := s.me
  inA s (use1 i f.a.toNat [f.d.toNat] s (fun a =>
    let ga := a.toNat
    if !ownScratchpad k ga then raise { code := Cause.waddr, tval := a } s
    else if ga % 64 ≠ 0 then raise { code := Cause.align, tval := a } s
    else match ownCheck s k false ga 256 with
      | .error e => raise { code := Cause.addrflt, reason := e, tval := a } s
      | .ok _ =>
        let ps := (List.range 256).map (fun j => spadByte s.myCore (ga % 2 ^ 20 + j))
        if !s.lets k 0 ps then waitAt i s
        else match crewRead s k ps with
          | (bs, s') =>
            if bs.any (·.p) then raise { code := Cause.poison } s'
            else
              let r := resolveRegions s.myDie (wordsOfBytes 32 bs)
              let ctx := if recCtxen r then recCtx r else s.myCrew.ctx
              match recReason s' s.myDie ctx r with
              | some e => raise { code := Cause.tgnode, reason := e } s'
              | none =>
                if ctx ≠ s.myCrew.ctx ∧ !s.sysPriv k then raise { code := Cause.priv } s'
                else match settle s' k with
                  | none => namedWait i s
                  | some s' =>
                    let joins := bitOf f.imm.toNat 0
                    if !poolRoom s' s.myDie ctx || (joins && (s.myCrew.counter f.cc.toNat).blocked) then namedWait i s'
                    else
                      let jm : Option Member × State := if joins then
                          (match s'.joinBatch k f.cc.toNat with
                           | (m, s') => (some m, s'))
                        else (none, s')
                      match enterPool s.myDie ctx r jm.1 jm.2 with
                      | (h, s') => done (s'.setR f.d.toNat (BitVec.ofNat 64 h) 0)))

/-- R347: the pool takes the node that crew k waits to post. -/
def execNodePost (k : Nat) (s : State) : Out :=
  retry k false (fun i => match i with
    | .tgpost f => some (execTgpost f)
    | _ => none) s

/-! ### Waiting for a node (R360) -/

/-- tgwait (R360).
DEDUCED, log entry 41. -/
def execTgwait (f : T32e) (s : State) : Out :=
  inA s (use1 (.tgwait f) f.a.toNat [f.d.toNat] s (fun a =>
    let h := a.toNat % 2 ^ 16
    let fin := fun (st : Nat) (s : State) =>
      done ((s.modMe (fun c => { c with await := none })).setR f.d.toNat (BitVec.ofNat 64 st) 0)
    if s.myCrew.await = some (h, some 0) then fin 0 s
    else if s.myCrew.await = some (h, some 1) then fin 1 s
    else if s.myCrew.await = some (h, some 2) then fin 2 s
    else match liveNode s s.myDie h with
      | none => fin 3 s
      | some (_, n) =>
        if n.ctx ≠ s.myCrew.ctx then fin 3 s
        else namedWait (.tgwait f) (s.modMe (fun c => { c with await := some (h, none) }))))

/-! ### tgdone (R359) -/

/-- tgdone (R359). -/
def execTgdone (f : T32e) (s : State) : Out :=
  inA s (if s.myCrew.done then done s
    else match settle s s.me with
      | none => waitAt (.tgdone f) s
      | some s =>
        let s := s.modMe (fun c => { c with done := true })
        match s.myCrew.home with
        | none => done s
        | some _ => done (countCrew s.me (s.modMe (fun c => { c with doneAt := some s.jseq }))))

/-! ### Strip chaining (R361, R362) -/

/-- tghwm (R362). -/
def execTghwm (f : T32e) (s : State) : Out :=
  inA s (use1 (.tghwm f) f.a.toNat [] s (fun a =>
    match settle s s.me with
    | none => waitAt (.tghwm f) s
    | some s => done (s.modMe (fun c => { c with hwm := BitVec.ofNat 64 (max c.hwm.toNat a.toNat) }))))

/-- The index of its producer reaches a bound crew: frozen, with fin set, once the producer crew has retired. -/
def highWaterArriveEv (k : Nat) (s : State) : Option State :=
  match (s.crew k).prod with
  | none => none
  | some (node, w) =>
    let set := fun (v : Word) (fin : Bool) =>
      if (s.crew k).chain.hwm = v ∧ (s.crew k).chain.fin = fin then none
      else some (s.modCrew k (fun c => { c with chain := { c.chain with hwm := v, fin := fin } }))
    match (findNode s node).bind (fun n => n.frozen.find? (fun e => e.1 == w)) with
    | some e => set e.2 true
    | none => match findMember s node w with
      | some p => set p.hwm false
      | none => none

/-- R362. -/
def execHighWaterArrive (k : Nat) (s : State) : Out := .next ((highWaterArriveEv k s).getD s)

/-! ### Placement (R354 to R356, R367, R373, R374) -/

/-- The t-th crew-level WID in increasing order (R30): digits of the levels from the crew level up. -/
def widOf (r : Record) (t : Nat) : Word :=
  let ls := hdrLevels r
  let c := crewLevel ls
  let go := (ls.drop c).foldl (fun (acc : Nat × Nat × Nat) l =>
    (acc.1 / l.ext, acc.2.1 + l.width, acc.2.2 + acc.1 % l.ext * 2 ^ acc.2.1))
    (t, (ls.take c).foldl (fun a l => a + l.width) 0, 0)
  BitVec.ofNat 64 go.2.2

/-- Fields of a WID. -/
def widFields (ls : List Level) (w : Word) : List Nat :=
  (ls.foldl (fun (acc : Nat × List Nat) l => (acc.1 + l.width, acc.2 ++ [wfield w acc.1 l.width])) (0, [])).2

/-- The unit of a binding that a crew slot lies in. -/
def unitOf (u k : Nat) : Nat :=
  match u with
  | 2 => k / 4
  | 3 => k / 128
  | 4 => k / 256
  | 5 => k / 2048
  | _ => k

/-- Two WIDs of a node may stand on these two crew slots (R354): equal fields from the lowest level bound to a unit up share that
unit, and distinct values of a level bound to it take distinct ones.
DEDUCED, log entry 42. -/
def pairOk (ls : List Level) (a b : Word × Nat) : Bool :=
  let same := ((widFields ls a.1).zip (widFields ls b.1)).map (fun e => e.1 == e.2)
  [2, 3, 4, 5].all (fun u =>
    let low := ls.findIdx (fun l => l.bind == u)
    let share := unitOf u a.2 == unitOf u b.2
    let differ := (same.zip ls).any (fun e => e.2.bind == u && !e.1)
    decide (low ≥ ls.length) || (if differ then !share else !(same.drop low).all id || share))

/-- Entry of a context and of its partition on a die (R371, R373). -/
def ctxEntry (s : State) (die ctx : Nat) : Word := s.reg die (0xC00 + 4 * ctx)
def partEntry (s : State) (die p : Nat) : Word := s.reg die (0xB00 + p)

/-- The partition of a context covers a core's cluster (R373). -/
def partitionHas (s : State) (ctx core : Nat) : Bool :=
  let d := coreDie core
  let e := ctxEntry s d ctx
  let p := partEntry s d (wfield e 2 4)
  wbit e 0 && wbit p 0 && wbit p (1 + 2 * (d % 8) + core % 64 / 32)

/-- A crew slot of a core is occupied, or a crew is being loaded into it. -/
def occupied (s : State) (k : Nat) : Bool := (s.crew k).state != 0 || (s.saves.any (fun e => e.1 == k && e.2.load))

/-- The lowest range of g free lane groups of a core (R354). -/
def freeRange (s : State) (core g : Nat) : Option Nat :=
  (List.range 8).find? (fun b => decide (b + g ≤ 8)
    && (List.range g).all (fun i => (coreCrews core).all (fun x => !holds s x (b + i))))

/-- Crew slot k may take a crew of this node now, apart from the bindings (R354, R367, R373, R404). -/
def slotOk (s : State) (die : Nat) (n : Node) (k : Nat) : Bool :=
  let core := crewCore k
  let wide := (hdrLevels n.words).any (fun l => l.bind == 5 || l.bind == 6)
  decide (k < 65536) && !occupied s k && (s.crew k).latch.isNone && (wide || crewChip k == dieChip die)
    && !pathDown s die (crewDie k) && linkOpen s die (crewDie k)
    && (!hdrPinen n.words || (crewDie k % 8 == hdrPindie n.words && crewChip k == dieChip die && core % 64 / 32 == hdrPincl n.words))
    && partitionHas s n.ctx core
    && (coreCrews core).all (fun x => !occupied s x || (s.crew x).home == some (die, n.handle))
    && (s.core core).raise.isNone && (freeRange s core (hdrLanes n.words)).isSome

/-- The crew of the producer node of a chained node that holds the same crew-level WID, if the producer is live: its WID, if it
has been placed (R361). The widths of element levels may differ. -/
def producerOf (s : State) (die : Nat) (n : Node) (w : Word) : Option (Option Word) :=
  (n.chain.bind (fun h => findNode s (die, h))).map (fun p =>
    ((p.placed.map (·.1)).find? (fun x => crewField (hdrLevels p.words) x == crewField (hdrLevels n.words) w)))

/-- The producer crew of a chained WID has been placed (R361).
DEDUCED, log entry 42. -/
def producerPlaced (s : State) (die : Nat) (n : Node) (w : Word) : Bool := producerOf s die n w != some none

/-- The WIDs of the next placement group (R355). -/
def nextGroup (n : Node) : List Word :=
  if n.placed.length ≥ widCount n.words then []
  else (List.range (groupSize n.words)).map (fun i => widOf n.words (n.placed.length + i))

/-- Bytes of the scratchpad of a core from offset lo up. -/
def spadFrom (core lo : Nat) (p : Nat) : Bool := decide (spadByte core lo ≤ p) && decide (p < spadByte (core + 1) 0)

/-- The scrub of a core before a crew of another context (R374). It drops the core's TLB entries with its kind entries (R385).
DEDUCED, log entry 97. -/
def scrub (core : Nat) (s : State) : State :=
  let s := s.modCore core (fun c => { c.wake ⟨0, 8⟩ with vregs := [], tiles := [], kinds := [], l1 := [], cache := [] })
  { s with mem := s.mem.filter (fun e => !spadFrom core 0 e.1), poison := s.poison.filter (fun e => !spadFrom core 0 (8 * e.1)),
           bad := s.bad.filter (fun e => !spadFrom core 0 (8 * e.1)) }

/-- A core takes a carve: the scratchpad survives in the banks that remain scratchpad, and the core cache keeps the lines that its banks
still hold (R19). The lines of the highest addresses leave.
DEDUCED, log entry 44; DESIGN CHOICE, log entry 96. -/
def carve (core S Q C : Nat) (s : State) : State :=
  let lo := Config.bankBytes * min S (s.core core).s
  let s := s.modCore core (fun c =>
    let c := { c with s := S, q := Q, c := C }
    { c with cache := c.cache.take c.cacheLines })
  { s with mem := s.mem.filter (fun e => !spadFrom core lo e.1), poison := s.poison.filter (fun e => !spadFrom core lo (8 * e.1)),
           bad := s.bad.filter (fun e => !spadFrom core lo (8 * e.1)) }

/-- Give a core to a context: scrubbed when its owner changes (R25, R374). -/
def ownCore (core ctx S Q C : Nat) (s : State) : State :=
  let s := if (s.core core).owner = some ctx then s else scrub core s
  (carve core S Q C s).modCore core (fun c => { c with owner := some ctx })

/-- The requester that the task-graph unit of a die is at the homes of an image. -/
def unitId (die : Nat) : Nat := 2 ^ 20 + 2 * die

/-- A core that is new to a node takes its carve, its owner and the scratchpad image (R356).
DEDUCED, log entry 45. -/
def prepareCore (die : Nat) (n : Node) (core : Nat) (s : State) : Chk Unit × State :=
  if (s.core core).node = some (die, n.handle) ∧ (s.core core).owner = some n.ctx then (.ok (), s)
  else
    let r := n.words
    let s := (ownCore core n.ctx (hdrS r) (hdrQ r) (hdrC r) s).modCore core (fun c => { c with node := some (die, n.handle) })
    if hdrImgl r = 0 then (.ok (), s)
    else match engineRange s (unitId die) (coreDie core) none n.ctx .read (hdrImg r) (hdrImgl r) with
      | (.wait, s) => (.wait, s)
      | (.fault t, s) => (.fault t, s)
      | (.ok ps, s) => match (s.leaveAll (unitId die)).readBytes ps with
        | (bs, s) => (.ok (), s.perform (((List.range bs.length).zip bs).map (fun e => (spadByte core e.1, e.2))))

/-- A crew stands in its slot as R356 leaves it; its sequencers have not started. -/
def seatCrew (die : Nat) (n : Node) (w : Word) (k : Nat) (s : State) : State :=
  let r := n.words
  let ls := hdrLevels r
  let core := crewCore k
  let g := hdrLanes r
  let share : Share := ⟨(freeRange s core g).getD 0, g⟩
  let prod := ((producerOf s die n w).join).map (fun x => ((die, n.chain.getD 0), x))
  let seq := fun (pc : Word) => ({ pc := pc, share := share } : Seqr)
  let crew : Crew := {
    state := 1, ctx := n.ctx, wid := w, widths := ls.map (·.width), exts := ls.map (fun l => BitVec.ofNat 64 l.ext),
    lev := crewLevel ls, narg := r.getD 31 0, node := BitVec.ofNat 64 (n.handle + die % 8 * 2 ^ 16),
    home := some (die, n.handle),
    a := seq (r.getD 20 0), x := seq (r.getD 21 0), slip := 8 * hdrQ r - 16, cap := hdrC r, pshare := share,
    chain := { bound := prod.isSome }, prod := prod }
  (s.setCrew k crew).modCore core (fun c => { c.wake share with
    lpart := put {} c.lpart (crewSlot k) share,
    vregs := zeroLanes (fun l => decide (8 * share.b ≤ l) && decide (l < 8 * (share.b + g))) 0 128 c.vregs })

/-- A store of an ended crew goes on with the elements of its token that the X-slice has pushed (R409): those elements, from the token. -/
def StorePart.cut (p : StorePart) (t : Option Tok) : Option Tok × StorePart :=
  match t with
  | none => (none, { p with left := [] })
  | some t =>
    if t.elems.length = t.n then (some t, p)
    else
      let done := elemsDone p t
      match p.op with
      | .block _ m =>
        let n := t.elems.length / 32 * 32
        (some { t with n := n, elems := t.elems.take n }, { p with left := p.left.take ((n - done) / 32 * (blockBytes m + 1)) })
      | _ => (some { t with n := t.elems.length }, { p with left := p.left.take (t.elems.length - done) })

/-- The issued accesses of an ended crew, and what is left of its queues: the store tokens that they still use, each cut to what it
holds, and index tokens that they hold (R409). A store whose token is not there performs nothing more. -/
def cutLoads (c : Crew) : List LoadJob → List LoadJob → SMap (List Tok) → List LoadJob × SMap (List Tok)
  | _, [], sq => ([], sq)
  | before, j :: r, sq =>
    match j.store with
    | some p =>
      if p.data.isSome then (match cutLoads c (before ++ [j]) r sq with | (l, sq) => (j :: l, sq))
      else
        match p.cut ((c.sqAt p.sq)[({ c with loads := before } : Crew).claimed p.sq]?) with
        | (t, p) =>
          match cutLoads c (before ++ [j]) r (put [] sq p.sq (get [] sq p.sq ++ [t.getD { n := 0, wc := 0, gsz := 1, spg := 1 }])) with
          | (l, sq) => ({ j with store := some p } :: l, sq)
    | none => if j.tok.marker then cutLoads c (before ++ [j]) r sq else (match cutLoads c (before ++ [j]) r sq with | (l, sq) => (j :: l, sq))

/-- Command 2 on a crew (R405, R409): both sequencers stop at once, and what its VIQ and its queues held is discarded; accesses that it
has issued run on with what they had in hand.
DEDUCED, log entry 47. -/
def endCrew (k : Nat) (s : State) : State :=
  let c := s.crew k
  match cutLoads c [] c.loads [] with
  | (loads, sq) => (s.setCrew k { c with
    state := 6, a := { c.a with run := .exited, wait := none }, x := { c.x with run := .exited, wait := none },
    viq := [], lq := [], sq := sq, iq := c.iq.take c.claimedIq, cq := [], bq := [], loads := loads, vpend := [] }).leaveAll (2 * k)

/-- The node's image could not be read: no further crew is placed, the crews placed are ended, and the node fails with
the read's cause (R356). -/
def haltNode (die : Nat) (n : Node) (cause : Nat) (s : State) : State :=
  let s := s.modNode (die, n.handle) (fun x => { x with halted := true, status := 1, cause := cause, phase := 1 })
  let mine := s.crews.filter (fun e => e.2.state != 0 && e.2.home == some (die, n.handle))
  settleNode (die, n.handle) (mine.foldl (fun s e => endCrew e.1 s) s)

/-- Seat the crews of a group one after another: whether all of them could be, and the state. -/
def seatGroup (die : Nat) (n : Node) : List (Word × Nat) → State → Chk Unit × State
  | [], s => (.ok (), s)
  | (w, k) :: r, s =>
    match prepareCore die n (crewCore k) s with
    | (.ok _, s) => seatGroup die n r (seatCrew die n w k s)
    | x => x

/-- The named crew slots can take the group (R354, R355).
DEDUCED, log entry 43. -/
def groupFits (s : State) (die : Nat) (n : Node) : List (Word × Nat) → List (Word × Nat) → State → Bool
  | _, [], _ => true
  | done, (w, k) :: r, t =>
    slotOk t die n k && producerPlaced s die n w && done.all (pairOk (hdrLevels n.words) (w, k))
      && groupFits s die n ((w, k) :: done) r
        ((seatCrew die n w k t).modCore (crewCore k) (fun c => { c with node := some (die, n.handle) }))

/-- Crew slots from the first on, so many. -/
def slotRange (x : Nat × Nat) : List Nat := (List.range x.2).map (x.1 + ·)

/-- A slot for each WID among some slots, the lowest that fits each time; none where one has no slot. -/
def firstFit (die : Nat) (n : Node) (slots : Nat × Nat) : List Word → List (Word × Nat) × State → Option (List (Word × Nat) × State)
  | [], a => some a
  | w :: r, (done, t) =>
    match (slotRange slots).find? (fun k => slotOk t die n k && producerPlaced t die n w && done.all (pairOk (hdrLevels n.words) (w, k))) with
    | none => none
    | some k => firstFit die n slots r ((w, k) :: done,
        (seatCrew die n w k t).modCore (crewCore k) (fun c => { c with node := some (die, n.handle) }))

/-- A range of crew slots, unit by unit of a binding. -/
def splitUnits (u : Nat) (x : Nat × Nat) : List (Nat × Nat) :=
  let size := 4 * unitCores u
  if x.2 ≤ size then [x] else (List.range (x.2 / size)).map (fun i => (x.1 + size * i, size))

/-- Split WIDs into the bundles that must share a unit of binding u: those with equal fields from its lowest level up. -/
def bundles (ls : List Level) (u : Nat) (ws : List Word) : List (List Word) :=
  let key := fun (w : Word) => (widFields ls w).drop (ls.findIdx (fun l => l.bind == u))
  ((ws.map key).eraseDups).map (fun x => ws.filter (fun w => key w == x))

/-- Place WIDs unit by unit, from the highest binding down: each bundle goes to the first unit that can take the whole of it. -/
def placeUnits (die : Nat) (n : Node) : List Nat → Nat × Nat → List Word → List (Word × Nat) × State →
    Option (List (Word × Nat) × State)
  | [], slots, ws, a => firstFit die n slots ws a
  | u :: us, slots, ws, a =>
    (bundles (hdrLevels n.words) u ws).foldl (fun (acc : Option (List (Word × Nat) × State)) b =>
      acc.bind (fun a => (splitUnits u slots).findSome? (fun x => placeUnits die n us x b a))) (some a)

/-- Every way to place WIDs, one after another. -/
def searchSlots (die : Nat) (n : Node) (slots : Nat × Nat) : List Word → List (Word × Nat) × State → Option (List (Word × Nat))
  | [], a => some a.1
  | w :: r, (done, t) => (slotRange slots).findSome? (fun k =>
      if slotOk t die n k && producerPlaced t die n w && done.all (pairOk (hdrLevels n.words) (w, k)) then
        searchSlots die n slots r ((w, k) :: done,
          (seatCrew die n w k t).modCore (crewCore k) (fun c => { c with node := some (die, n.handle) }))
      else none)

/-- The node has several values of a level with no unit above a level that has one: bundles of a group may share units in more
than one way. -/
def looseAbove (n : Node) : Bool :=
  let ls := hdrLevels n.words
  hdrCoen n.words && ((List.range ls.length).zip ls).any (fun e =>
    (e.2.bind == 0 || e.2.bind == 6) && decide (crewLevel ls < e.1) && decide (1 < e.2.ext)
      && (ls.take e.1).any (fun l => decide (2 ≤ l.bind) && decide (l.bind ≤ 5)))

/-- Crew slots for the next group of a node, if it can be placed now: in the pinned cluster, on the poster's chip, or, for a node
with a level bound to chip or pod, in the pod (R354, R355, R367). Where each unit takes whole bundles of one size, the first unit
that can take a bundle serves as well as any other; else every way is tried. -/
def findPlacement (s : State) (die : Nat) (n : Node) : Option (List Nat) :=
  let c := dieChip die
  let ls := hdrLevels n.words
  let slots := if hdrPinen n.words then (2048 * c + 256 * hdrPindie n.words + 128 * hdrPincl n.words, 128)
    else if ls.any (fun l => l.bind == 5 || l.bind == 6) then (0, 65536) else (2048 * c, 2048)
  let us := [5, 4, 3, 2].filter (fun u => ls.any (fun l => l.bind == u))
  let group := nextGroup n
  let found : Option (List (Word × Nat)) := match placeUnits die n us slots group (n.placed, s) with
    | some a => some a.1
    | none => if looseAbove n then searchSlots die n slots group (n.placed, s) else none
  found.map (fun done => group.map (fun w => ((done.find? (fun e => e.1 == w)).map (·.2)).getD 0))

/-- A node ranks above another (R351). -/
def Node.above (a b : Node) : Bool := decide (a.level > b.level) || (a.level == b.level && decide (a.order < b.order))

/-- Kernel nodes dispatched, with groups left to place. -/
def placing (s : State) (die : Nat) : List Node :=
  ((s.die die).pool.map (·.2)).filter (fun n => recType n.words == 0 && n.phase == 1 && !n.halted && !(nextGroup n).isEmpty)

/-- Place the next group of the node in a pool slot on the crew slots named (R354, R355). -/
def crewPlacementEv (die slot : Nat) (crews : List Nat) (s : State) : Option State :=
  match (s.die die).pool.find? (fun e => e.1 == slot) with
  | none => none
  | some (_, n) =>
    let group := nextGroup n
    if (s.chip (dieChip die)).tripped ∨ recType n.words ≠ 0 ∨ n.phase ≠ 1 ∨ n.halted ∨ group = [] ∨ crews.length ≠ group.length then none
    else if !groupFits s die n n.placed (group.zip crews) s then none
    else if (placing s die).any (fun m => m.above n && (findPlacement s die m).isSome) then none
    else match seatGroup die n (group.zip crews) s with
      | (.wait, t) => s.held t
      | (.fault t, _) => some (haltNode die n t.code s)
      | (.ok _, s) => some (s.modNode (die, n.handle) (fun x => { x with placed := x.placed ++ group.zip crews }))

/-- R354, R355. -/
def execCrewPlacement (die : Nat) (slot : Nat) (crews : List Nat) (s : State) : Out :=
  .next ((crewPlacementEv die slot crews s).getD s)

/-- The sequencers of a placed crew start (R356). -/
def crewStartEv (k : Nat) (s : State) : Option State :=
  let c := s.crew k
  if c.state = 1 ∧ c.a.run = .off ∧ c.x.run = .off ∧ !(s.chip (crewChip k)).tripped then
    some (s.modCrew k (fun c => { c with a := { c.a with run := .running }, x := { c.x with run := .running } }))
  else none

/-- R356. -/
def execCrewStart (k : Nat) (s : State) : Out := .next ((crewStartEv k s).getD s)

/-! ### Dispatch (R351, R353) -/

/-- A node is ready (R349): its predecessors are complete, and its chain predecessor is dispatched. -/
def ready (s : State) (die : Nat) (n : Node) : Bool :=
  n.phase == 0 && n.preds.isEmpty && (match n.chain with
    | none => true
    | some h => match liveNode s die h with
      | none => true
      | some (_, p) => p.phase != 0)

/-- The ready nodes of a class. -/
def readyNodes (s : State) (die cls : Nat) : List Node :=
  ((s.die die).pool.map (·.2)).filter (fun n => recType n.words == cls && ready s die n)

/-- The highest-ranked ready node of a class. -/
def topNode (s : State) (die cls : Nat) : Option Node :=
  (readyNodes s die cls).foldl (fun (acc : Option Node) n => match acc with
    | none => some n
    | some m => if n.above m then some n else acc) none

/-- Each other ready node of the class ages, and rises a level at age A (R352, R353). -/
def ageNodes (die cls h : Nat) (s : State) : State :=
  let A := max 1 (wfield (s.reg die 0x0A0) 0 10)
  ((readyNodes s die cls).filter (fun n => n.handle != h)).foldl (fun s n => s.modNode (die, n.handle) (fun x =>
    if x.age + 1 ≥ A ∧ x.level < 3 then { x with level := x.level + 1, age := 0 } else { x with age := x.age + 1 })) s

/-- The executor of a class takes a node: none where it cannot (R351). -/
def takeNode (die core : Nat) (n : Node) (s : State) : Option State :=
  let r := n.words
  let node := some (die, n.handle)
  match recType r with
  | 0 => if (findPlacement s die n).isSome then some s else none
  | 1 =>
    if coreDie core = die ∧ partitionHas s n.ctx core ∧ copyRoom s core then
      match s.nextJob with
      | (q, s) =>
        let job : Job := { kind := recWord r 28, card := recCard r, crew := 0, ctx := n.ctx, member := none, node := node,
                           mm := false, seq := q }
        some (s.modCore core (fun c => { c with jobs := c.jobs ++ [job] }))
    else none
  | _ =>
    match recColl r with
    | (g, kind, half, comb) =>
      if collsOut s die g ≥ 4 then none
      else match s.nextJob with
        | (q, s) =>
          let w := r.getD 22 0
          let part : CollMember := {
            die := die, crew := 0, ctx := n.ctx, member := none, node := node,
            shape := (kind, comb, half, (collCount w).1, (collCount w).2), mask := groupMembers s die g,
            src := r.getD 20 0, dst := r.getD 21 0, seq := q }
          some (joinColl g part s)

/-- Dispatch the highest-ranked ready node of a class; a copy node goes to the named core (R351, R353). -/
def nodeDispatchEv (die cls core : Nat) (s : State) : Option State :=
  if (s.chip (dieChip die)).tripped then none
  else match topNode s die cls with
  | none => none
  | some n =>
    let aged := ageNodes die cls n.handle s
    takeNode die core n (aged.modNode (die, n.handle) (fun x => { x with phase := 1 }))

/-- R351. -/
def execNodeDispatch (die : Nat) (cls : Nat) (core : Nat) (s : State) : Out := .next ((nodeDispatchEv die cls core s).getD s)

/-! ### Retirement (R194, R319) -/

/-- Every member of every batch of a crew is complete. -/
def batchesDone (c : Crew) : Bool := c.cc.all (fun e => e.2.closed.isEmpty && e.2.batch.pending == 0)

/-- The buffer, batches and matrix commands of a crew are done (R319, R194, R413). -/
def settled (s : State) (k : Nat) : Bool :=
  let c := s.crew k
  c.wcb.isEmpty && c.owed.isEmpty && batchesDone c && !matrixBusy s k && (match c.follow with
    | .armed _ => false
    | _ => true)

/-- Nothing of a crew is in flight. -/
def quiet (s : State) (k : Nat) : Bool :=
  let c := s.crew k
  c.loads.isEmpty && c.reads.isEmpty && c.sc.isNone && c.mcas.isNone && c.req.isNone && settled s k

/-- The accesses that an ended crew had issued have run on to their ends. -/
def ranOut (c : Crew) : Bool :=
  (match c.sc with
    | some a => a.left.isEmpty
    | none => true) && (match c.mcas with
    | some m => m.phase == .finishing
    | none => true) && (match c.req with
    | none => true
    | some q => match q.phase with
      | .returned .. => true
      | _ => false)

/-- The slot of a crew is freed, with its lane groups; divisions of the crew are dropped, and places where it waited. -/
def freeSlot (k : Nat) (s : State) : State :=
  let latch := (s.crew k).latch
  let s := ((s.leaveAll (2 * k)).leaveAll (2 * k + 1)).setCrew k { latch := latch }
  let drop := fun (d : Divider) =>
    ({ run := d.run.filter (fun x => x.crew != k), wait := d.wait.filter (fun x => x.crew != k) } : Divider)
  (s.modCore (crewCore k) (fun c => { c with
    lpart := put {} c.lpart (crewSlot k) {}, diva := drop c.diva, divx := drop c.divx })).classFall (crewCore k)

/-- A crew leaves its node for good. -/
def leaveNode (k : Nat) (fail : Option Nat) (s : State) : State :=
  let c := s.crew k
  let node := c.home
  let s := freeSlot k (freeTiles k s)
  match node with
  | none => s
  | some nd =>
    crewFinished nd (!c.done || c.doneAt.isSome) fail (s.modNode nd (fun n => { n with frozen := n.frozen ++ [(c.wid, c.hwm)] }))

/-- QRESID reason 3: both PCs stand at their exit instructions (R319). -/
def leftOver (k : Nat) (xs : Bool) (q : Nat) (s : State) : State :=
  s.modCrew k (fun c =>
    let c := c.takeTrap xs { code := Cause.qresid, reason := 3, queue := q }
    { c with a := { c.a with run := .halted }, x := { c.x with run := .halted } })

/-- A crew whose sequencers have both stopped: QRESID where a token is left over (R319), else it retires. An ended crew's
node gets the code of its trap as cause, if it had one (R358, R409). -/
def crewRetireEv (k : Nat) (s : State) : Option State :=
  let c := s.crew k
  if c.state ≠ 1 ∨ c.a.run ≠ .exited ∨ c.x.run ≠ .exited then none
  else match residue c true, residue c false with
    | some q, _ => some (leftOver k true q s)
    | none, some q => some (leftOver k false q s)
    | none, none => if quiet s k then some (leaveNode k c.late s) else none

/-- R319. -/
def execCrewRetire (k : Nat) (s : State) : Out := .next ((crewRetireEv k s).getD s)

/-- An ended crew retires (R409). -/
def crewEndCompleteEv (k : Nat) (s : State) : Option State :=
  let c := s.crew k
  if c.state ≠ 6 then none
  else match drainAll s k with
    | none => none
    | some s =>
      if settled s k && (s.crew k).loads.isEmpty && (s.crew k).reads.isEmpty && ranOut (s.crew k) then some (leaveNode k (some (if wfield c.trap.cause 0 8 ≠ 0 ∧ c.stop = .trap then wfield c.trap.cause 0 8 else 0)) s)
      else none

/-- R409. -/
def execCrewEndComplete (k : Nat) (s : State) : Out := .next ((crewEndCompleteEv k s).getD s)

end Sys2Proof.Machine
end

