-- ==== Sys2Proof/Machine/Recovery.lean ====
section
/-!
DEFINITION. Stops of a crew at a trap or a pre-emption, trap records, eret and the target commands (R398 to R411),
invalidation of translations and page walks (R380 to R382), saving and loading a crew (R412 to R416), and the partition
swap (R417).
-/
namespace Sys2Proof.Machine

/-! ### The end of a stream (R318) -/

/-- End the stream: after draining and waiting, and with no residue in its queues (R192, R318). A slice that runs on after a trap
of the other does not execute it (R399). -/
def execExit (s : State) : Out :=
  control s (
    if s.myCrew.stop = .trap then .next (s.modSeqr (fun q => { q with run := .halted, wait := some .exit }))
    else if s.cur.xs then
      if !s.myCrew.viq.isEmpty then waitAt .exit s
      else match residue s.myCrew true with
        | some n => raise { code := Cause.qresid, reason := 1, queue := n } s
        | none => exitNow s
    else
      match drainAll s s.me with
      | none => waitAt .exit s
      | some s' =>
        if s'.myCrew.follow == .awaiting then raise { code := Cause.mfollow } s'
        else if !s'.myCrew.loads.isEmpty || s'.myCrew.sc.isSome || redPending s' s'.me then waitAt .exit s'
        else match residue s'.myCrew false with
          | some n => raise { code := Cause.qresid, reason := 2, queue := n } s'
          | none => exitNow s')

/-! ### Where a crew is (R32) -/

/-- sys.place (R32). -/
def placeWord (s : State) (k : Nat) : Word :=
  let c := s.crew k
  BitVec.ofNat 64 (crewSlot k + crewCore k % 32 * 2 ^ 2 + crewCore k % 64 / 32 * 2 ^ 7 + crewDie k % 8 * 2 ^ 8
    + crewChip k % 32 * 2 ^ 11 + c.pshare.b * 2 ^ 16 + c.pshare.g * 2 ^ 19 + c.ctx % 256 * 2 ^ 32)

/-! ### Stops (R398, R399, R403, R410, R411) -/

/-- Saturating count. -/
def sat (n x : Nat) : Nat := min x n

/-- sys.qstate of a crew that has stopped: tokens and markers of the load queues (R403). -/
def qstateWord (c : Crew) : Word :=
  BitVec.ofNat 64 (((List.range 8).map (fun i => sat 255 (c.lqAt i).length * 2 ^ (8 * i))).foldl (· + ·) 0)

/-- sys.qsx (R403). -/
def qsxWord (c : Crew) : Word :=
  let held := (members c.viq).filter (fun m => !m.e.fin)
  BitVec.ofNat 64 (((List.range 4).map (fun i => sat 255 (c.sqAt i).length * 2 ^ (8 * i))).foldl (· + ·) 0
    + sat 255 c.iq.length * 2 ^ 32 + c.cq.length * 2 ^ 40 + c.bq.length * 2 ^ 45 + held.length * 2 ^ 50
    + ((List.range 8).map (fun i => flag ((c.lqAt i).any (·.marker)) * 2 ^ (56 + i))).foldl (· + ·) 0)

/-- Progress index of the oldest held VIQ entry (R403). -/
def vstartOf (c : Crew) : Nat := (((members c.viq).filter (fun m => !m.e.fin)).head?.map (·.e.prog)).getD 0

/-- Write the registers that every stop writes (R403). -/
def Crew.stopRegs (c : Crew) : Crew :=
  { c with
    trap := { c.trap with epca := c.a.pc, epcx := c.x.pc, qstate := qstateWord c, qsx := qsxWord c, vstart := vstartOf c } }

/-- Every outstanding result matures (R52). -/
def Crew.mature (c : Crew) : Crew := { c with a := c.a.mature, x := c.x.mature, vpend := [] }

/-- Neither sequencer runs. -/
def frontStopped (c : Crew) : Bool := c.a.run != .running && c.x.run != .running

/-- No access of the crew can push or perform now: what it has issued goes on first (R398, R401). -/
def pushesDone (s : State) (k : Nat) : Bool :=
  (List.range (s.crew k).loads.length).all (fun i => (loadTokenPushEv k i s).isNone && (storeStepEv k i s).isNone)
    && (s.crew k).sc.isNone

/-- The access sequencer is inside an instruction that nothing interrupts (R103, R246, R276). -/
def Crew.inside (c : Crew) : Bool := c.step2 || c.sc.isSome || c.req.isSome || c.mcas.isSome

/-- The trap record of a stopped crew (R404): its eight words. -/
def trapWords (s : State) (k seq : Nat) : List Word :=
  let c := s.crew k
  [placeWord s k, c.trap.cause, c.trap.tval, c.trap.epca, c.trap.epcx, c.node, BitVec.ofNat 64 seq, 0]

/-- Count a trap record that is not written (R404).
DEDUCED, log entry 48. -/
def dropRecord (d : Nat) (s : State) : State :=
  s.setReg d 0x115 (BitVec.ofNat 64 (min ((s.reg d 0x115).toNat + 1) (2 ^ 32 - 1)))

/-- The crews of a die. -/
def dieCrews (s : State) (d : Nat) : List Nat := (s.crews.filter (fun e => crewDie e.1 == d)).map (·.1)

/-- The arbiter accepts the record of a trapped crew: it waits, or is latched in the crew's slot when 64 wait or when another
slot's latch holds an earlier one (R404). -/
def reportTrap (k : Nat) (s : State) : State :=
  let d := crewDie k
  match s.nextSeq d with
  | (q, s) =>
    let r : TrapRec := ⟨q, trapWords s k q⟩
    if wfield (s.reg d 0x110) 0 6 = 0 then dropRecord d s
    else if (s.die d).traps.length < 64 && (dieCrews s d).all (fun j => (s.crew j).latch.isNone) then s.modDie d (fun x => { x with traps := x.traps ++ [r] })
    else s.modCrew k (fun c => { c with latch := some r })

/-- The X sequencer has stopped, or takes a pre-emption request at its wait: what it waits for is an entry of the VIQ that itself
waits for a queue, with nothing on its way into it (R316, R329, R330).
DEDUCED, log entry 82. -/
def xTakes (s : State) (k : Nat) : Bool :=
  let c := s.crew k
  c.x.run != .running || (c.x.wait.isSome && !c.viq.isEmpty && viqStuck s k
    && ((s.core (crewCore k)).divx.run.toList ++ (s.core (crewCore k)).divx.wait).all (fun d => d.crew != k))

/-- The access sequencer has stopped, or takes a pre-emption request at its wait: what it waits for is an access of its crew that
itself waits for a queue (R316, R329, R330).
DEDUCED, log entry 82. -/
def aTakes (s : State) (k : Nat) : Bool :=
  let c := s.crew k
  c.a.run != .running || (!c.loads.isEmpty && (c.a.wait == some .exit || (c.a.wait.isSome && (settle s k).isNone)))

/-- The access sequencer of a crew whose gang has stopped: its PC is at the mmag (R184, R411).
DEDUCED, log entry 25. -/
def Crew.atGang (c : Crew) (q : Seqr) : Seqr :=
  match c.gang with
  | some g => { q with run := .halted, pc := g.pc, wait := none }
  | none => q

/-- A crew that stops: gangs behind one that has stopped stop too, and the instruction at its access PC gives up its place at the
homes (R184, R273). -/
def leaveHomes (k : Nat) (s : State) : State :=
  ((if (s.crew k).gang.isSome then stopGangs k s else s).leaveAll (2 * k))

/-- A crew has stopped after a trap: its buffer is drained, outstanding results mature, it is trapped, and reported (R52,
R208, R398, R405). Where the trap came after a pre-emption had stopped a gang, its access sequencer stands at the mmag (R184,
R402). -/
def runOnStopEv (k : Nat) (s : State) : Option State :=
  let c := s.crew k
  if c.state = 2 ∧ c.stop = .trap ∧ frontStopped c ∧ viqStuck s k ∧ pushesDone s k then
    match drainAll s k with
    | none => none
    | some s => some (reportTrap k ((leaveHomes k s).modCrew k (fun c =>
        { ({ c.mature with a := c.atGang c.mature.a } : Crew).stopRegs with state := 4 })))
  else none

/-- R399, R401. -/
def execRunOnStop (k : Nat) (s : State) : Out := .next ((runOnStopEv k s).getD s)

/-- 1,024 cycles after the trap the running slice stops at an instruction boundary (R399). -/
def runOnLimitEv (k : Nat) (s : State) : Option State :=
  let c := s.crew k
  if c.state = 2 ∧ c.stop = .trap ∧ !frontStopped c ∧ !c.inside ∧ !convoyOpen s k then
    let halt := fun (q : Seqr) => if q.run = .running then { q with run := .halted } else q
    some (s.modCrew k (fun c => { c with a := halt c.a, x := halt c.x }))
  else none

/-- R399. -/
def execRunOnLimit (k : Nat) (s : State) : Out := .next ((runOnLimitEv k s).getD s)

/-- Matrix commands of crew k other than gangs are done, and no K step of its gangs runs (R184, R185). -/
def matrixStopped (s : State) (k : Nat) : Bool :=
  s.cores.all (fun e => e.2.mq.all (fun m => m.crew != k || m.isGang) && e.2.mrun.all (fun r => r.cmd.crew != k))

/-- A crew has stopped for command 1: its VIQ at an element-group boundary, its buffer drained, its gangs stopped (R138, R153,
R184, R410, R411). -/
def preemptStopEv (k : Nat) (s : State) : Option State :=
  let c := s.crew k
  if c.state = 2 ∧ c.stop = .preempt ∧ xTakes s k ∧ aTakes s k ∧ !c.inside ∧ viqStuck s k ∧ pushesDone s k
      ∧ matrixStopped s k then
    match drainAll s k with
    | none => none
    | some s => some ((leaveHomes k (stopGangs k s)).modCrew k (fun c =>
        let halt := fun (q : Seqr) => if q.run = .running then { q with run := .halted } else q
        let c := { c.mature with a := c.atGang (halt c.mature.a), x := halt c.mature.x }
        { c.stopRegs with state := 3, stop := .none, await := none }))
  else none

/-- R410. -/
def execPreemptStop (k : Nat) (s : State) : Out := .next ((preemptStopEv k s).getD s)

/-! ### Trap records (R404) -/

/-- The oldest waiting record is written to the ring, and the count of records rises as a release. -/
def trapRecordWriteEv (d : Nat) (s : State) : Option State :=
  match (s.die d).traps with
  | [] => none
  | r :: rest =>
    let v := s.reg d 0x110
    let n := wfield v 0 6
    let s' := s.modDie d (fun x => { x with traps := rest })
    if n = 0 then some (dropRecord d s')
    else
      let base := ringBase d v
      let wr := s.num base 8
      if s.unheld (ringBytes base n wr) ∧ (wr + 2 ^ 64 - s.num (base + 8) 8) % 2 ^ 64 < n then
        let dst := base + 64 + 64 * (wr % n)
        some ((s'.write ((r.words.zip (List.range 8)).flatMap (fun e => cellsOf (dst + 8 * e.2) 8 e.1.toNat))).write
          (cellsOf base 8 (wr + 1)))
      else none

/-- R404. -/
def execTrapRecordWrite (die : Nat) (s : State) : Out := .next ((trapRecordWriteEv die s).getD s)

/-- The arbiter takes the earliest latched record: its sequence number may have passed the end of its 32 bits (R421). -/
def latchTakeEv (d : Nat) (s : State) : Option State :=
  if (s.die d).traps.length ≥ 64 then none
  else
    let best := (dieCrews s d).foldl (fun (acc : Option (Nat × TrapRec)) k => match (s.crew k).latch, acc with
      | none, _ => acc
      | some r, none => some (k, r)
      | some r, some (k', r') => if (r'.seq + 2 ^ 32 - r.seq) % 2 ^ 32 < 2 ^ 31 then some (k, r) else some (k', r')) none
    match best with
    | none => none
    | some (k, r) =>
      some ((s.modCrew k (fun c => { c with latch := none })).modDie d (fun x => { x with traps := x.traps ++ [r] }))

/-- R404. -/
def execLatchTake (die : Nat) (s : State) : Out := .next ((latchTakeEv die s).getD s)

/-! ### The target (R405, R406, R409) -/

/-- The crew that sys.tsel of crew k names, on a die of its chip. -/
def targetOf (s : State) (k : Nat) : Nat :=
  let t := (s.crew k).tsel.toNat
  4 * (64 * (8 * crewChip k + bitsOf t 8 3) + 32 * bitsOf t 7 1 + bitsOf t 2 5) + bitsOf t 0 2

/-- Command 1 (R405, R410): only a running target takes it. -/
def preemptCrew (k : Nat) (s : State) : State :=
  let c := s.crew k
  if c.state = 1 ∧ c.stop = .none then s.modCrew k (fun c => { c with state := 2, stop := .preempt }) else s

/-- R405, R410. -/
def execTctlPreempt (k : Nat) (s : State) : Out := .next (preemptCrew k s)

/-- Command 2 (R405, R409): it acts in every state but empty.
DEDUCED, log entry 47. -/
def endTarget (k : Nat) (s : State) : State :=
  if (s.crew k).state = 0 ∨ (s.crew k).state = 6 then s else endCrew k s

/-- R405, R409. -/
def execTctlEnd (k : Nat) (s : State) : Out := .next (endTarget k s)

/-- A resume PC of a stopped target is set (R405). -/
def setEpc (k : Nat) (xs : Bool) (v : Word) (s : State) : State :=
  if (s.crew k).parked then
    s.modCrew k (fun c => { c with trap := if xs then { c.trap with epcx := v } else { c.trap with epca := v } })
  else s

/-- R405. -/
def execTargetEpcWrite (k : Nat) (xs : Bool) (v : Word) (s : State) : Out := .next (setEpc k xs v s)

/-- A sequencer starts at a PC, by a taken transfer (R40, R47, R406). -/
def Seqr.restart (q : Seqr) (pc : Word) : Seqr :=
  { q with run := .running, pc := pc, wait := none, taken := true, elig := false, lines := [] }

/-- Resume a stopped crew (R406): markers go, held entries restart, both sequencers start; the progress of a stopped gang stands
while the access sequencer starts at its mmag (R184). -/
def resumeCrew (k : Nat) (s : State) : State :=
  s.modCrew k (fun c => { c with
    gang := c.gang.filter (fun g => g.pc == c.trap.epca),
    lq := (c.lq.map (fun (e : Nat × List Tok) => (e.1, e.2.filter (fun t => !t.marker)))).filter (fun e => !e.2.isEmpty),
    loads := c.loads.filter (fun (j : LoadJob) => !j.tok.marker), stop := .none, state := 1,
    viq := c.viq.map (fun e => { e with held := false, goal := 0 }), desc := [],
    a := c.a.restart c.trap.epca, x := c.x.restart c.trap.epcx })

def crstate (reason : Nat) : Trap := { code := Cause.crstate, reason := reason }

/-- eret (R406): the return from an exception. -/
def execEret (s : State) : Out :=
  privileged s (
    let k := targetOf s s.me
    if !(s.crew k).parked then raise (crstate 1) s
    else if (s.crew k).latch.isSome then raise (crstate 7) s
    else done (resumeCrew k s))

/-! ### Invalidation (R381, R382) -/

/-- An address of a tlbinv.page: reasons 1 to 4, and space 0x0 only. -/
def invAddr (s : State) (ga : Nat) : Option Nat :=
  if ga / 2 ^ 60 ≠ 0 then some 1
  else match crewCheck s s.me false ga 1 with
    | .error r => some r
    | .ok _ => none

/-- Dies that a die reaches, its own among them. -/
def reachable (s : State) (d : Nat) : List Nat := (List.range 256).filter (fun e => e == d || routeValid s d e)

/-- The dies within a scope of a die (R33, R382).
DEDUCED, log entry 49. -/
def scopeDies (s : State) (d scope : Nat) : List Nat :=
  match scope with
  | 3 => [d]
  | 4 => (List.range 8).map (8 * dieChip d + ·)
  | _ => reachable s d

/-- tlbinv (R382): it joins its batch, and its targets drop entries one by one. -/
def execTlbinv (f : T32e) (s : State) : Out :=
  let i := Instr.tlbinv f
  let kind := f.imm.toNat
  let regs := if kind = 0 then [f.a.toNat, f.b.toNat] else if kind = 1 then [f.b.toNat] else []
  privileged s (useRegs i regs [] s (fun vs =>
    let ga : Word := if kind = 0 then vs.getD 0 0 else 0
    let ctx := bitsOf ((vs.getD (if kind = 0 then 1 else 0) 0).toNat) 0 8
    match (if kind = 0 then invAddr s ga.toNat else none) with
    | some r => raise { code := Cause.addrflt, reason := r, tval := ga } s
    | none => match settle s s.me with
      | none => waitAt i s
      | some s =>
        if (s.myCrew.counter f.cc.toNat).blocked then waitAt i s
        else match s.joinBatch s.me f.cc.toNat with
          | (m, s) =>
            let home := gaDie s.myDie ga.toNat
            let ts := scopeDies s s.myDie f.scope.toNat
            let inv : Inv := {
              kind := kind, ctx := ctx, va := ga.toNat % 2 ^ 51, pdie := s.myDie, home := home,
              targets := if kind = 0 ∧ !ts.contains home then ts ++ [home] else ts, member := some m }
            done { s with invs := s.invs ++ [inv] }))

/-- A TLB entry of a die, and a kind entry, that an invalidation drops. -/
def Inv.hits (x : Inv) (d : Nat) (e : TlbEntry) : Bool :=
  match x.kind with
  | 0 => d == x.home && e.hits x.ctx x.va
  | 1 => e.ctx == x.ctx
  | _ => true

def Inv.hitsKind (x : Inv) (e : KindEntry) : Bool :=
  match x.kind with
  | 0 => e.hits x.home x.ctx x.va
  | 1 => e.ctx == x.ctx
  | _ => true

/-- The page of an entry of die d holds a physical byte. -/
def TlbEntry.covers (e : TlbEntry) (d p : Nat) : Bool :=
  let w := e.leaf.toNat
  let size := 2 ^ leafShift e.lev
  let a := p % 2 ^ 37
  decide (p < 2 ^ 45) && p / 2 ^ 37 == d &&
    (if leafPch w = 0x40 then a / size == leafPa w / size
     else a / 256 % 64 == leafPch w && (a / 2 ^ 14 * 256 + a % 256) / size == leafPa w / size)

/-- Bytes of elements that have been checked and are not performed. -/
def Spot.bytes : Spot → List Nat
  | .at l => l.bytes
  | _ => []

/-- Bytes of the accesses of a crew that have been translated and are not performed. -/
def Crew.translated (c : Crew) : List Nat :=
  c.wcb.flatMap (fun l => l.cells.map (·.1))
    ++ (match c.sc with
      | some a => a.left.flatMap (·.2.1.bytes)
      | none => [])
    ++ c.loads.flatMap (fun j => j.spots.flatMap Spot.bytes ++ (match j.store with
      | some p => p.left.flatMap Spot.bytes
      | none => []))
    ++ (c.reads.filter (·.value.isNone)).flatMap (·.bytes)
    ++ (match c.req.map (·.phase) with
      | some (.replied _ _ _ bytes) => bytes
      | some (.returned _ _ _ bytes) => bytes
      | _ => [])
    ++ (match c.mcas with
      | some m => if m.phase = .finishing then [] else (m.entries.filter (·.read)).map (fun e => 8 * (e.phys - 1))
      | none => [])

/-- An access that used one of these entries of die d is not performed yet (R382). -/
def stillUsed (s : State) (d : Nat) (es : List TlbEntry) : Bool :=
  let uses := fun (ctx p : Nat) => es.any (fun e => e.ctx == ctx && e.covers d p)
  s.crews.any (fun c => c.2.translated.any (uses c.2.ctx))
    || (s.die d).slices.any (fun sl => (sl.2.wait ++ sl.2.chains.flatMap (·.parts)).any (fun x =>
        x.member.any (fun m => uses (s.crew m.crew).ctx (8 * x.word))))
    || s.dies.any (fun x => x.2.netOps.any (fun o => o.bytes.any (fun p => es.any (fun e => e.covers d p))))

/-- A target die drops its entries, and acknowledges once no access that used one is left; or it is unreachable (R382). -/
def tlbinvTargetDropEv (i d : Nat) (s : State) : Option State :=
  match s.invs[i]? with
  | none => none
  | some x =>
    if !x.targets.contains d then none
    else
      let dark := pathDown s x.pdie d
      if !dark && !linkOpen s x.pdie d then none
      else
        let ack := fun (s : State) =>
          let rest := x.targets.filter (fun t => t != d)
          let fail := if dark then x.fail <|> some Cause.darkpath else x.fail
          if rest.isEmpty then ({ s with invs := s.invs.eraseIdx i }).memberDone? x.member fail
          else { s with invs := s.invs.set i { x with targets := rest, fail := fail, dropped := del x.dropped d } }
        if dark then some (ack s)
        else match x.dropped.find? (fun e => e.1 == d) with
          | some (_, es) => if stillUsed s d es then none else some (ack s)
          | none =>
            let mine := fun (c : Nat × Core) => coreDie c.1 == d
            let es := ((s.die d).tlb ++ (s.cores.filter mine).flatMap (·.2.l1)).filter (x.hits d)
            let s : State := { s.modDie d (fun y => { y with tlb := y.tlb.filter (fun e => !x.hits d e) }) with
              cores := s.cores.map (fun (e : Nat × Core) => if mine e then
                (e.1, { e.2 with l1 := e.2.l1.filter (fun t => !x.hits d t), kinds := e.2.kinds.filter (fun t => !x.hitsKind t) }) else e) }
            if stillUsed s d es then some { s with invs := s.invs.set i { x with dropped := ins x.dropped d es } } else some (ack s)

/-- R382. -/
def execTlbinvTargetDrop (i : Nat) (die : Nat) (s : State) : Out := .next ((tlbinvTargetDropEv i die s).getD s)

/-! ### Page walks (R380) -/

/-- A miss waits for a walk of this context and 64 KiB page. -/
def Walk.same (w : Walk) (ctx va : Nat) : Bool := w.ctx == ctx && w.va / 2 ^ 16 == va / 2 ^ 16

/-- A last-level miss takes one of 256 walkers, unless a walk of the same context and page is in progress: the oldest of those that
wait for a walker, or a new one where none waits. -/
def pageWalkStartEv (d ctx va : Nat) (s : State) : Option State :=
  let x := s.die d
  let walked := (tlbLookup s none d ctx va).isSome || x.walks.any (fun w => w.same ctx va)
  match x.misses with
  | [] =>
    if va ≥ 2 ^ 51 ∨ ctx ≥ 256 ∨ walked ∨ x.walks.length ≥ 256 then none
    else some (s.modDie d (fun x => { x with walks := x.walks ++ [⟨ctx, va⟩] }))
  | w :: rest =>
    if w ≠ ⟨ctx, va⟩ then none
    else if walked then some (s.modDie d (fun x => { x with misses := rest }))
    else if x.walks.length ≥ 256 then none
    else some (s.modDie d (fun x => { x with walks := x.walks ++ [w], misses := rest }))

/-- R380. -/
def execPageWalkStart (die : Nat) (ctx : Nat) (va : Nat) (s : State) : Out := .next ((pageWalkStartEv die ctx va s).getD s)

/-- A walk completes: its leaf enters the last-level TLB, and every waiting miss within its page is served; a fault is held nowhere
(R379). -/
def pageWalkCompleteEv (d i : Nat) (s : State) : Option State :=
  match (s.die d).walks[i]? with
  | none => none
  | some w => match walkFill s none d w.ctx w.va with
    | (.wait, _) => none
    | (r, s) =>
      let served := fun (m : Walk) => match r with
        | .ok e => e.hits m.ctx m.va
        | _ => false
      some (s.modDie d (fun x => { x with walks := x.walks.eraseIdx i, misses := x.misses.filter (fun m => !served m) }))

/-- R380. -/
def execPageWalkComplete (die : Nat) (i : Nat) (s : State) : Out := .next ((pageWalkCompleteEv die i s).getD s)

/-! ### The context save area (R412 to R416) -/

/-- n bytes of free values. -/
def freeBytes (n : Nat) (s : State) : List Byte × State :=
  ((List.range n).map (fun i => (Config.freeWord (s.free + i / 8)).extractLsb' (8 * (i % 8)) 8), { s with free := s.free + n / 8 + 1 })

/-- n bytes: those given, then zeros. -/
def padBytes (n : Nat) (bs : List Byte) : List Byte := bs.take n ++ List.replicate (n - bs.length) 0

/-- Words in n bytes, then zeros. -/
def packWords (n : Nat) (ws : List Word) : List Byte := padBytes n (ws.flatMap (fun w => leBytes 8 w.toNat))

/-- Values packed in fields of 8 bits, the first lowest. -/
def packed (xs : List Nat) : Word := BitVec.ofNat 64 (xs.foldr (fun x a => x % 256 + 256 * a) 0)

/-- The range of lane groups that a crew holds. -/
def heldRange (s : State) (k : Nat) : Share :=
  let js := (List.range 8).filter (holds s k)
  match js, js.reverse with
  | b :: _, e :: _ => ⟨b, e + 1 - b⟩
  | _, _ => ⟨0, 0⟩

/-- Bytes of the area (R416). -/
def areaBytes (q gh c : Nat) : Nat := 24576 + 2176 * q + 18432 * gh * (1 + c)

/-- Bytes of the tile image of n tiles. -/
def tileBytes (n : Nat) : Nat := 64 + 67584 * n

/-- The crew's storage class, as the area gives it.
DEDUCED, log entry 50. -/
def Crew.cls (c : Crew) : Nat := c.asked

/-- The header (R415). -/
def areaHeader (s : State) (k : Nat) : List Byte :=
  let c := s.crew k
  let core := s.core (crewCore k)
  let h := heldRange s k
  leBytes 4 1 ++ leBytes 4 (areaBytes core.q h.g c.cls) ++ leBytes 8 c.ctx ++ leBytes 8 (placeWord s k).toNat
    ++ leBytes 8 c.node.toNat ++ leBytes 8 c.wid.toNat
    ++ [h.b, h.g, c.cls, core.s, core.q, core.c].map (BitVec.ofNat 8) ++ List.replicate 18 0

/-- The trap registers in the order of R403 and R415. -/
def TrapRegs.words (t : TrapRegs) : List Word :=
  [t.cause, t.cinfo, t.tval, t.epca, t.epcx, t.qstate, t.qsx, t.cause2, BitVec.ofNat 64 t.vstart]

def areaTrap (t : TrapRegs) : List Byte := packWords 192 t.words

/-- A word of a window's state (R287). -/
def Window.word (x : Window) (i : Nat) : Word :=
  if i = 0 then x.base
  else if i = 1 then BitVec.ofNat 64 (x.len + x.sub * 2 ^ 48 + flag x.bsub * 2 ^ 54 + flag x.bound * 2 ^ 55)
  else x.seen

/-- A counter: as ccget gives it (R249), then in bits 40 and 48 to 55 the error bit and the cause of its open batch. -/
def Counter.saved (c : Counter) : Word :=
  c.word + BitVec.ofNat 64 (flag c.batch.fail.isSome * 2 ^ 40 + (c.batch.fail.getD 0) % 256 * 2 ^ 48)

/-- vtype and a lane share. -/
def shapeWord (t : VType) (h : Share) : Word := packed [t.wc, t.grp, t.cls, h.b, h.g]

/-- What an area holds of a sequencer: registers 1 to 31, their poison marks, the depth of its loop stack and six levels of it,
innermost first (start, end, count and index), vl, and vtype with the lane share. -/
def Seqr.saved (q : Seqr) : List Word :=
  let regs := (List.range 32).drop 1
  regs.map (fun r => (q.reg r).v)
    ++ [BitVec.ofNat 64 ((regs.map (fun r => flag (q.reg r).p * 2 ^ r)).foldl (· + ·) 0), BitVec.ofNat 64 q.loops.length]
    ++ (List.range 6).flatMap (fun i => match q.loops[i]? with
      | some l => [l.start, l.stop, BitVec.ofNat 64 (l.count + l.index * 2 ^ 32)]
      | none => [0, 0, 0])
    ++ [BitVec.ofNat 64 q.vl, shapeWord q.vtype q.share]

/-- The access sequencer's part of an area (R415): after its registers, sys.alen, lambda, cc0 to cc15, the windows, sys.cfail, chain and
node registers, mmag progress, barrier arrival, sys.tsel, sys.estep, and the state of the follow-on slot. -/
def Crew.savedA (c : Crew) (now : Share) : List Word :=
  c.a.saved
    ++ [BitVec.ofNat 64 c.alen, BitVec.ofNat 64 c.slip]
    ++ (List.range 16).map (fun i => (c.counter i).saved)
    ++ (List.range 16).flatMap (fun w => (List.range 3).map (get {} c.win w).word)
    ++ [c.cfail, BitVec.ofNat 64 (flag c.chain.bound + flag c.chain.fin * 2), c.chain.hwm, c.chain.pos, c.hwm, c.narg,
        packed [c.lev, c.cap, now.b, now.g],
        match c.gang with
        | some g => BitVec.ofNat 64 (g.gstep + 1 + g.cause % 256 * 2 ^ 32)
        | none => 0,
        BitVec.ofNat 64 ((c.arrived.map (· + 1)).getD 0)]
    ++ (List.range 6).map (fun l => BitVec.ofNat 64 (get 0 c.bars l))
    ++ [c.tsel, BitVec.ofNat 64 c.estep,
        packed [flag (c.follow == .awaiting), flag c.landed.isSome, c.landed.getD 0]]

/-- The record of a VIQ entry (R415): PC; vl and progress index; vtype, lane share and flags; partial value; its captured x values; their
poison marks. -/
def VEntry.saved (e : VEntry) : List Word :=
  [e.pc, BitVec.ofNat 64 (e.vl + e.prog * 2 ^ 32),
   packed [e.vt.wc, e.vt.grp, e.vt.cls, e.sh.b, e.sh.g, 1 + 2 * flag e.issued + 4 * flag e.bank], e.part]
    ++ (List.range 3).map (fun i => ((e.xs[i]?).map (·.2.v)).getD 0)
    ++ [packed ((List.range 3).map (fun i => flag (((e.xs[i]?).map (·.2.p)).getD false)))]

/-- The entries of cq and bq: value, and kind: 1 a scalar, 2 a length token. -/
def Crew.savedQ (c : Crew) : List Byte :=
  packWords 256 (c.cq.flatMap (fun e => [e.v, if e.isLen then 2 else 1])) ++ packWords 256 (c.bq.flatMap (fun v => [v, 1]))

/-- Tokens of the load, store and index queues of a crew in the order in which their slots are saved. -/
def Crew.tokens (c : Crew) : List Tok := c.lq.flatMap (·.2) ++ c.sq.flatMap (·.2) ++ c.iq

/-- The data that a token's slots of 256 bytes hold. -/
def Tok.image (t : Tok) : List Byte :=
  (List.range (t.groups - t.freed)).flatMap (fun g =>
    padBytes (256 * t.spg) (((t.elems.drop ((t.freed + g) * t.gsz)).take t.gsz).flatMap (fun e => leBytes (2 ^ t.wc) e.v.toNat)))

/-- Keys of the bytes of v0 to v63 in a range of lane groups, of w bytes a lane, in order. -/
def regKeys (h : Share) (w : Nat) : List Nat :=
  (List.range 64).flatMap (fun r => (List.range (8 * h.g)).flatMap (fun l => (List.range w).map (fun b => (64 * r + 8 * h.b + l) * 128 + b)))

/-- What a sparse map holds at rising keys. -/
def pickAll : SMap VByte → List Nat → List VByte
  | _, [] => []
  | m, k :: r =>
    let m := m.dropWhile (fun e => decide (e.1 < k))
    (match m with
      | e :: _ => if e.1 = k then e.2 else {}
      | [] => {}) :: pickAll m r

/-- Marks in bits, the first lowest. -/
def markBytes : Nat → List VByte → List Byte
  | 0, _ => []
  | n + 1, bs =>
    BitVec.ofNat 8 ((List.range 8).foldl (fun a i => a + flag ((bs[i]?.map (·.p)).getD false) * 2 ^ i) 0) :: markBytes n (bs.drop 8)

/-- The registers of the held groups, and their poison marks (R415, R420). -/
def areaRegs (m : SMap VByte) (h : Share) (c : Nat) : List Byte :=
  let bs := pickAll m (regKeys h (32 * (1 + c)))
  bs.map (·.b) ++ markBytes (bs.length / 8) bs

/-- m0 to m7, 2 KiB each. -/
def areaMasks (c : Crew) : List Byte :=
  (List.range 8).flatMap (fun m =>
    let v : BitVec 16384 := get 0 c.masks m
    (List.range 2048).map (fun i => v.extractLsb' (8 * i) 8))

/-- The enabled tiles of a crew slot. -/
def crewTiles (s : State) (k : Nat) : List Nat :=
  (List.range 4).filter (fun t =>
    let x := get {} (s.core (crewCore k)).tiles t
    x.en && x.slot == crewSlot k)

/-- The tile image (R416). -/
def tileImage (s : State) (k : Nat) : List Byte :=
  let ts := crewTiles s k
  let tile := fun (t : Nat) => get {} (s.core (crewCore k)).tiles t
  let preds := (List.range 4).flatMap (fun t =>
    if ts.contains t then [BitVec.ofNat 8 (tile t).nr, BitVec.ofNat 8 (tile t).nc] else [0, 0])
  let head : List Byte := [BitVec.ofNat 8 ((ts.map (2 ^ ·)).foldl (· + ·) 0)] ++ List.replicate 7 0 ++ preds ++ List.replicate 48 0
  head ++ ts.flatMap (fun t =>
    ((List.range 16384).flatMap (fun e => leBytes 4 (get {} (tile t).elems e).v.toNat))
      ++ (List.range 2048).map (fun i => BitVec.ofNat 8 (((List.range 8).map (fun b =>
        flag (get {} (tile t).elems (8 * i + b)).p * 2 ^ b)).foldl (· + ·) 0)))

/-- Where the area and the tile image of a job lie. -/
def jobRange (s : State) (j : SaveJob) (acc : Acc) (ga : Word) (n : Nat) : Chk (List Nat) × State :=
  engineRange s (engineId j.seq) j.pdie none j.ctx acc ga.toNat n

/-- An address for a save or a load: aligned, in space 0x0 or 0x1, and translatable (R412 to R414, reason 6). -/
def saveAddr (s : State) (acc : Acc) (ga : Word) (align n : Nat) : Chk Unit × State :=
  if ga.toNat % align ≠ 0 ∨ ga.toNat / 2 ^ 60 > 1 then (.fault (crstate 6), s)
  else match enginePages (engineLook s.myDie none s.myCrew.ctx acc) (n / 2 ^ 16 + 2) ga.toNat n s with
    | (.ok _, s) => (.ok (), s)
    | (.fault _, s) => (.fault (crstate 6), s)
    | (.wait, s) => (.wait, s)

/-- The cause of a save or a load whose area can no longer be translated (R414, reason 6); an unreachable die keeps its own.
DEDUCED, log entry 51. -/
def areaCause (t : Trap) : Nat := if t.code = Cause.darkpath then Cause.darkpath else Cause.crstate

/-- crsave and crload: check the target and the addresses, and join the batch. -/
def saveOrLoad (i : Instr) (load : Bool) (f : T32e) (s : State) : Out :=
  let t := bitOf f.imm.toNat 0
  privileged s (useRegs i (if t then [f.a.toNat, f.b.toNat] else [f.a.toNat]) [] s (fun vs =>
    let k := targetOf s s.me
    let area := vs.getD 0 0
    let tiles := vs.getD 1 0
    let busy := s.saves.any (fun e => e.1 == k)
    let allowed := if load then (s.crew k).state == 0 && !busy else (s.crew k).parked && !busy
    if !allowed then raise (crstate 1) s
    else if (s.crew k).latch.isSome then raise (crstate 7) s
    else
      let acc : Acc := if load then .read else .write
      let n := if load then 64 else areaBytes (s.core (crewCore k)).q (heldRange s k).g (s.crew k).cls
      let nt := if load then 64 else tileBytes (crewTiles s k).length
      match (saveAddr s acc area 4096 n).1, (if t then (saveAddr s acc tiles 64 nt).1 else .ok ()) with
      | .fault e, _ => raise e s
      | _, .fault e => raise e s
      | .wait, _ => waitAt i (s.carry (saveAddr s acc area 4096 n).2)
      | _, .wait => waitAt i (s.carry (saveAddr s acc tiles 64 nt).2)
      | .ok _, .ok _ =>
        if (s.myCrew.counter f.cc.toNat).blocked then waitAt i s
        else match s.joinBatch s.me f.cc.toNat with
          | (m, s) =>
            let job : SaveJob := {
              load := load, area := area, tiles := if t then some tiles else none, ctx := s.myCrew.ctx, pdie := s.myDie,
              member := some m, seq := s.jseq }
            done { s with saves := ins s.saves k job, jseq := s.jseq + 1 }))

/-- crsave (R412, R413). -/
def execCrsave (f : T32e) (s : State) : Out := saveOrLoad (.crsave f) false f s

/-- crload (R412, R414). -/
def execCrload (f : T32e) (s : State) : Out := saveOrLoad (.crload f) true f s

/-- A save or a load ends. -/
def endSave (k : Nat) (j : SaveJob) (fail : Option Nat) (s : State) : State :=
  (({ s with saves := del s.saves k }).leaveAll (engineId j.seq)).engineDone j.member fail

/-- Bytes of lane parts in a range of lane groups. -/
def inGroups (h : Share) (key : Nat) : Bool := h.has (key / 128 % 64 / 8)

/-- No division of crew k is in flight (R466). -/
def divided (s : State) (k : Nat) : Bool :=
  let c := s.core (crewCore k)
  (c.diva.run.toList ++ c.diva.wait ++ c.divx.run.toList ++ c.divx.wait).all (fun d => d.crew != k)

/-- The area of crew k, with these queue descriptors (R415). Inside a part the order is that of the list there, in words of 8 bytes;
where R415 gives a field no place, the model chooses one.
DESIGN CHOICE, log entry 8. -/
def areaOf (s : State) (k : Nat) (desc : List Byte) : List Byte :=
  let c := s.crew k
  let core := s.core (crewCore k)
  areaHeader s k ++ areaTrap c.trap ++ packWords 2048 (c.savedA (s.shareOf k)) ++ packWords 512 c.x.saved
    ++ padBytes 1024 (c.viq.flatMap (fun e => packWords 64 e.saved)) ++ c.savedQ ++ List.replicate 3840 0 ++ areaMasks c
    ++ padBytes (2048 * core.q) (c.tokens.flatMap Tok.image) ++ desc ++ areaRegs core.vregs (heldRange s k) c.cls

/-- The queue descriptors of an area: those that a loaded crew came with, else free values, since R415 gives their fields no places.
DESIGN CHOICE, log entry 8. -/
def areaDesc (s : State) (k : Nat) : List Byte × State :=
  let n := 128 * (s.core (crewCore k)).q
  if (s.crew k).state = 5 ∧ (s.crew k).desc.length = n then ((s.crew k).desc, s) else freeBytes n s

/-- The save of crew k is written and its slot freed; its tiles are disabled where it saves them (R413, R415). -/
def contextSaveWriteEv (k : Nat) (s : State) : Option State :=
  match s.saves.find? (fun e => e.1 == k) with
  | none => none
  | some (_, j) =>
    if j.load ∨ !quiet s k ∨ !divided s k then none
    else
      let c := s.crew k
      let core := s.core (crewCore k)
      let h := heldRange s k
      let n := areaBytes core.q h.g c.cls
      let ts := crewTiles s k
      match jobRange s j .write j.area n with
      | (.wait, t) => s.held t
      | (.fault t, s) => some (endSave k j (some (areaCause t)) s)
      | (.ok ps, s1) =>
        let img : Chk (List Nat) × State := match j.tiles with
          | none => (.ok [], s1)
          | some t => jobRange s1 j .write t (tileBytes ts.length)
        match img with
        | (.wait, t) => s.held t
        | (.fault t, s) => some (endSave k j (some (areaCause t)) s)
        | (.ok qs, s) => match areaDesc s k with
          | (desc, s) =>
            let mark := fun (b : Byte) => (⟨b, false⟩ : VByte)
            let bytes := areaOf s k desc
            let image := if j.tiles.isSome then tileImage s k else []
            let s := (s.perform (ps.zip (bytes.map mark))).perform (qs.zip (image.map mark))
            let saved : SavedCrew := { key := ps.headD 0, bytes := desc, crew := c }
            let s : State := { s.modCore (crewCore k) (fun c => c.wake h) with images := saved :: s.images }
            some (endSave k j none (freeSlot k (if j.tiles.isSome then freeTiles k s else s)))

/-- R413. -/
def execContextSaveWrite (k : Nat) (s : State) : Out := .next ((contextSaveWriteEv k s).getD s)

/-- A number of n bytes at an offset of a list of bytes. -/
def areaNum (bs : List VByte) (o n : Nat) : Nat := bytesNum ((bs.drop o).take n)

/-- Header fields of an area: held base and count, c, S, Q, C. -/
def areaField (bs : List VByte) (i : Nat) : Nat := areaNum bs (40 + i) 1

/-- Reason 2: the format, the size, and the reserved bits and the zeros of the header.
DEDUCED, log entry 51. -/
def areaBad (bs : List VByte) : Bool :=
  areaNum bs 0 4 != 1 || areaNum bs 4 4 != areaBytes (areaField bs 4) (areaField bs 1) (areaField bs 2)
    || decide (areaNum bs 8 8 ≥ 256) || areaNum bs 46 18 != 0 || decide (areaNum bs 24 8 ≥ 2 ^ 19)
    || bitsOf (areaNum bs 16 8) 23 9 != 0 || bitsOf (areaNum bs 16 8) 40 24 != 0

/-- Reason 2 behind the header: the zeros, and the reserved bits of the trap registers (R403).
DEDUCED, log entry 51. -/
def areaDirty (bs : List VByte) : Bool :=
  let cause := fun (w : Nat) => bitOf w 15 || bitOf w 31 || decide (w ≥ 2 ^ 39)
  areaNum bs 0x88 120 != 0 || areaNum bs 0x1100 3840 != 0 || cause (areaNum bs 0x40 8) || cause (areaNum bs 0x78 8)
    || decide (areaNum bs 0x48 8 ≥ 2 ^ 34) || bitOf (areaNum bs 0x70 8) 55 || decide (areaNum bs 0x80 8 ≥ 2 ^ 15)

/-- Checks of R414 against the core of the target slot: the reason. -/
def loadReason (s : State) (k : Nat) (bs : List VByte) (image : List VByte) : Option Nat :=
  let n := crewCore k
  let core := s.core n
  let others := (coreCrews n).any (occupied { s with saves := del s.saves k })
  let held : Share := ⟨areaField bs 0, areaField bs 1⟩
  let saved := (List.range 4).filter (fun t => bitOf (areaNum image 0 1) t)
  if areaBad bs || areaDirty bs then some 2
  else if others ∧ (core.s ≠ areaField bs 3 ∨ core.q ≠ areaField bs 4 ∨ core.c ≠ areaField bs 5) then some 3
  else if held.b + held.g > 8 ∨ (List.range held.g).any (fun i => (coreCrews n).any (fun x => holds s x (held.b + i))) then some 4
  else if saved.any (fun t => (get {} core.tiles t).en && (get {} core.tiles t).slot != crewSlot k) then some 5
  else none

/-- The saved crew that the header and the queue descriptors of an area agree with, looked for first where it was saved; without one
its queues are empty.
DESIGN CHOICE, log entry 8. -/
def matchImage (s : State) (key : Nat) (bs : List VByte) (desc : List Byte) : Option SavedCrew :=
  let l := s.images.filter (fun x => x.bytes == desc && x.crew.node.toNat == areaNum bs 24 8 && x.crew.wid.toNat == areaNum bs 32 8
    && x.crew.ctx == areaNum bs 8 8)
  match l.find? (fun x => x.key == key) with
  | some x => some x
  | none => l.head?

/-- Word i of the part of an area at an offset, as a number, and a field of 8 bits of it. -/
def areaWord (bs : List VByte) (o i : Nat) : Nat := areaNum bs (o + 8 * i) 8
def areaByte (bs : List VByte) (o i j : Nat) : Nat := areaNum bs (o + 8 * i + j) 1

def areaShape (bs : List VByte) (o i : Nat) : VType := ⟨areaByte bs o i 0, areaByte bs o i 1, areaByte bs o i 2⟩
def areaShare (bs : List VByte) (o i : Nat) : Share := ⟨areaByte bs o i 3, areaByte bs o i 4⟩

/-- A sequencer as an area at an offset holds it. -/
def Seqr.loaded (q : Seqr) (bs : List VByte) (o : Nat) : Seqr :=
  { q with
    regs := ((List.range 32).drop 1).foldl (fun m r =>
      put {} m r ⟨BitVec.ofNat 64 (areaWord bs o (r - 1)), bitOf (areaWord bs o 31) r⟩) []
    loops := (List.range (min 6 (areaWord bs o 32))).map (fun i =>
      let w := fun (j : Nat) => areaWord bs o (33 + 3 * i + j)
      ⟨BitVec.ofNat 64 (w 0), BitVec.ofNat 64 (w 1), bitsOf (w 2) 0 32, bitsOf (w 2) 32 32⟩)
    vl := areaWord bs o 51, vtype := areaShape bs o 52, share := areaShare bs o 52, run := .halted }

/-- A counter as an area holds it: its batches are complete. -/
def Counter.loaded (c : Counter) (w : Nat) : Counter :=
  { joined := bitsOf w 0 16, batch := { c.batch with pending := 0, fail := if bitOf w 40 then some (bitsOf w 48 8) else none },
    closed := [], err := bitOf w 24, ecause := bitsOf w 32 8 }

/-- A window as an area holds it, with no block cached (R287). -/
def windowLoaded (bs : List VByte) (i : Nat) : Window :=
  let w := fun (j : Nat) => areaWord bs 0x100 (71 + 3 * i + j)
  { base := BitVec.ofNat 64 (w 0), len := bitsOf (w 1) 0 48, sub := bitsOf (w 1) 48 6, bsub := bitOf (w 1) 54, bound := bitOf (w 1) 55,
    seen := BitVec.ofNat 64 (w 2) }

/-- A VIQ entry over what its instruction is, as record i of an area holds it. -/
def VEntry.loaded (e : VEntry) (bs : List VByte) (i : Nat) : VEntry :=
  let o := 0xB00 + 64 * i
  { e with
    pc := BitVec.ofNat 64 (areaWord bs o 0), vl := bitsOf (areaWord bs o 1) 0 32, prog := bitsOf (areaWord bs o 1) 32 32,
    vt := areaShape bs o 2, sh := areaShare bs o 2, issued := bitOf (areaByte bs o 2 5) 1, bank := bitOf (areaByte bs o 2 5) 2,
    part := BitVec.ofNat 64 (areaWord bs o 3),
    xs := ((List.range e.xs.length).zip e.xs).map (fun x =>
      (x.2.1, ⟨BitVec.ofNat 64 (areaWord bs o (4 + x.1)), areaByte bs o 7 x.1 != 0⟩)) }

/-- The instruction of a saved VIQ entry: that of the entry saved, else the one that memory holds at its PC.
DESIGN CHOICE, log entry 8. -/
def entryAt (s : State) (k : Nat) (pc : Word) (was : Option VEntry) : Option VEntry :=
  match was.filter (fun e => e.pc == pc) with
  | some e => some { e with mseq := s.jseq }
  | none => match (fetchLine s k pc).1 with
    | some (.ok line) => match decodeLine line pc with
      | .ok (d, _) => (vform d.instr).map (fun f => {
          instr := d.instr, pc := pc, st := d.st, join := d.c, bad := false, vl := 0, vt := {}, sh := {},
          xs := f.captures.map (·, {}), rnull := 0, mseq := s.jseq })
      | .error _ => none
    | _ => none

/-- The VIQ of an area. -/
def areaViq (s : State) (k : Nat) (bs : List VByte) (was : List VEntry) : List VEntry :=
  ((List.range 16).filter (fun i => bitOf (areaByte bs (0xB00 + 64 * i) 2 5) 0)).filterMap (fun i =>
    (entryAt s k (BitVec.ofNat 64 (areaWord bs (0xB00 + 64 * i) 0)) was[i]?).map (fun e => e.loaded bs i))

/-- The entries of cq and bq at an offset of an area: value and kind. -/
def areaQueue (bs : List VByte) (o : Nat) : List (Word × Nat) :=
  ((List.range 16).map (fun i => (BitVec.ofNat 64 (areaWord bs o (2 * i)), areaWord bs o (2 * i + 1)))).filter (fun e => e.2 != 0)

/-- A token whose slots hold these bytes. -/
def Tok.loaded (t : Tok) (bs : List VByte) : Tok :=
  let n := t.freed * t.gsz
  { t with elems := ((List.range t.elems.length).zip t.elems).map (fun x =>
      if x.1 < n then x.2
      else { x.2 with v := BitVec.ofNat 64 (areaNum bs ((x.1 - n) / t.gsz * (256 * t.spg) + (x.1 - n) % t.gsz * 2 ^ t.wc) (2 ^ t.wc)) }) }

/-- Tokens in the order of their slots, whose data these bytes are. -/
def loadToks : List Tok → List VByte → List Tok × List VByte
  | [], bs => ([], bs)
  | t :: r, bs => match loadToks r (bs.drop (256 * t.slots)) with
    | (l, rest) => (t.loaded bs :: l, rest)

def loadQueues : SMap (List Tok) → List VByte → SMap (List Tok) × List VByte
  | [], bs => ([], bs)
  | (q, l) :: r, bs => match loadToks l bs with
    | (l, bs) => match loadQueues r bs with
      | (m, bs) => ((q, l) :: m, bs)

/-- A crew with the data of an area's queue slots. -/
def Crew.loadSlots (c : Crew) (bs : List VByte) : Crew :=
  match loadQueues c.lq bs with
  | (lq, bs) => match loadQueues c.sq bs with
    | (sq, bs) => { c with lq := lq, sq := sq, iq := (loadToks c.iq bs).1 }

/-- The crew that an area states, over the rest of the crew that was saved. One that had trapped is still stopped by its trap
(R358). -/
def areaCrew (k : Nat) (bs : List VByte) (c : Crew) : Crew :=
  let w := fun (i : Nat) => BitVec.ofNat 64 (areaNum bs (0x40 + 8 * i) 8)
  let a := fun (i : Nat) => areaWord bs 0x100 i
  let masks := (List.range 8).foldl (fun (m : SMap (BitVec 16384)) i =>
    put 0 m i (BitVec.ofNat 16384 (areaNum bs (0x2000 + 2048 * i) 2048))) []
  let pc := w 3
  { c with
    state := 5, ctx := areaNum bs 8 8, node := BitVec.ofNat 64 (areaNum bs 24 8), wid := BitVec.ofNat 64 (areaNum bs 32 8),
    asked := areaField bs 2, pshare := ⟨bitsOf (areaNum bs 16 8) 16 3, bitsOf (areaNum bs 16 8) 19 4⟩,
    masks := masks, latch := none,
    home := c.home <|> some (8 * crewChip k + bitsOf (areaNum bs 24 8) 16 3, areaNum bs 24 2),
    trap := { cause := w 0, cinfo := w 1, tval := w 2, epca := pc, epcx := w 4, qstate := w 5, qsx := w 6, cause2 := w 7,
              vstart := (w 8).toNat },
    a := c.a.loaded bs 0x100, x := c.x.loaded bs 0x900,
    alen := a 53, slip := a 54,
    cc := (List.range 16).foldl (fun m i => put {} m i ((c.counter i).loaded (a (55 + i)))) [],
    win := (List.range 16).foldl (fun m i => put {} m i (windowLoaded bs i)) [],
    cfail := BitVec.ofNat 64 (a 119), chain := ⟨bitOf (a 120) 0, bitOf (a 120) 1, BitVec.ofNat 64 (a 121), BitVec.ofNat 64 (a 122)⟩,
    hwm := BitVec.ofNat 64 (a 123), narg := BitVec.ofNat 64 (a 124), lev := areaByte bs 0x100 125 0, cap := areaByte bs 0x100 125 1,
    gang := if a 126 = 0 then none
      else some { (c.gang.getD { crew := k, instr := .exit, args := [], nr := 128, nc := 128, member := none, pc := pc }) with
        crew := k, gstep := bitsOf (a 126) 0 32 - 1, cause := bitsOf (a 126) 32 8 },
    arrived := if a 127 = 0 then none else some (a 127 - 1),
    bars := (List.range 6).foldl (fun m i => put 0 m i (a (128 + i))) [],
    tsel := BitVec.ofNat 64 (a 134), estep := a 135,
    follow := if areaByte bs 0x100 136 0 = 0 then .empty else .awaiting,
    landed := if areaByte bs 0x100 136 1 = 0 then none else some (areaByte bs 0x100 136 2),
    cq := (areaQueue bs 0xF00).map (fun e => ⟨e.2 == 2, e.1⟩), bq := (areaQueue bs 0x1000).map (·.1) }

/-- Fill the tiles of an image for a slot (R416). -/
def loadTiles (k : Nat) (image : List VByte) (s : State) : State :=
  let saved := (List.range 4).filter (fun t => bitOf (areaNum image 0 1) t)
  ((List.range saved.length).zip saved).foldl (fun s e =>
    let o := 64 + 67584 * e.1
    let data := image.drop o
    let elems := ((List.range 16384).zip (wordsOf4 data 16384)).foldl (fun (m : SMap TElem) x =>
      put {} m x.1 ⟨x.2, bitOf (areaNum data (65536 + x.1 / 8) 1) (x.1 % 8)⟩) []
    s.modTile (crewCore k) e.2 (fun _ =>
      { elems := elems, en := true, slot := crewSlot k, nr := areaNum image (8 + 2 * e.2) 1, nc := areaNum image (9 + 2 * e.2) 1 })) s
where
  /-- n 32-bit words of a list of bytes. -/
  wordsOf4 (bs : List VByte) : Nat → List (BitVec 32)
    | 0 => []
    | n + 1 => BitVec.ofNat 32 (bytesNum (bs.take 4)) :: wordsOf4 (bs.drop 4) n

/-- The bytes of v0 to v63 at the end of an area, over those of the other lane groups (R415, R420). -/
def loadRegs (m : SMap VByte) (h : Share) (c : Nat) (bs : List VByte) : SMap VByte :=
  let keys := regKeys h (32 * (1 + c))
  let marks := (bs.drop keys.length).flatMap (fun b => (List.range 8).map (fun i => bitOf b.b.toNat i))
  let new := (keys.zip ((bs.zip marks).map (fun e => (⟨e.1.b, e.2⟩ : VByte)))).filter (fun e => e.2 != {})
  (m.filter (fun e => !inGroups h e.1)).foldl (fun m e => ins m e.1 e.2) new

/-- The crew of an area is placed in its slot (R414). -/
def placeLoaded (k : Nat) (key : Nat) (bs image : List VByte) (s : State) : State :=
  let n := crewCore k
  let q := areaField bs 4
  let others := (coreCrews n).any (occupied { s with saves := del s.saves k })
  let s := if others then s else ownCore n (areaNum bs 8 8) (areaField bs 3) q (areaField bs 5) s
  let desc := ((bs.drop (0x6000 + 2048 * q)).take (128 * q)).map (·.b)
  let held : Share := ⟨areaField bs 0, areaField bs 1⟩
  let was := matchImage s key bs desc
  let s := match was with
    | some x => { s with images := s.images.map (fun (y : SavedCrew) =>
        if y.key = x.key ∧ y.bytes = x.bytes then { y with loaded := true } else y) }
    | none => s
  let base := (was.map (·.crew)).getD {}
  let c := (areaCrew k bs base).loadSlots (bs.drop 0x6000)
  let s := s.setCrew k c
  let s := (s.setCrew k { c with viq := areaViq s k bs base.viq, desc := desc }).modCore n (fun y => { y.wake held with
    lpart := put {} y.lpart (crewSlot k) ⟨areaByte bs 0x100 125 2, areaByte bs 0x100 125 3⟩,
    node := if others then y.node else c.home,
    vregs := loadRegs y.vregs held (areaField bs 2) (bs.drop (0x6000 + 2176 * q)) })
  loadTiles k image s

/-- The load into a slot is checked and completes (R414). -/
def contextLoadCompleteEv (k : Nat) (s : State) : Option State :=
  match s.saves.find? (fun e => e.1 == k) with
  | none => none
  | some (_, j) =>
    if !j.load then none
    else match jobRange s j .read j.area 64 with
      | (.wait, t) => s.held t
      | (.fault t, s) => some (endSave k j (some (areaCause t)) s)
      | (.ok hp, s0) => match s0.readBytes hp with
        | (hd, s0) =>
          let n := if areaBad hd then 64 else areaNum hd 4 4
          match jobRange s0 j .read j.area n with
          | (.wait, t) => s.held t
          | (.fault t, s) => some (endSave k j (some (areaCause t)) s)
          | (.ok ps, s1) =>
            let img : Chk (List Nat) × State := match j.tiles with
              | none => (.ok [], s1)
              | some t => match jobRange s1 j .read t 64 with
                | (.ok qs, s1) => match s1.readBytes qs with
                  | (ib, s1) => jobRange s1 j .read t (tileBytes ((List.range 4).filter (fun i => bitOf (areaNum ib 0 1) i)).length)
                | x => x
            match img with
            | (.wait, t) => s.held t
            | (.fault t, s) => some (endSave k j (some (areaCause t)) s)
            | (.ok qs, s) =>
              let fresh := s.anyBad (ps ++ qs)
              match s.readBytes ps with
              | (bs, s) => match s.readBytes qs with
                | (image, s) =>
                  if (bs ++ image).any (·.p) then some (endSave k j (some (if fresh then Cause.ue else Cause.poison)) s)
                  else match loadReason s k bs image with
                    | some _ => some (endSave k j (some Cause.crstate) s)
                    | none => some (endSave k j none (placeLoaded k (ps.headD 0) bs image s))

/-- R414. -/
def execContextLoadComplete (k : Nat) (s : State) : Out := .next ((contextLoadCompleteEv k s).getD s)

/-! ### Partition swap (R417) -/

/-- The cores of a partition on a die. -/
def partCores (s : State) (d p : Nat) : List Nat :=
  let e := partEntry s d p
  (List.range 64).filterMap (fun n => if wbit e (1 + 2 * (d % 8) + n / 32) then some (64 * d + n) else none)

/-- A core is halted. -/
def coreHalted (s : State) (n : Nat) : Bool :=
  let c := s.core n
  c.mq.isEmpty && c.mrun.isNone && c.jobs.isEmpty
    && (coreCrews n).all (fun k => (s.crew k).state == 0 || ((s.crew k).parked && batchesDone (s.crew k)))

/-- KiB of the image of a core. -/
def imageKib (c : Core) : Nat :=
  100 + 17 * c.q / 2 + 144 * (1 + c.cls) + 66 * ((List.range 4).filter (fun t => (get {} c.tiles t).en)).length

/-- KiB of shadow store in use on a die. -/
def shadowUsed (s : State) (d : Nat) : Nat :=
  (s.die d).shadow.foldl (fun a e => a + e.2.foldl (fun a x => a + x.kib) 0) 0

/-- The field st of sys.pswap. -/
def setSwapState (d st : Nat) (s : State) : State := s.setReg d 0x138 (putField (s.reg d 0x138) 6 3 st)

/-- A crew as an image holds it: without the record in its slot's latch, and without the cached blocks of its windows (R287). -/
def Crew.imaged (c : Crew) : Crew :=
  { c with latch := none, win := c.win.map (fun (e : Nat × Window) => (e.1, { e.2 with blocks := [] })) }

/-- The image of a core: all but the scratchpad and the core cache, whose dirty lines have been written back. -/
def coreImage (s : State) (n : Nat) : CoreImage :=
  { core := n, state := { s.core n with cache := [] }, crews := (coreCrews n).map (fun k => (k, (s.crew k).imaged)),
    kib := imageKib (s.core n) }

/-- The accesses of the crews of a core have gone on as far as they can, and their buffers are drained (R208, R398). -/
def drainCores : List Nat → State → Option State
  | [], s => some s
  | k :: r, s =>
    if !pushesDone s k || !(s.crew k).reads.isEmpty || !divided s k then none
    else match drainAll s k with
      | some s => drainCores r s
      | none => none

/-- Start the exchange of a partition, or refuse it.
DEDUCED, log entry 52. -/
def swapGo (d p : Nat) (s : State) : State :=
  if (s.die d).swap.isSome then s
  else
    let cores := partCores s d p
    let rsv := wfield (s.reg d 0x138) 10 6
    let need := (cores.map (fun n => imageKib (s.core n))).foldl (· + ·) 0
    if !cores.all (coreHalted s) then setSwapState d 3 s
    else if rsv = 0 then setSwapState d 5 s
    else if shadowUsed s d + need > 1024 * rsv then setSwapState d 4 s
    else setSwapState d 1 (s.modDie d (fun x => { x with swap := some p }))

/-- R417. -/
def execPswapGo (die : Nat) (p : Nat) (s : State) : Out := .next (swapGo die (p % 16) s)

/-- Discard the images held under a tag. -/
def swapClear (d p : Nat) (s : State) : State :=
  if (s.die d).swap.isSome then s else s.modDie d (fun x => { x with shadow := del x.shadow p })

/-- R417. -/
def execPswapClear (die : Nat) (p : Nat) (s : State) : Out := .next (swapClear die (p % 16) s)

/-- A core gives up its crews, tiles and registers once they are stored. -/
def emptyCore (n : Nat) (s : State) : State :=
  let s := (coreCrews n).foldl (fun s k => s.setCrew k { latch := (s.crew k).latch }) s
  s.modCore n (fun c => { c with lpart := [], tiles := [], vregs := [], cache := [], cls := 0, node := none })

/-- Restore the image of a core. -/
def restoreImage (s : State) (x : CoreImage) : State :=
  let s := x.crews.foldl (fun s e => s.setCrew e.1 { e.2 with latch := (s.crew e.1).latch }) s
  s.modCore x.core (fun c => { x.state with cache := [], l1 := c.l1, kinds := c.kinds, jobs := c.jobs })

/-- The exchange ends: the images of the partition's cores are held under its tag, and those held before are restored. -/
def pswapDoneEv (d : Nat) (s : State) : Option State :=
  match (s.die d).swap with
  | none => none
  | some p =>
    let cores := partCores s d p
    match drainCores (cores.flatMap coreCrews) s with
    | none => none
    | some s =>
      let now := cores.map (coreImage s)
      let before := get [] (s.die d).shadow p
      let s := cores.foldl (fun s n => emptyCore n s) s
      let s := before.foldl restoreImage s
      some (setSwapState d 2 (s.modDie d (fun x => { x with shadow := put [] x.shadow p now, swap := none })))

/-- R417. -/
def execPswapDone (die : Nat) (s : State) : Out := .next ((pswapDoneEv die s).getD s)

end Sys2Proof.Machine
end

