-- ==== Sys2Proof/Machine/Load.lean ====
section
/-!
DEFINITION. The load promise: lane groups at rest (R431), droops (R430), voltage and frequency islands (R432), the limiter
with fill and idle (R433 to R439), the PTP clock and telemetry (R440 to R443), and limits (R444).
-/
namespace Sys2Proof.Machine

/-- D0 of a chip. -/
def d0 (chip : Nat) : Nat := 8 * chip

/-- Saturating increment of a field of a register. -/
def bumpField (w : Word) (lo n : Nat) : Word := putField w lo n (min (wfield w lo n + 1) (2 ^ n - 1))

/-! ### Lane groups at rest (R431) -/

/-- An entry of the VIQ of a crew of the core that has issued uses the lane group. -/
def groupInUse (s : State) (core lg : Nat) : Bool :=
  (coreCrews core).any (fun k => (s.crew k).viq.any (fun e => e.issued && !e.fin && e.sh.has lg))

/-- The gated lane groups of a core: the free ones, and those at rest (R431). -/
def gatedMask (s : State) (core : Nat) : Nat := (s.core core).lgate ||| (255 - laneBusy s core)

/-- A lane group that no VIQ entry has used for a while is gated.
DEDUCED, log entry 59. -/
def laneGroupGateEv (core lg : Nat) (s : State) : Option State :=
  if lg ≥ 8 ∨ bitOf (s.core core).lgate lg ∨ groupInUse s core lg then none
  else some (s.modCore core (fun c => { c with lgate := c.lgate + 2 ^ lg }))

/-- R431. -/
def execLaneGroupGate (core : Nat) (lg : Nat) (s : State) : Out := .next ((laneGroupGateEv core lg s).getD s)

/-- The lane groups that the heads of the VIQs of a core wait for. -/
def wantedGroups (s : State) (core : Nat) : List Nat :=
  (coreCrews core).flatMap (fun k =>
    let c := s.crew k
    gatedFor s core (members (convoyOf (c.viq.drop c.flight.length))))

/-- A gated group that a VIQ head needs wakes. -/
def laneGroupWakeEv (core lg : Nat) (s : State) : Option State :=
  if (wantedGroups s core).contains lg then some (s.modCore core (fun c => c.wake ⟨lg, 1⟩)) else none

/-- R431. -/
def execLaneGroupWake (core : Nat) (lg : Nat) (s : State) : Out := .next ((laneGroupWakeEv core lg s).getD s)

/-! ### Droops (R430) -/

/-- Index of a signature in the droop table. -/
def droopIndex (h : Nat) : Nat := (h % 256) ^^^ (h / 256 % 256)

/-- Learn one signature. -/
def droopLearn (h : Nat) (t : SMap (Nat × Nat)) : SMap (Nat × Nat) :=
  match get (0, 0) t (droopIndex h) with
  | (tag, conf) =>
    if tag = h then put (0, 0) t (droopIndex h) (tag, min 3 (conf + 1))
    else if conf = 0 then put (0, 0) t (droopIndex h) (h, 1)
    else put (0, 0) t (droopIndex h) (tag, conf - 1)

/-- Cores of an island (R432). -/
def islandCores (die island : Nat) : List Nat := if island < 32 then [64 * die + 2 * island, 64 * die + 2 * island + 1] else []

/-- The droop detector fires for an island: it is counted, and each core of the island presents the signature of the window
before the current one.
DEDUCED, log entry 56. -/
def droopDetectEv (die island : Nat) (s : State) : Option State :=
  if island ≥ 40 then none
  else
    let r := s.reg die 0x141
    let s := s.setReg die 0x141 (bumpField r 16 32)
    some (if wbit r 0 then
      s.modDie die (fun x => { x with droop := (islandCores die island).foldl (fun t n => droopLearn (s.core n).sig t) x.droop })
      else s)

/-- R430. -/
def execDroopDetect (die : Nat) (island : Nat) (s : State) : Out := .next ((droopDetectEv die island s).getD s)

/-- A window ends with this signature: a matching tag of enough confidence throttles the core. -/
def windowEnd (core h : Nat) (s : State) : State :=
  let d := coreDie core
  let r := s.reg d 0x141
  let s := s.modCore core (fun c => { c with sig := h })
  match get (0, 0) (s.die d).droop (droopIndex h) with
  | (tag, conf) =>
    if wbit r 0 ∧ tag = h ∧ conf ≥ wfield r 12 2 ∧ wfield r 8 4 ≠ 0 then
      let s := if (s.core core).thrott = 0 then s.setReg d 0x141 (bumpField r 48 16) else s
      s.modCore core (fun c => { c with thrott := wfield r 8 4 })
    else s

/-- R430. -/
def execSignatureWindowEnd (core : Nat) (sig : Nat) (s : State) : Out := .next (windowEnd core (sig % 2 ^ 16) s)

/-- R430: the throttle of a core ends. -/
def execThrottleEnd (core : Nat) (s : State) : Out := .next (s.modCore core (fun c => { c with thrott := 0 }))

/-- Every entry of the droop table gets confidence 0. -/
def droopClear (die : Nat) (s : State) : State :=
  s.modDie die (fun x => { x with
    droop := (x.droop.map (fun (e : Nat × (Nat × Nat)) => (e.1, (e.2.1, 0)))).filter (fun e => e.2.1 != 0) })

/-- R430. -/
def execDroopTableClear (die : Nat) (s : State) : Out := .next (droopClear die s)

/-- A read of sys.droop: its value, and the state after it. clr reads as zero. -/
def readDroop (die : Nat) (s : State) : Word × State :=
  let r := s.reg die 0x141
  (r, s.setReg die 0x141 (putField r 16 48 0))

/-- R430. -/
def execDroopCounterRead (die : Nat) (s : State) : Out := .next (readDroop die s).2

/-- A write of sys.droop. -/
def writeDroop (die : Nat) (v : Word) (s : State) : State :=
  let s := s.setReg die 0x141 (putField (s.reg die 0x141) 0 14 (wfield v 0 14))
  if wbit v 14 then droopClear die s else s

/-! ### Voltage and frequency islands (R432) -/

/-- A write of sys.vf: ignored whole for island 39, or with a clock outside 16 to 64. While the change runs, the lower of the clock in
force and the new one is in force.
DEDUCED, log entry 77. -/
def vfWrite (die island : Nat) (v : Word) (s : State) : State :=
  let f := wfield v 0 7
  if island ≥ 39 ∨ f < 16 ∨ f > 64 then s
  else
    let r := s.reg die (0x150 + island)
    s.setReg die (0x150 + island) (putField (putField (putField r 0 7 f) 7 7 (min (wfield r 7 7) f)) 26 1 1)

/-- R432. -/
def execVfChangeRequest (die : Nat) (island : Nat) (v : Word) (s : State) : Out := .next (vfWrite die island v s)

/-- The change of an island completes at a voltage. -/
def vfChangeCompleteEv (die island mv : Nat) (s : State) : Option State :=
  let r := s.reg die (0x150 + island)
  if island ≥ 39 ∨ !wbit r 26 then none
  else some (s.setReg die (0x150 + island) (putField (putField (putField r 7 7 (wfield r 0 7)) 14 12 mv) 26 1 0))

/-- R432. -/
def execVfChangeComplete (die : Nat) (island : Nat) (mv : Nat) (s : State) : Out :=
  .next ((vfChangeCompleteEv die island mv s).getD s)

/-! ### The PTP clock (R440, R441) -/

/-- The clock is read or stamps something: time has passed by an amount that no event of the model gives.
DESIGN CHOICE, log entry 57. -/
def clockNow (chip : Nat) (s : State) : Nat × State :=
  match s.freeVal with
  | (v, s) =>
    let t := (s.chip chip).clock + v.toNat % 2 ^ 48
    (t, s.modChip chip (fun c => { c with clock := t }))

/-- A read of sys.ptps: the seconds; the nanoseconds are latched (R441). -/
def readSeconds (chip : Nat) (s : State) : Word × State :=
  match clockNow chip s with
  | (t, s) => (BitVec.ofNat 64 (t / 1000000000 % 2 ^ 48), s.setReg (d0 chip) 0x146 (BitVec.ofNat 64 (t % 1000000000)))

/-- R441. -/
def execPtpSecondsRead (chip : Nat) (s : State) : Out := .next (readSeconds chip s).2

/-- The slave takes messages that arrive on chip port p with this domain (R440, R441). -/
def ptpMine (s : State) (chip p domain : Nat) : Bool :=
  let r := s.reg (d0 chip) 0x147
  wbit r 0 && p == wfield r 1 1 && domain == wfield r 2 8 && wbit (s.reg (d0 chip) (0x2800 + 16 * p)) 0
    && wbit (s.reg (d0 chip) (0x2800 + 16 * p)) 1

/-- One data set comes before another in the order of comparison. -/
def better : List Nat → List Nat → Bool
  | [], _ => false
  | _ :: _, [] => true
  | a :: r, b :: t => decide (a < b) || (a == b && better r t)

/-- The master whose data set is the best of those announced (R440).
PRESUMED, log entry 58. -/
def bestMaster (l : SMap (List Nat)) : Option Nat :=
  (l.foldl (fun (acc : Option (Nat × List Nat)) e => match acc with
    | none => some e
    | some a => if better e.2 a.2 then some e else some a) none).map (·.1)

/-- A PTP message on a chip port: ports 0 and 1 take it, and the slave acts on it where it is its own; on the other ports it is dropped
and counted (R440). -/
def ptpMessage (chip p domain : Nat) (act : State → State) (s : State) : State :=
  if p ≥ 2 then dropFrame (8 * chip + 7) (p - 2) s else if ptpMine s chip p domain then act s else s

/-- A message of the master that the slave follows; another master's has no effect (R440). -/
def masterMessage (chip p : Nat) (sender : PtpSender) (act : State → State) (s : State) : State :=
  ptpMessage chip p sender.domain (fun s => if bestMaster (s.chip chip).masters = some sender.src then act s else s) s

/-- The servo learns an offset: it is locked after 16 good ones in a row (R441).
PRESUMED, log entry 58. -/
def servo (chip : Nat) (off : Int) (s : State) : State :=
  let good := if off.natAbs < 100 then min 16 ((s.chip chip).good + 1) else 0
  let s := s.modChip chip (fun c => { c with good := good })
  s.setReg (d0 chip) 0x147 (putField (putField (s.reg (d0 chip) 0x147) 10 1 (if good = 16 then 1 else 0)) 16 32
    (BitVec.ofInt 32 off).toNat)

/-- A Sync message. A two-step one waits for its Follow_Up. -/
def syncMessage (chip t2 t1 : Nat) (twoStep : Bool) (s : State) : State :=
  let s := s.modChip chip (fun c => { c with t2 := t2, t1 := t1 })
  if twoStep then s else servo chip ((t2 : Int) - t1 - (s.chip chip).delay) s

/-- R440. -/
def execSync (chip : Nat) (p : Nat) (sender : PtpSender) (t2 : Nat) (t1 : Nat) (twoStep : Bool) (s : State) : Out :=
  .next (masterMessage chip p sender (syncMessage chip t2 t1 twoStep) s)

/-- R440: the origin time of a two-step Sync. -/
def execFollowUp (chip : Nat) (p : Nat) (sender : PtpSender) (t1 : Nat) (s : State) : Out :=
  .next (masterMessage chip p sender (fun s => syncMessage chip (s.chip chip).t2 t1 false s) s)

/-- R440: Delay_Req leaves at t3. -/
def execDelayReq (chip : Nat) (t3 : Nat) (s : State) : Out :=
  .next (if wbit (s.reg (d0 chip) 0x147) 0 then s.modChip chip (fun c => { c with t3 := t3 }) else s)

/-- R440: Delay_Resp gives the time at which the master received Delay_Req; the mean path delay of the end-to-end
mechanism. -/
def execDelayResp (chip : Nat) (p : Nat) (sender : PtpSender) (t4 : Nat) (s : State) : Out :=
  .next (masterMessage chip p sender (fun s =>
    s.modChip chip (fun c => { c with delay := (((c.t2 : Int) - c.t1) + ((t4 : Int) - c.t3)) / 2 })) s)

/-- R440: an Announce message: the data set of its sender, by which the best master is known. -/
def execAnnounce (chip : Nat) (p : Nat) (sender : PtpSender) (dataset : List Nat) (s : State) : Out :=
  .next (ptpMessage chip p sender.domain (fun s =>
    s.modChip chip (fun c => { c with masters := ins c.masters sender.src dataset })) s)

/-! ### The limiter (R434 to R439) -/

/-- A write of sys.ramp: ignored whole with a rate or a floor out of range (R436). -/
def writeRamp (chip : Nat) (v : Word) (s : State) : State :=
  let ok := fun (x : Nat) => decide (1 ≤ x) && decide (x ≤ 4000)
  if ok (wfield v 0 12) && ok (wfield v 12 12) && decide (wfield v 24 12 ≤ 3600) then
    s.setReg (d0 chip) 0x143 (BitVec.ofNat 64 (wfield v 0 38))
  else s

/-- R436. -/
def execRampWrite (chip : Nat) (v : Word) (s : State) : Out := .next (writeRamp chip v s)

/-- A quotient rounded to the nearest whole number. -/
def nearest (x n : Nat) : Nat := (2 * x + n) / (2 * n)

/-- Log the shortfall of a chip, in whole ms, W and J (R439).
DESIGN CHOICE, log entry 55. -/
def logShortfall (chip : Nat) (trip : Bool) (s : State) : State :=
  let c := s.chip chip
  s.logError (d0 chip) 15 6 (min 65535 (nearest c.shortN 100)) (c.shortAt % 2 ^ 64)
    (min 65535 (nearest c.peak 100) + min (2 ^ 32 - 1) (nearest c.energy 10000000) * 2 ^ 16 + flag trip * 2 ^ 48)

/-- The shortfall of an interval with this target, in 0.01 W: it begins, goes on, or ends (R439). -/
def trackShortfall (chip target excess : Nat) (s : State) : State :=
  let c := s.chip chip
  if excess = 0 then
    if c.shortN = 0 then s
    else (logShortfall chip false s).modChip chip (fun c => { c with shortN := 0, peak := 0, energy := 0, shortAt := 0, target := 0 })
  else
    let s := if c.shortN = 0 then
        match clockNow chip s with
        | (t, s) => s.modChip chip (fun c => { c with shortAt := t })
      else s
    s.modChip chip (fun c => { c with shortN := c.shortN + 1, peak := max c.peak excess, energy := c.energy + excess, target := target })

/-- The target of an interval, in 0.01 W: Ru/100 per interval is Ru in these units (R434). -/
def limiterTarget (demand pdrawn up down floor : Nat) : Nat :=
  max (min (max demand (pdrawn - down)) (pdrawn + up)) (min (100 * floor) (pdrawn + up))

/-- The power that a chip's work would draw unthrottled, in W (R434). -/
def demandTotal (d : Demand) : Nat := d.matrix + d.vector + d.sram + d.hbm + d.optics + d.misc

/-- The consumers of a chip, each with the line that R3 gives it, in W. -/
def demandLines (d : Demand) : List (Nat × Nat) :=
  [(d.matrix, 1650), (d.vector, 350), (d.sram, 300), (d.hbm, 560), (d.optics, 480), (d.misc, 110)]

/-- What a consumer of d watts draws, in 0.01 W, of work capped in equal proportion to w (R434). -/
def demandShare (t : Demand) (w d : Nat) : Nat := if w ≥ 100 * demandTotal t then 100 * d else d * w / demandTotal t

/-- Work capped to w with each consumer held within its line (R3). -/
def demandHeld (t : Demand) (w : Nat) : Nat := ((demandLines t).map (fun e => min (100 * e.2) (demandShare t w e.1))).foldl (· + ·) 0

/-- Every consumer is within its line, filler counted on that of matrix (R3, R435). -/
def withinLines (t : Demand) (w filler : Nat) : Bool :=
  (demandLines t).all (fun e => decide (demandShare t w e.1 ≤ 100 * e.2)) && decide (demandShare t w t.matrix + filler ≤ 165000)

/-- What a chip draws in an interval, in 0.01 W: its work, ballast and filler. -/
structure Draw where
  work    : Nat
  ballast : Nat
  filler  : Nat
  deriving DecidableEq, Repr

def Draw.total (d : Draw) : Nat := d.work + d.ballast + d.filler

/-- Work that has been capped, with the gap to a target filled first with ballast and then with filler (R434). -/
def fillGap (work gap ballast filler : Nat) : Draw :=
  ⟨work, min gap ballast, min (gap - min gap ballast) filler⟩

/-- The draw of an interval with this target and these bounds of ballast and filler; most is what filler and ballast may raise the chip's
power to. A chip that runs at 3,600 W holds each consumer within its line, and no consumer draws the margin of 150 W; one that does not
comes to 3,600 W only with every consumer within its line (R3, R434, R435).
DESIGN CHOICE, log entry 105. -/
def drawOf (t : Demand) (cap target most : Nat) (tdp : Bool) (ballast filler : Nat) : Draw :=
  let gap := fun (work : Nat) => min target most - work
  if tdp then
    let work := demandHeld t cap
    fillGap work (gap work) ballast (min filler (165000 - min 165000 (demandShare t cap t.matrix)))
  else
    let d := fillGap cap (gap cap) ballast filler
    if d.total < 360000 || withinLines t cap d.filler then d
    else
      let cap := min cap 359999
      fillGap cap (min target (min most 359999) - cap) ballast filler

/-- Ballast of a chip shared out over its eight dies, in whole W (R3, R435).
DESIGN CHOICE, log entry 105. -/
def spreadBallast (chip watts : Nat) (s : State) : State :=
  (List.range 8).foldl (fun s i => s.modDie (8 * chip + i) (fun x => { x with ballast := (watts + 7 - i) / 8 })) s

/-- Dies of a chip with a matrix unit that has no command, at which filler can run (R435). -/
def idleDies (s : State) (chip : Nat) : List Nat :=
  ((List.range 8).map (8 * chip + ·)).filter (fun d =>
    (List.range 64).any (fun n => (s.core (64 * d + n)).mq.isEmpty && (s.core (64 * d + n)).mrun.isNone))

/-- Filler of a chip, in 0.01 W, spread evenly over the dies that can run it (R435). -/
def spreadFiller (chip filler : Nat) (s : State) : State :=
  let l := idleDies s chip
  (List.range 8).foldl (fun s i => s.modDie (8 * chip + i) (fun x => { x with
    filler := if l.contains (8 * chip + i) then filler / l.length else 0 })) s

/-- One control interval: demand and the filler that idle matrix units can draw, in W. Amounts are in 0.01 W, ballast is set in whole W.
While a shortfall is in progress, its target falls on at Rd from the last one (R439).
DESIGN CHOICE, log entries 54, 55 and 76. -/
def limiter (chip : Nat) (demand : Demand) (fillable : Nat) (s : State) : State :=
  let r := s.reg (d0 chip) 0x143
  let c := s.chip chip
  let D := 100 * demandTotal demand
  let T := min 360000 (limiterTarget D c.pdrawn (wfield r 0 12) (wfield r 12 12) (wfield r 24 12))
  let E := if c.shortN = 0 then T else min 360000 (max T (c.target - wfield r 12 12))
  let most := min (max c.pdrawn (100 * wfield r 24 12)) (c.pdrawn + wfield r 0 12)
  let tdp := decide (360000 ≤ c.pdrawn)
  let mostBallast := if wbit r 37 then 120000 else 0
  let mostFiller := if wbit r 36 then 100 * min (1650 * (idleDies s chip).length / 8) fillable else 0
  let x := drawOf demand (min D T) E most tdp mostBallast mostFiller
  let excess := if (T ≤ D ∧ !tdp) ∨ E ≤ x.total + 1 then 0 else E - x.total
  let s := spreadFiller chip x.filler (spreadBallast chip (x.ballast / 100) (s.modChip chip (fun c => { c with
    pdrawn := x.total, winSum := c.winSum + x.total, winN := c.winN + 1 })))
  let s := trackShortfall chip E excess s
  let p := s.reg (d0 chip) 0x144
  s.setReg (d0 chip) 0x144 (BitVec.ofNat 64 (wfield p 0 12 + min 4095 (demandTotal demand) * 2 ^ 12 + x.filler / 100 * 2 ^ 24
    + x.ballast / 100 * 2 ^ 36 + flag (x.work < D) * 2 ^ 48 + flag (excess > 0) * 2 ^ 49))

/-- R434, R435, R439. -/
def execLimiterInterval (chip : Nat) (demand : Demand) (fillable : Nat) (s : State) : Out :=
  .next (if (s.chip chip).tripped then s else limiter chip demand fillable s)

/-- fill (R437): the floor leaves for D0. -/
def execFill (f : T32e) (s : State) : Out :=
  privileged s (use1 (.fill f) f.a.toNat [f.d.toNat] s (fun a =>
    let v := min a.toNat 3600
    done ((s.modChip (crewChip s.me) (fun c => { c with floors := c.floors ++ [v] })).setR f.d.toNat (BitVec.ofNat 64 v) 0)))

/-- The oldest floor in transit reaches D0.
DEDUCED, log entry 53. -/
def floorArriveEv (chip : Nat) (s : State) : Option State :=
  match (s.chip chip).floors with
  | [] => none
  | f :: r => some ((s.setReg (d0 chip) 0x143 (putField (s.reg (d0 chip) 0x143) 24 12 f)).modChip chip
      (fun c => { c with floors := r }))

/-- R437. -/
def execFloorArrive (chip : Nat) (s : State) : Out := .next ((floorArriveEv chip s).getD s)

/-- The chip draws its demand: no filler, no ballast, no cap (R438). -/
def atDemand (s : State) (chip : Nat) : Bool :=
  let p := s.reg (d0 chip) 0x144
  wfield p 24 12 == 0 && wfield p 36 12 == 0 && !wbit p 48

/-- idle (R438). -/
def execIdle (s : State) : Out :=
  privileged s (if atDemand s (crewChip s.me) then done s else namedWait .idle s)

/-! ### Telemetry (R442) -/

/-- D0 sends a sample command at a PTP instant that is a multiple of 100 us; the window that it ends is the intervals since the last
one. -/
def telemetrySampleCommandEv (chip sec ns : Nat) (s : State) : Option State :=
  if ns % 100000 ≠ 0 ∨ ns ≥ 1000000000 ∨ (s.chip chip).sample.isSome then none
  else some (s.modChip chip (fun c => { c with
    sample := some (sec, ns), sampled := [], clock := sec * 1000000000 + ns,
    avg := if c.winN = 0 then c.pdrawn else c.winSum / c.winN, winSum := 0, winN := 0 }))

/-- R442. -/
def execTelemetrySampleCommand (chip : Nat) (sec : Nat) (ns : Nat) (s : State) : Out :=
  .next ((telemetrySampleCommandEv chip sec ns s).getD s)

/-- The samples of the dies so far, with this one, in 0.25 W, are what sensors accurate to 1 % and 2 W per die can measure of the chip's
average power (R433). -/
def plausible (c : Chip) (p : Nat) : Bool :=
  let sum := 25 * ((c.sampled.map (·.2)).foldl (· + ·) p)
  let tol := c.avg / 100 + 1600
  decide (sum ≤ c.avg + tol) && (decide (c.sampled.length < 7) || decide (c.avg ≤ sum + tol + 200))

/-- A die samples its average power: a number that its sensor can give. -/
def diePowerSampleEv (die power : Nat) (s : State) : Option State :=
  let c := s.chip (dieChip die)
  let p := min 65535 power
  if c.sample.isNone ∨ c.sampled.any (fun e => e.1 == die % 8) ∨ !plausible c p then none
  else some (s.modChip (dieChip die) (fun c => { c with sampled := c.sampled ++ [(die % 8, p)] }))

/-- R442. -/
def execDiePowerSample (die : Nat) (power : Nat) (s : State) : Out := .next ((diePowerSampleEv die power s).getD s)

/-- D0 writes the record of a sample to the ring of sys.tring. -/
def telemetryRecordWriteEv (chip : Nat) (s : State) : Option State :=
  let c := s.chip chip
  match c.sample with
  | none => none
  | some (sec, ns) =>
    if c.sampled.length < 8 then none
    else
      let d := d0 chip
      let p := fun (i : Nat) => ((c.sampled.find? (fun e => e.1 == i)).map (·.2)).getD 0
      let sum := ((List.range 8).map p).foldl (· + ·) 0
      let w := s.reg d 0x144
      let flags := flag (wbit (s.reg d 0x147) 10) + flag (wbit w 48) * 2 + flag (wbit w 49) * 4
      match s.nextSeq d with
      | (q, s) =>
        let words : List Nat := [
          q + flags * 2 ^ 32, sec, ns + p 0 * 2 ^ 32 + p 1 * 2 ^ 48,
          p 2 + p 3 * 2 ^ 16 + p 4 * 2 ^ 32 + p 5 * 2 ^ 48, p 6 + p 7 * 2 ^ 16 + sum * 2 ^ 32,
          wfield w 24 12 + wfield w 36 12 * 2 ^ 16 + wfield w 12 12 * 2 ^ 32, 0, 0]
        let s := s.ringAppend d 0x148 words
        let s := s.setReg d 0x144 (putField w 0 12 (min 4095 (sum / 4)))
        some (s.modChip chip (fun c => { c with sample := none, sampled := [] }))

/-- R442. -/
def execTelemetryRecordWrite (chip : Nat) (s : State) : Out := .next ((telemetryRecordWriteEv chip s).getD s)

/-! ### Limits (R444) -/

/-- R444: the demand of a die is capped from a junction of 100 degrees on. -/
def execJunctionCap (die : Nat) (on : Bool) (s : State) : Out := .next (s.modDie die (fun x => { x with capped := on }))

/-- The crews of a chip. -/
def chipCrews (s : State) (chip : Nat) : List Nat := (s.crews.filter (fun e => crewChip e.1 == chip)).map (·.1)

/-- A trip: every crew ends as by command 2, ballast and filler go, every core stops, and a shortfall record is logged; what
it holds where no shortfall was in progress is not stated. -/
def trip (chip : Nat) (s : State) : State :=
  let s := (chipCrews s chip).foldl (fun s k => endTarget k s) s
  let s := spreadFiller chip 0 (spreadBallast chip 0 s)
  let s := s.setReg (d0 chip) 0x144 (putField (putField (s.reg (d0 chip) 0x144) 24 24 0) 49 1 0)
  let s := if (s.chip chip).shortN ≠ 0 then s else
    match clockNow chip s with
    | (t, s) => match s.freeVal with
      | (v, s) => s.modChip chip (fun c => { c with
          shortN := wfield v 48 16 * 100, peak := wfield v 0 16 * 100, energy := wfield v 16 32 * 10000000, shortAt := t })
  (logShortfall chip true s).modChip chip (fun c => { c with
    tripped := true, shortN := 0, peak := 0, energy := 0, shortAt := 0, target := 0 })

/-- R444. -/
def execThermalTrip (chip : Nat) (s : State) : Out := .next (if (s.chip chip).tripped then s else trip chip s)

end Sys2Proof.Machine
end

