-- ==== Sys2Proof/Machine/Chip.lean ====
section
/-!
DEFINITION. Steps of a chip as a whole: cold reset and boot (R394), loss of supply (R433), link training and circuit changes
(R423 to R427), attestation (R395, R396), and the scrub reads of the HBM controllers (R419).
-/
namespace Sys2Proof.Machine

/-- A checked range of a crew's own scratchpad: its physical bytes (R396, R423).
DEDUCED, log entry 68. -/
def ownSpad (s : State) (k : Nat) (ga n align : Nat) : Option (List Nat) :=
  let core := crewCore k
  if ga / 2 ^ 60 = 1 ∧ gaDie (crewDie k) ga = crewDie k ∧ gaCore ga = core % 64 ∧ bitsOf ga 20 25 = 0
      ∧ ga % 2 ^ 20 + n ≤ Config.bankBytes * (s.core core).s ∧ ga % align = 0 then
    some ((List.range n).map (fun i => spadByte core (ga % 2 ^ 20 + i)))
  else none

/-- Store a 32-bit word in a crew's own scratchpad as a release (R396, R424); nothing where its address is no such word. -/
def storeSignal (k : Nat) (ga v : Nat) (s : State) : State :=
  match ownSpad s k ga 4 4 with
  | none => s
  | some ps => s.signal (crewDie k) [(ps, BitVec.ofNat 64 v)]

/-! ### Clearing a chip -/

/-- Everything that a chip holds, but for its flash, is gone. -/
def clearChip (c : Nat) (s : State) : State :=
  let off := fun (p : Nat) => dieChip (byteDie p) != c
  let old := s.chip c
  let s : State := { s with
    crews := s.crews.filter (fun e => crewChip e.1 != c)
    cores := s.cores.filter (fun e => dieChip (coreDie e.1) != c)
    dies := s.dies.filter (fun e => dieChip e.1 != c)
    mem := s.mem.filter (fun e => off e.1)
    poison := s.poison.filter (fun e => off (8 * e.1))
    bad := s.bad.filter (fun e => off (8 * e.1))
    locks := s.locks.filter (fun e => off (4 * e.1))
    pubs := s.pubs.filter (fun p => dieChip p.die != c)
    colls := (s.colls.map (fun (x : Coll) => { x with members := x.members.filter (fun m => dieChip m.die != c) })).filter
      (fun x => !x.members.isEmpty)
    invs := s.invs.filter (fun x => dieChip x.pdie != c)
    saves := s.saves.filter (fun e => crewChip e.1 != c)
    images := s.images.filter (fun x => off x.key) }
  s.setChip c { leaf := old.leaf, minVer := old.minVer, serial := old.serial }

/-- R433: the chip loses its supply; its flash keeps the leaf counter (R395). -/
def execLossOfSupply (chip : Nat) (s : State) : Out :=
  .next ((clearChip chip s).modChip chip (fun c => { c with supplied := false }))

/-! ### Cold reset and boot (R394) -/

/-- A firmware slot is accepted: its signature is one of its contents under the key whose SHA-256 the ROM holds, and its version
is at least the minimum (R393, R394).
DEDUCED, log entry 64. -/
def slotAccepted (rom : List Byte) (minVer : Nat) (x : Slot) : Bool :=
  sha256 x.key == rom && hssVerify x.key (leBytes 8 x.ver ++ x.images.flatten) x.sig && decide (x.ver ≥ minVer)

/-- The firmware slot that boots. -/
def bootSlot (minVer : Nat) (fw : Firmware) : Option Slot :=
  if slotAccepted fw.rom minVer fw.slot0 then some fw.slot0
  else if slotAccepted fw.rom minVer fw.slot1 then some fw.slot1 else none

/-- The measurements of the images that a slot loads: the SHA-256 of each, in four words (R394, R396).
DEDUCED, log entry 64. -/
def measurements (x : Slot) : List Word :=
  (x.images.take 4).flatMap (fun m => (List.range 4).map (fun j => BitVec.ofNat 64 (leNat (bytesAt (sha256 m) (8 * j) 8))))

/-- Write a list of die registers. -/
def setRegs (d : Nat) : List (Nat × Word) → State → State
  | [], s => s
  | (sel, v) :: r, s => setRegs d r (s.setReg d sel v)

/-- sys.droop as firmware loads it: en 1, thr 30, hold 2, minconf 2 (R430). -/
def fwDroop : Word := BitVec.ofNat 64 (1 + 30 * 2 + 2 * 2 ^ 8 + 2 * 2 ^ 12)

/-- sys.ramp as firmware loads it: up 20, down 20, fen 1, ben 1 (R436). -/
def fwRamp : Word := BitVec.ofNat 64 (20 + 20 * 2 ^ 12 + 2 ^ 36 + 2 ^ 37)

/-- What firmware loads into every die: context 0, partition 0, the pool, the skew, the droop table and the islands. Island 39,
which is not clocked, gets fset and fcur 0: R432 states that of fset alone.
DESIGN CHOICE, log entry 77. -/
def fwDie (fw : Firmware) (i : Nat) : List (Nat × Word) :=
  [(0xC00, 3), (0xC01, fw.root.getD i 0), (0xB00, 0x1FFFF), (0x0A0, BitVec.ofNat 64 (64 + 1024 * 2 ^ 16)), (0x140, 8), (0x141, fwDroop)]
    ++ (List.range 40).map (fun n =>
      let f := if n = 39 then 0 else 64
      (0x150 + n, BitVec.ofNat 64 (f + f * 2 ^ 7 + fw.mv.getD (40 * i + n) 0 % 2 ^ 12 * 2 ^ 14)))

/-- The two port register blocks of D0 or D7, from the addresses of chip ports q and q + 1. -/
def fwPorts (fw : Firmware) (q : Nat) : List (Nat × Word) :=
  (List.range 2).flatMap (fun p =>
    [(portSel p 0, BitVec.ofNat 64 (2 + 3 * 2 ^ 2 + (fw.mac.getD (q + p) 0).toNat % 2 ^ 48 * 2 ^ 16)),
     (portSel p 1, fw.ip.getD (2 * (q + p)) 0), (portSel p 2, fw.ip.getD (2 * (q + p) + 1) 0)])

/-- What firmware loads into D0 alone. -/
def fwChip (fw : Firmware) (x : Slot) : List (Nat × Word) :=
  [(0x143, fwRamp), (0x147, 1), (0x130, BitVec.ofNat 64 (fw.node % 2 ^ 32))] ++ fwPorts fw 0
    ++ (List.range 16).map (fun i => (0x190 + i, (measurements x).getD i 0))

/-- The node of the supervisor crew: a kernel of one crew, with S 104, Q 16, C 0 and all eight lane groups (R342, R343 to R345).
PRESUMED, log entry 65. -/
def supervisorNode (pcs : Word × Word) : Record :=
  (List.range 32).map (fun i => if i = 20 then pcs.1 else if i = 21 then pcs.2 else if i = 22 then 1 + 2 ^ 44 else if i = 23 then 1
    else if i = 29 then 104 + 16 * 2 ^ 8 + 8 * 2 ^ 16 else 0)

/-- The supervisor node is posted on D0 in context 0, and its crew stands in slot 0 of core 0 and starts (R342, R356, R394).
DEDUCED, log entry 65. -/
def startSupervisor (c : Nat) (pcs : Word × Word) (s : State) : State :=
  let die := d0 c
  let core := 64 * die
  match enterPool die 0 (supervisorNode pcs) none s with
  | (h, s) =>
    let s := (ownCore core 0 104 16 0 s).modCore core (fun x => { x with node := some (die, h) })
    let s := s.modNode (die, h) (fun n => { n with phase := 1, placed := [(0, 4 * core)] })
    match liveNode s die h with
    | none => s
    | some (_, n) =>
      let s := seatCrew die n 0 (4 * core) s
      (crewStartEv (4 * core) s).getD s

/-- Boot with an accepted firmware slot: the fields marked fw, the limiter's first power (at most 700 W), the minimum version, which an
update raises once its new slot, slot 0, has booted, and the supervisor.
DEDUCED, log entry 64. -/
def boot (c : Nat) (fw : Firmware) (x : Slot) (s : State) : State :=
  let new := slotAccepted fw.rom (s.chip c).minVer fw.slot0
  let s := (List.range 8).foldl (fun s i => setRegs (d0 c + i) (fwDie fw i) s) s
  let s := setRegs (d0 c + 7) (fwPorts fw 2) (setRegs (d0 c) (fwChip fw x) s)
  match s.freeVal with
  | (p, s) => startSupervisor c fw.supervisor (s.modChip c (fun y => { y with
      booted := true, pdrawn := p.toNat % 70001, minVer := if new then max y.minVer fw.minVer else y.minVer }))

/-- Cold reset: the chip is cleared and boots, or keeps every port down and starts no die. -/
def coldReset (c : Nat) (fw : Firmware) (s : State) : State :=
  let s := (clearChip c s).modChip c (fun x => { x with serial := fw.serial, leaf := max x.leaf fw.leaf, supplied := true })
  match bootSlot (s.chip c).minVer fw with
  | some x => boot c fw x s
  | none => s

/-- R394. -/
def execColdReset (chip : Nat) (fw : Firmware) (s : State) : Out :=
  .next (if chip < 32 ∧ fw.self = chip then coldReset chip fw s else s)

/-! ### Route entries and link training (R278, R426) -/

def routeSel (peer : Nat) : Nat := 0x500 + peer

/-- Set the retraining flag of a path. -/
def setRetrain (die peer : Nat) (on : Bool) (s : State) : State :=
  s.modDie die (fun x => { x with paths := put {} x.paths peer { get {} x.paths peer with retrain := on } })

/-- A write of a route entry: its RW fields; the own entry keeps valid 0; a path pair in mism or dark trains again. -/
def writeRoute (die peer : Nat) (v : Word) (s : State) : State :=
  let w := s.reg die (routeSel peer)
  let valid := if peer = die then 0 else wfield v 14 1
  let s := s.setReg die (routeSel peer) (putField (putField w 14 1 valid) 16 32 (wfield v 16 32))
  if peer ≠ die ∧ (wbit w 12 ∨ wbit w 13) then setRetrain peer die true (setRetrain die peer true s) else s

/-- R278, R426. -/
def execRouteEntryWrite (die : Nat) (peer : Nat) (v : Word) (s : State) : Out := .next (writeRoute die (peer % 256) v s)

/-- Wavelengths of a path: eight in the package, one in the pod (R278). -/
def maxLanes (die peer : Nat) : Nat := if dieChip die = dieChip peer then 8 else 1

/-- A path trains in phase 4, after a write that asks for it, and at bring-up.
DEDUCED, log entry 66. -/
def mayTrain (s : State) (die peer : Nat) : Bool :=
  (s.chip (dieChip die)).phase == 4 || (get {} (s.die die).paths peer).retrain
    || wfield (s.reg die (routeSel peer)) 0 12 == 0

/-- A training ends with a flight time, lanes in service and the identity found. A chip whose firmware slots have both failed starts no
die, and trains no path (R394). -/
def linkTrainingCompleteEv (die peer flight lanes ident : Nat) (s : State) : Option State :=
  if die = peer ∨ peer ≥ 256 ∨ die ≥ 256 ∨ lanes > maxLanes die peer ∨ !mayTrain s die peer ∨ !(s.chip (dieChip die)).booted then none
  else
    let w := s.reg die (routeSel peer)
    let mism := decide (ident % 2 ^ 32 ≠ wfield w 16 32)
    let dark := mism || lanes == 0
    let s := s.setReg die (routeSel peer)
      (putField (putField (putField (putField w 0 8 flight) 8 4 lanes) 12 1 (flag dark)) 13 1 (flag mism))
    let s := setRetrain die peer false s
    let s := if dark then pathLost die peer s else s
    some (if mism then match s.freeVal with
      | (v, s) => s.logError die 13 6 1 v.toNat (ident % 2 ^ 32)
    else s)

/-- R426. -/
def execLinkTrainingComplete (die : Nat) (peer : Nat) (flight : Nat) (lanes : Nat) (ident : Nat) (s : State) : Out :=
  .next ((linkTrainingCompleteEv die peer flight lanes ident s).getD s)

/-! ### Circuit changes (R423 to R425, R427) -/

/-- st of sys.fcst. -/
def fcState (s : State) (c : Nat) : Nat := wfield (s.reg (d0 c) 0x132) 0 3
/-- DEDUCED, log entry 67. -/
def setFcState (c st : Nat) (s : State) : State := s.setReg (d0 c) 0x132 (putField (s.reg (d0 c) 0x132) 0 3 st)

/-- The change of a chip's own controller ends: the signal word and the log record (R424). -/
def endChange (c st : Nat) (s : State) : State :=
  let s := setFcState c st s
  let s := match (s.chip c).change with
    | some (k, sig) => storeSignal k sig.toNat st s
    | none => s
  match s.freeVal with
  | (v, s) => (s.logError (d0 c) 14 6 1 v.toNat (wfield (s.reg (d0 c) 0x132) 0 19)).modChip c
      (fun x => { x with change := none, request := [] })

/-- A request that is lost while the chip's own change still trains after its time-out: it ends at once, and that change goes on. -/
def loseRequest (c k sig : Nat) (s : State) : State :=
  match (storeSignal k sig 6 (setFcState c 6 s)).freeVal with
  | (v, s) => s.logError (d0 c) 14 6 1 v.toNat (wfield (s.reg (d0 c) 0x132) 0 19)

/-- A write of sys.fcreq by crew k of D0 (R423): ignored while st is 1 to 4; else the request block is read, and the request is sent. -/
def startChange (k : Nat) (v : Word) (s : State) : State :=
  let c := crewChip k
  if crewDie k % 8 ≠ 0 ∨ (1 ≤ fcState s c ∧ fcState s c ≤ 4) then s
  else match ownSpad s k v.toNat 64 1 with
    | none => s
    | some ps => match s.readBytes ps with
      | (bs, s) =>
        let sig := BitVec.ofNat 64 (bytesNum ((bs.drop 32).take 8))
        if (s.chip c).change.isSome then loseRequest c k sig.toNat s
        else
          let s := s.modChip c (fun x => { x with change := some (k, sig), request := (bs.take 32).map (·.b) })
          let s := s.setReg (d0 c) 0x132 1
          if (s.chip c).phase ≠ 0 then endChange c 6 s else s.modChip c (fun x => { x with phase := 1 })

/-- R423, R424. -/
def execCircuitChangeRequest (k : Nat) (v : Word) (s : State) : Out := .next (startChange k v s)

/-- The chip whose controller has this node identity and awaits a grant. -/
def requester (s : State) (ident : Nat) : Option Nat :=
  (s.chips.find? (fun e => e.2.phase == 1 && wfield (s.reg (d0 e.1) 0x130) 0 32 == ident)).map (·.1)

/-- The controller of a chip receives the request of another chip (R425). -/
def peerChangeRequestReceiveEv (c ident : Nat) (s : State) : Option State :=
  let lose := fun (x : Nat) (s : State) => (endChange x 6 s).modChip x (fun y => { y with phase := 0 })
  let own := wfield (s.reg (d0 c) 0x130) 0 32
  if ident = own then none
  else if (s.chip c).phase = 1 then (if ident < own then some (lose c s) else none)
  else if (s.chip c).phase ≥ 2 then (requester s ident).map (fun x => lose x s)
  else none

/-- R425. -/
def execPeerChangeRequestReceive (chip : Nat) (ident : Nat) (s : State) : Out :=
  .next ((peerChangeRequestReceiveEv chip ident s).getD s)

/-- Every chip of the pod that is up moves from one phase to the next. -/
def movePhase (a b : Nat) (s : State) : State :=
  { s with chips := s.chips.map (fun e => if e.2.supplied && (e.2.phase == a || (a == 1 && e.2.phase == 0)) then (e.1, { e.2 with phase := b }) else e) }

/-- Paths that carry traffic: trained, not dark, without an unexpected peer. -/
def livePaths (s : State) : List (Nat × Nat) :=
  s.dies.flatMap (fun d => (List.range 256).filterMap (fun peer =>
    if peer ≠ d.1 ∧ routeLanes s d.1 peer ≠ 0 ∧ !pathDown s d.1 peer then some (d.1, peer) else none))

/-- The drain marker of a path has arrived. -/
def drained (s : State) (p : Nat × Nat) : Bool := (get {} (s.die p.1).paths p.2).marker

/-- The controller whose change is in a phase. -/
def changing (s : State) (phase : Nat) : Option Nat :=
  (s.chips.find? (fun e => e.2.change.isSome && e.2.phase == phase)).map (·.1)

/-- Once every path has drained the mirrors move: phase 3. -/
def checkDrained (s : State) : State :=
  match changing s 2 with
  | some c => if (livePaths s).all (drained s) then setFcState c 3 (movePhase 2 3 s) else s
  | none => s

/-- The grant arrives at the controller that asked: every chip quiesces, and any other request is lost (R424, R425). -/
def grantReceiveEv (c : Nat) (s : State) : Option State :=
  if (s.chip c).phase ≠ 1 then none
  else
    let clear := fun (d : Die) => { d with paths := (d.paths.map (fun (e : Nat × Path) => (e.1, { e.2 with marker := false }))).filter (fun e => e.2 != {}) }
    let s : State := { s with dies := s.dies.map (fun e => (e.1, clear e.2)) }
    let rivals := (s.chips.filter (fun e => e.1 != c && e.2.phase == 1)).map (·.1)
    some (checkDrained (setFcState c 2 (movePhase 1 2 (rivals.foldl (fun s x => endChange x 6 s) s))))

/-- R424.
DESIGN CHOICE, log entry 86. -/
def execGrantReceive (chip : Nat) (s : State) : Out := .next ((grantReceiveEv chip s).getD s)

/-- No grant by T_grant: the change ends, and nothing changes (R424). -/
def grantTimeoutEv (c : Nat) (s : State) : Option State :=
  if (s.chip c).phase ≠ 1 then none else some ((endChange c 7 s).modChip c (fun x => { x with phase := 0 }))

/-- R424. -/
def execGrantTimeout (chip : Nat) (s : State) : Out := .next ((grantTimeoutEv chip s).getD s)

/-- A packet of a request still uses the path: on its way out, held, or its reply on the way back. -/
def pathBusy (s : State) (die peer : Nat) : Bool :=
  s.crews.any (fun e => match e.2.req with
    | none => false
    | some q => match q.phase with
      | .replied .. => q.src == peer && q.dst == die
      | .returned .. => false
      | _ => (q.src == die && q.dst == peer) || (q.src == peer && q.dst == die))

/-- The drain marker of a path arrives, every flit before it acknowledged (R424). -/
def drainMarkerArriveEv (die peer : Nat) (s : State) : Option State :=
  let p := get {} (s.die die).paths peer
  if (s.chip (dieChip die)).phase ≠ 2 ∨ !(livePaths s).contains (die, peer) ∨ !p.unack.isEmpty ∨ p.marker ∨ pathBusy s die peer then none
  else some (checkDrained (s.modDie die (fun x => { x with paths := put {} x.paths peer { p with marker := true } })))

/-- R424. -/
def execDrainMarkerArrive (die : Nat) (peer : Nat) (s : State) : Out := .next ((drainMarkerArriveEv die peer s).getD s)

/-- Paths not drained by T_drain are marked dark, and the change proceeds (R424). -/
def drainTimeoutEv (c : Nat) (s : State) : Option State :=
  if (s.chip c).phase ≠ 2 ∨ (s.chip c).change.isNone then none
  else
    let late := (livePaths s).filter (fun p => !drained s p)
    let s := late.foldl (fun s p => (pathDarkMarkEv p.1 p.2 s).getD s) s
    let s := s.setReg (d0 c) 0x132 (putField (s.reg (d0 c) 0x132) 3 8 (min 255 late.length))
    some (setFcState c 3 (movePhase 2 3 s))

/-- R424. -/
def execDrainTimeout (chip : Nat) (s : State) : Out := .next ((drainTimeoutEv chip s).getD s)

/-- Every path of the pod that a route entry names is to train. -/
def retrainAll (s : State) : State :=
  s.dies.foldl (fun s d => ((List.range 256).filter (fun peer => peer != d.1 && s.reg d.1 (routeSel peer) != 0)).foldl
    (fun s peer => setRetrain d.1 peer true s) s) s

/-- The mirrors have moved, or the notice has not come by T_grant: every path trains (R424). -/
def mirrorsEnd (c st : Nat) (s : State) : Option State :=
  if (s.chip c).phase ≠ 3 ∨ (s.chip c).change.isNone then none
  else some ((setFcState c st (movePhase 3 4 (retrainAll s))).modChip c (fun x => { x with late := st == 7 }))

/-- R424. -/
def execMirrorNoticeReceive (chip : Nat) (s : State) : Out := .next ((mirrorsEnd chip 4 s).getD s)

/-- R424. -/
def execMirrorTimeout (chip : Nat) (s : State) : Out := .next ((mirrorsEnd chip 7 s).getD s)

/-- Paths left with an unexpected peer. -/
def mismPaths (s : State) : Nat :=
  (s.dies.map (fun d => ((List.range 256).filter (fun peer => peer != d.1 && routeMism s d.1 peer)).length)).foldl (· + ·) 0

/-- A path of the pod has still to train. -/
def training (s : State) : Bool := s.dies.any (fun d => d.2.paths.any (fun e => e.2.retrain))

/-- Once every path has trained, a chip adopts the next version and reopens its paths; the controller that asked ends its change (R424,
R427). -/
def trainingPhaseEndEv (c : Nat) (s : State) : Option State :=
  if (s.chip c).phase ≠ 4 ∨ training s then none
  else
    let w := s.reg (d0 c) 0x130
    let s := s.setReg (d0 c) 0x130 (putField w 32 16 (wfield w 32 16 + 1))
    let late := (s.chip c).late
    let s := s.modChip c (fun x => { x with phase := 0, late := false })
    some (if (s.chip c).change.isSome then
      let s := s.setReg (d0 c) 0x132 (putField (s.reg (d0 c) 0x132) 11 8 (min 255 (mismPaths s)))
      endChange c (if late then 7 else 5) s
    else s)

/-- R424, R427. -/
def execTrainingPhaseEnd (chip : Nat) (s : State) : Out := .next ((trainingPhaseEndEv chip s).getD s)

/-! ### Attestation (R395, R396) -/

/-- A write of the request register: ignored while busy.
DEDUCED, log entry 69. -/
def startAttest (k : Nat) (v : Word) (s : State) : State :=
  if (s.chip (crewChip k)).attest.isSome then s else s.modChip (crewChip k) (fun c => { c with attest := some (k, v, (s.crew k).ctx) })

/-- R396. -/
def execAttestationRequest (k : Nat) (v : Word) (s : State) : Out := .next (startAttest k v s)

/-- Bytes 0 to 191 of the report. -/
def reportHead (s : State) (c q : Nat) (nonce : List Byte) : List Byte :=
  let ser := (s.chip c).serial
  leBytes 4 1 ++ leBytes 4 5588 ++ nonce ++ leBytes 4 q ++ leBytes 4 0
    ++ leBytes 8 (ser.getD 0 0).toNat ++ leBytes 8 (ser.getD 1 0).toNat
    ++ (List.range 16).flatMap (fun i => leBytes 8 (s.reg (d0 c) (0x190 + i)).toNat)

/-- The requester that the security engine of a chip is at the homes of its block and its report (R273). -/
def securityId (chip : Nat) : Nat := 2 ^ 21 + 2 * chip

/-- The request of crew k, then of a context, with its block at an address is served; while the block or the destination must wait, the
engine takes its place there. -/
def serveAttest (c k : Nat) (v : Word) (ctx : Nat) (s : State) : Except (Option State) State :=
  let s0 := s
  match ownSpad s k v.toNat 64 64 with
  | none => .ok s
  | some ps => if !s.admitsEngine (securityId c) ps then .error (s.await (securityId c) ps) else match s.readBytes ps with
    | (bs, s) =>
      let dst := bytesNum ((bs.drop 32).take 8)
      let sig := bytesNum ((bs.drop 40).take 8)
      let q := (s.chip c).leaf
      if q ≥ 2 ^ 30 then .ok (storeSignal k sig 1 s)
      else if bytesMark bs || bytesNum (bs.drop 48) != 0 || (ownSpad s k sig 4 4).isNone then .ok (storeSignal k sig 2 s)
      else match engineRange s (securityId c) (crewDie k) (some (crewCore k)) ctx .write dst 5588 with
        | (.wait, t) => .error (s0.held t)
        | (.fault _, s) => .ok (storeSignal k sig 2 s)
        | (.ok ds, s) =>
          let head := reportHead s c q ((bs.take 32).map (·.b))
          let report := head ++ hssSign (s.chip c).serial q head
          let s := s.modChip c (fun x => { x with leaf := q + 1 })
          .ok (storeSignal k sig 0 (s.perform ((ds.zip report).map (fun e => (e.1, ⟨e.2, false⟩)))))

def attestationCompleteEv (c : Nat) (s : State) : Option State :=
  match (s.chip c).attest with
  | none => none
  | some (k, v, ctx) => match serveAttest c k v ctx s with
    | .error w => w
    | .ok s => some ((s.leaveAll (securityId c)).modChip c (fun x => { x with attest := none }))

/-- R395, R396. -/
def execAttestationComplete (chip : Nat) (s : State) : Out := .next ((attestationCompleteEv chip s).getD s)

/-! ### Soft errors (R419) -/

/-- The HBM controller reads a word with some erroneous bits, or a word of a bank array, or of an L2 slice, gets them: one is corrected and
logged, more are uncorrectable; a scrub detects them at once, in the other arrays the next read of the word does.
DEDUCED, log entry 70. -/
def wordError (array w bad : Nat) (s : State) : State :=
  if bad = 1 then s.logError (byteDie (8 * w)) 1 array 1 (byteAddr (8 * w)) 0
  else
    let s := if bad ≥ 2 ∧ !get false s.poison w then { s with bad := put false s.bad w true } else s
    if array = 0 then s.detect w else s

/-- Mark the elements of a list that the positions name. -/
def markElems (l : List Elem) (i : Nat) : List Elem := l.modify i (fun e => { e with p := true })

/-- Mark what an uncorrectable word of a unit's register, vector register, tile or queue holds: the word's elements are delivered with
poison marks (R419, R420). A mask register has no mark. -/
def markUnit (kind u i : Nat) (s : State) : State :=
  match kind with
  | 0 => if i % 64 = 0 then s else s.modCrew u (fun c => { c with a := { c.a with regs := put {} c.a.regs (i % 64) ⟨(c.a.reg (i % 64)).v, true⟩ } })
  | 1 => if i % 64 = 0 then s else s.modCrew u (fun c => { c with x := { c.x with regs := put {} c.x.regs (i % 64) ⟨(c.x.reg (i % 64)).v, true⟩ } })
  | 2 => s.modCore u (fun c => { c with vregs := (List.range 8).foldl (fun m b =>
      put {} m (8 * i + b) ⟨(get {} m (8 * i + b)).b, true⟩) c.vregs })
  | 4 => s.modTile u (i % 4) (fun t => { t with elems := (List.range 2).foldl (fun m e =>
      put {} m (2 * (i / 4) + e) ⟨(get {} m (2 * (i / 4) + e)).v, true⟩) t.elems })
  | 5 =>
    let mark := fun (l : List Tok) => l.modify 0 (fun t => { t with elems := markElems t.elems (i / 16) })
    s.modCrew u (fun c =>
      if i % 16 < 8 then c.setLq (i % 16) (mark (c.lqAt (i % 16)))
      else if i % 16 < 12 then c.setSq (i % 16 - 8) (mark (c.sqAt (i % 16 - 8)))
      else { c with iq := mark c.iq })
  | _ => s

/-- Drop copy i of a unit: of the last-level TLB of its die, or of its own L1 TLB, kind table, core cache where the line is clean, or a
window's blocks; it is fetched again (R419). -/
def dropCopy (u i : Nat) (s : State) : State :=
  match i % 8 with
  | 0 => s.modDie (coreDie u) (fun d => { d with tlb := d.tlb.eraseIdx (i / 8) })
  | 1 => s.modCore u (fun c => { c with l1 := c.l1.eraseIdx (i / 8) })
  | 2 => s.modCore u (fun c => { c with kinds := c.kinds.eraseIdx (i / 8) })
  | 3 => s.modCore u (fun c => { c with cache := match c.cache[i / 8]? with
      | some (l, x) => if x.dirty = 0 then del c.cache l else c.cache
      | none => c.cache })
  | _ => s.modCrew (4 * u + i / 8 % 4) (fun c => { c with win := c.win.map (fun (w : Nat × Window) =>
      (w.1, if w.1 = i / 32 % 16 then { w.2 with blocks := w.2.blocks.eraseIdx (i / 512) } else w.2)) })

/-- A soft error of an array that no HBM controller scrubs, by kind of unit, unit and place: kinds 0 and 1 the registers of the access and
the execute sequencer of a crew, 2 the vector registers of a core, 3 the masks of a crew, 4 the tiles of a core, 5 the queues of a
crew, 6 the copies of a core and its die, 7 the L2 copy of an HBM word. One bit is corrected and logged, more give marks and the log
of a first detection. Where a unit stands in the number of the word, and the location in the record, are the model's.
DESIGN CHOICE, log entry 70. -/
def unitError (r bad : Nat) (s : State) : State :=
  let kind := r % 8
  let u := r / 8 % 2 ^ 16
  let i := r / 2 ^ 19
  let d := if kind = 2 ∨ kind = 4 ∨ kind = 6 then coreDie u else crewDie u
  let array := if kind = 4 then 4 else if kind = 5 then 5 else if kind = 6 then 6 else 3
  if kind = 7 then wordError 1 (r / 8) bad s
  else match s.freeVal with
    | (v, s) =>
      if bad = 0 then s
      else if kind = 6 then (dropCopy u i s).logError d 1 array 1 v.toNat 0
      else if bad = 1 then s.logError d 1 array 1 v.toNat 0
      else (markUnit kind u i s).logError d 2 array 1 v.toNat 0

/-- A read of a word by an HBM controller that finds some erroneous bits; from word 2^42 on, a soft error of a word of a bank array, and
from 2^43 on, of another array. -/
def scrubRead (w bad : Nat) (s : State) : State :=
  if w < 2 ^ 42 then wordError 0 w bad s
  else if w < 2 ^ 43 then wordError 2 w bad s
  else unitError (w - 2 ^ 43) bad s

/-- R419. -/
def execHbmScrubRead (word : Nat) (bad : Nat) (s : State) : Out := .next (scrubRead word bad s)

end Sys2Proof.Machine
end

