-- ==== Sys2Proof/Machine/SysReg.lean ====
section
/-!
DEFINITION. sget, sset and the selector map (R383 to R386), with the layouts of the registers and tables that it reads and
writes.
-/
namespace Sys2Proof.Machine

/-! ### The selector map (R386) -/

/-- What the map says of a selector: whether reading and writing it need system privilege, whether all its fields are RO
for sset, whether it belongs to the access sequencer, and whether sset waits as a fence.die does (R385). -/
structure Sel where
  readSys  : Bool := false
  writeSys : Bool := true
  ro       : Bool := false
  aseq     : Bool := false
  far      : Bool := false
  deriving DecidableEq, Repr

/-- A register that every crew reads and nobody writes. -/
def Sel.fixed : Sel := { writeSys := false, ro := true }
/-- The same, of the access sequencer. -/
def Sel.own : Sel := { writeSys := false, ro := true, aseq := true }
/-- A die register or table that every crew reads. -/
def Sel.dieReg : Sel := { far := true }
/-- A die register or table that only system privilege reads. -/
def Sel.dieSys : Sel := { readSys := true, far := true }

/-- n lies in a range. -/
def within (n lo hi : Nat) : Bool := decide (lo ≤ n) && decide (n ≤ hi)

/-- Selectors below 0x100. -/
def selLow (n : Nat) : Option Sel :=
  if within n 0x010 0x01E || n == 0x020 || n == 0x021 then some .fixed
  else if n == 0x022 || n == 0x031 then some .own
  else if n == 0x030 || n == 0x040 then some {}
  else if n == 0x060 then some { writeSys := false }
  else if n == 0x061 || n == 0x070 || n == 0x071 then some .fixed
  else if n == 0x0A0 then some .dieReg
  else if within n 0x0A1 0x0A5 then some .own
  else if n == 0x0C0 then some .fixed
  else if n == 0x0C8 || within n 0x0D0 0x0FF then some .own
  else none

/-- Trap, debug, load and attestation registers, on a die of number d within its chip. -/
def selMid (d n : Nat) : Option Sel :=
  if within n 0x100 0x108 then some .fixed
  else if n == 0x110 || n == 0x111 then some .dieSys
  else if n == 0x112 || n == 0x114 then some { readSys := true, aseq := true }
  else if n == 0x113 || n == 0x123 || n == 0x124 then some { readSys := true }
  else if n == 0x115 then some { readSys := true, ro := true }
  else if within n 0x120 0x128 then some { readSys := true, ro := true }
  else if n == 0x130 || n == 0x132 then (if d = 0 then some { ro := true } else none)
  else if n == 0x131 then (if d = 0 then some .dieReg else none)
  else if n == 0x138 then some .dieSys
  else if n == 0x140 || n == 0x141 then some .dieReg
  else if n == 0x142 then some { ro := true }
  else if n == 0x143 || n == 0x147 || n == 0x148 then (if d = 0 then some .dieReg else none)
  else if n == 0x144 || n == 0x145 || n == 0x146 then (if d = 0 then some { ro := true } else none)
  else if within n 0x150 0x177 then some .dieReg
  else if n == 0x180 then some .dieSys
  else if n == 0x181 || n == 0x182 || within n 0x190 0x19F then some { readSys := true, ro := true }
  else none

/-- The tables.
DEDUCED, log entry 72. -/
def selHigh (d n : Nat) : Option Sel :=
  let eth := d == 0 || d == 7
  if within n 0x500 0x5FF then some .dieReg
  else if within n 0x600 0x6FF then some (if n % 4 = 3 then { ro := true } else .dieReg)
  else if within n 0x800 0x9FF then (if n % 8 ≤ 4 then some .dieReg else none)
  else if within n 0xA00 0xA7F then some (if n % 2 = 1 then { ro := true } else .dieReg)
  else if within n 0xB00 0xB0F then some .dieSys
  else if within n 0xC00 0xFFF then (if n % 4 ≤ 1 then some .dieSys else none)
  else if within n 0x1000 0x1FFF then (if eth && n % 4 != 3 then some .dieSys else none)
  else if within n 0x2000 0x27FF then (if eth then some .dieSys else none)
  else if within n 0x2800 0x281F then (if eth && decide (n % 16 ≤ 3) then some (if n % 16 = 3 then { readSys := true, ro := true } else .dieSys) else none)
  else none

/-- The map: none for an unassigned selector, or one of a table that the die does not hold (R384). -/
def selector (d n : Nat) : Option Sel :=
  if n < 0x100 then selLow n else if n < 0x200 then selMid d n else selHigh d n

/-! ### Reading -/

/-- Sum of fields that stand at multiples of a width. -/
def packFields (w : Nat) (xs : List Nat) : Word :=
  BitVec.ofNat 64 (((List.range xs.length).zip xs).foldl (fun a e => a + e.2 * 2 ^ (w * e.1)) 0)

/-- Identity values (R31). -/
def readIdentity (n : Nat) (s : State) : Word :=
  let c := s.myCrew
  if n = 0x010 then placeWord s s.me
  else if n = 0x011 then c.wid
  else if n < 0x018 then
    let k := n - 0x012
    if k < c.widths.length then BitVec.ofNat 64 (wfield c.wid ((c.widths.take k).foldl (· + ·) 0) (c.widths.getD k 0)) else 0
  else if n < 0x01E then c.exts.getD (n - 0x018) 0
  else BitVec.ofNat 64 c.lev

/-- sys.lpart (R336). -/
def readLpart (s : State) (core : Nat) : Word :=
  let shares := (coreCrews core).map (fun k => (s.shareOf k).b + (s.shareOf k).g * 8)
  packFields 8 (shares ++ [laneBusy s core])

/-- sys.tstate (R161). -/
def readTstate (s : State) (core : Nat) : Word :=
  packFields 4 ((List.range 4).map (fun t =>
    let x := get {} (s.core core).tiles t
    flag x.en + (if x.en then x.slot else 0) * 2 + flag (tilePending s core t) * 8))

/-- sys.tpred (R162). -/
def readTpred (s : State) (core : Nat) : Word :=
  packFields 16 ((List.range 4).map (fun t =>
    let x := get {} (s.core core).tiles t
    x.nr + x.nc * 2 ^ 8))

/-- A window word (R287). -/
def readWindow (c : Crew) (n : Nat) : Word := (get {} c.win (n % 16)).word (n / 16 - 13)

/-- A trap register by its offset from 0x100 (R403). -/
def TrapRegs.read (t : TrapRegs) (i : Nat) : Word := t.words.getD i 0

/-- sys.cfail is read and cleared (R305). -/
def readCfail (k : Nat) (s : State) : Word × State := ((s.crew k).cfail, s.modCrew k (fun c => { c with cfail := 0 }))

/-- R305. -/
def execSysCfailRead (k : Nat) (s : State) : Out := .next (readCfail k s).2

/-- sys.tdrop is read and cleared (R404). -/
def readTdrop (d : Nat) (s : State) : Word × State := (s.reg d 0x115, s.setReg d 0x115 0)

/-- R404. -/
def execSysTdropRead (die : Nat) (s : State) : Out := .next (readTdrop die s).2

/-- sys.pswap (R417). -/
def readPswap (s : State) (d : Nat) : Word :=
  let r := s.reg d 0x138
  let held := ((s.die d).shadow.any (fun e => e.1 == wfield r 0 4))
  BitVec.ofNat 64 (wfield r 0 4 + wfield r 6 3 * 2 ^ 6 + flag held * 2 ^ 9 + wfield r 10 6 * 2 ^ 10 + shadowUsed s d % 2 ^ 32 * 2 ^ 16)

/-- Registers below 0x100. -/
def readLow (n : Nat) (s : State) : Word × State :=
  let c := s.myCrew
  let q := s.seqr
  let core := s.core s.myCore
  if n ≤ 0x01E then (readIdentity n s, s)
  else if n = 0x020 then (BitVec.ofNat 64 q.vl, s)
  else if n = 0x021 then (BitVec.ofNat 64 (q.vtype.wc + q.vtype.grp * 4 + q.vtype.cls * 16), s)
  else if n = 0x022 then (BitVec.ofNat 64 c.alen, s)
  else if n = 0x030 then (readLpart s s.myCore, s)
  else if n = 0x031 then (BitVec.ofNat 64 c.slip, s)
  else if n = 0x040 then (BitVec.ofNat 64 (flag core.ckstall), s)
  else if n = 0x060 then (core.rnull, s)
  else if n = 0x061 then (BitVec.ofNat 64 (flag core.act), s)
  else if n = 0x070 then (readTstate s s.myCore, s)
  else if n = 0x071 then (readTpred s s.myCore, s)
  else if n = 0x0A0 then (s.reg s.myDie n, s)
  else if n = 0x0A1 then (BitVec.ofNat 64 (flag c.chain.bound + flag c.chain.fin * 2), s)
  else if n = 0x0A2 then (c.chain.hwm, s)
  else if n = 0x0A3 then (c.chain.pos, s)
  else if n = 0x0A4 then (c.narg, s)
  else if n = 0x0A5 then (c.node, s)
  else if n = 0x0C0 then (BitVec.ofNat 64 (s.chip (crewChip s.me)).scseq, s)
  else if n = 0x0C8 then readCfail s.me s
  else (readWindow c n, s)

/-- Registers from 0x100 on. -/
def readHigh (n : Nat) (s : State) : Word × State :=
  let c := s.myCrew
  let d := s.myDie
  let chip := crewChip s.me
  if n ≤ 0x108 then (c.trap.read (n - 0x100), s)
  else if n = 0x112 then (c.tsel, s)
  else if n = 0x113 then (BitVec.ofNat 64 ((s.crew (targetOf s s.me)).state * 4), s)
  else if n = 0x114 then (BitVec.ofNat 64 (s.crew (targetOf s s.me)).estep, s)
  else if n = 0x115 then readTdrop d s
  else if within n 0x120 0x128 then ((s.crew (targetOf s s.me)).trap.read (n - 0x120), s)
  else if n = 0x131 || n = 0x180 then (0, s)
  else if n = 0x138 then (readPswap s d, s)
  else if n = 0x141 then readDroop d s
  else if n = 0x142 then (BitVec.ofNat 64 (gatedMask s s.myCore), s)
  else if n = 0x145 then readSeconds chip s
  else if n = 0x181 then (BitVec.ofNat 64 (flag (s.chip chip).attest.isSome), s)
  else if n = 0x182 then (BitVec.ofNat 64 ((s.chip chip).leaf % 2 ^ 31), s)
  else if within n 0x190 0x19F then (s.reg (d0 chip) n, s)
  else if within n 0x2800 0x282F && n % 16 == 3 then readDrops d ((n - 0x2800) / 16) s
  else (s.reg d n, s)

/-- What sget delivers for an assigned selector, and the state after the read. -/
def readSel (n : Nat) (s : State) : Word × State := if n < 0x100 then readLow n s else readHigh n s

/-! ### Writing -/

/-- sys.lpart (R336): the shares that a value gives the four slots. -/
def lpartShares (v : Word) : List Share := (List.range 4).map (fun i => ⟨wfield v (8 * i) 3, wfield v (8 * i + 3) 4⟩)

/-- A write of sys.lpart is applied whole or ignored whole (R336).
DEDUCED, log entry 73. -/
def lpartOk (s : State) (core : Nat) (v : Word) : Bool :=
  let sh := fun (i : Nat) => (lpartShares v).getD i {}
  (List.range 4).all (fun i =>
    let k := 4 * core + i
    let x := sh i
    (if occupied s k then x.g != 0 else x == {}) && decide (x.b + x.g ≤ 8)
      && (List.range 8).all (fun j => !x.has j || (List.range 4).all (fun m =>
        m == i || (!(sh m).has j && !holds s (4 * core + m) j))))

def writeLpart (core : Nat) (v : Word) (s : State) : State :=
  if lpartOk s core v then
    s.modCore core (fun c => { c with
      lpart := ((List.range 4).zip (lpartShares v)).foldl (fun m e => put {} m e.1 e.2) c.lpart })
  else s

/-- R336. -/
def execLpartWrite (core : Nat) (v : Word) (s : State) : Out := .next (writeLpart core v s)

/-- Clusters of a partition entry that lie on a die: their two bits of the mask. -/
def dieMask (d : Nat) (w : Word) : Nat := if wbit w 0 then wfield w (1 + 2 * (d % 8)) 2 else 0

/-- A crew of partition p is resident on a cluster of a die. -/
def clusterBusy (s : State) (d p cluster : Nat) : Bool :=
  s.crews.any (fun e => e.2.state != 0 && crewDie e.1 == d && crewCore e.1 % 64 / 32 == cluster
    && wfield (ctxEntry s d e.2.ctx) 2 4 == p)

/-- A write of a partition entry: ignored whole when it would give a cluster to two valid partitions, or remove a cluster
on which crews of the partition are resident (R373). -/
def writePart (d p : Nat) (v : Word) (s : State) : State :=
  let new := BitVec.ofNat 64 (wfield v 0 17)
  let shared := (List.range 16).any (fun q => q != p && wbit new 0 && wbit (partEntry s d q) 0
    && (wfield new 1 16 &&& wfield (partEntry s d q) 1 16) != 0)
  let gone := (List.range 2).any (fun cl => bitOf (dieMask d (partEntry s d p)) cl && !bitOf (dieMask d new) cl && clusterBusy s d p cl)
  if shared || gone then s else s.setReg d (0xB00 + p) new

/-- R373. -/
def execPartitionTableWrite (die : Nat) (p : Nat) (v : Word) (s : State) : Out := .next (writePart die (p % 16) v s)

/-- Word 0 of a group entry: the group's sequence count returns to 0 (R291, R300). -/
def writeGroup (d g : Nat) (v : Word) (s : State) : State :=
  (s.setReg d (grpSel g 0) (BitVec.ofNat 64 (wfield v 0 9))).modDie d (fun x => { x with cseq := put 0 x.cseq g 0 })

/-- R291, R300. -/
def execGroupEntryWrite (die : Nat) (g : Nat) (v : Word) (s : State) : Out := .next (writeGroup die (g % 64) v s)

/-- Word 0 of a publication entry: its edition is cleared (R291). -/
def writePubEntry (d ch : Nat) (v : Word) (s : State) : State :=
  (s.setReg d (pubSel ch 0) (BitVec.ofNat 64 (wfield v 0 15 + wfield v 16 32 * 2 ^ 16))).setReg d (pubSel ch 1) 0

/-- R291. -/
def execPublicationEntryWrite (die : Nat) (ch : Nat) (v : Word) (s : State) : Out := .next (writePubEntry die (ch % 64) v s)

/-- Word 0 of a subscription entry: its edition and its dark bit are cleared (R291, R294); the dark bit of an entry whose path
is dark is set again. -/
def writeSubEntry (d n : Nat) (v : Word) (s : State) : State :=
  let dark := wbit v 0 && pathDown s d (wfield v 9 8)
  (s.setReg d (subSel n 0) (BitVec.ofNat 64 (wfield v 0 23 + flag dark * 2 ^ 23))).setReg d (subSel n 3) 0

/-- R291, R294. -/
def execSubscriptionEntryWrite (die : Nat) (n : Nat) (v : Word) (s : State) : Out := .next (writeSubEntry die (n % 64) v s)

/-- sys.tctl (R405). -/
def command (k : Nat) (v : Word) (s : State) : State :=
  match wfield v 0 2 with
  | 1 => preemptCrew k s
  | 2 => endTarget k s
  | _ => s

/-- sys.pswap (R417): part and rsv, then clear, then go. -/
def writePswap (d : Nat) (v : Word) (s : State) : State :=
  let r := putField (s.reg d 0x138) 0 4 (wfield v 0 4)
  let r := if (s.die d).shadow.isEmpty then putField r 10 6 (wfield v 10 6) else r
  let s := s.setReg d 0x138 r
  let s := if wbit v 5 then swapClear d (wfield v 0 4) s else s
  if wbit v 4 then swapGo d (wfield v 0 4) s else s

/-- A port register word (R387): up and drops are the hardware's. -/
def writePort (d n : Nat) (v : Word) (s : State) : State :=
  match n % 16 with
  | 0 => s.setReg d n (BitVec.ofNat 64 (wfield (s.reg d n) 0 1 + wfield v 1 4 * 2 + wfield v 16 48 * 2 ^ 16))
  | 3 => s
  | _ => s.setReg d n v

/-- Registers below 0x200. -/
def writeLow (n : Nat) (v : Word) (s : State) : State :=
  let d := s.myDie
  let t := targetOf s s.me
  if n = 0x030 then writeLpart s.myCore v s
  else if n = 0x040 then s.modCore s.myCore (fun c => { c with ckstall := wbit v 0 })
  else if n = 0x060 then s.modCore s.myCore (fun c => { c with rnull := BitVec.ofNat 64 (wfield v 0 32) })
  else if n = 0x0A0 then s.setReg d n (BitVec.ofNat 64 (wfield v 0 10 + wfield v 16 11 * 2 ^ 16))
  else if n = 0x110 || n = 0x111 || n = 0x148 then s.setReg d n v
  else if n = 0x112 then s.modMe (fun c => { c with tsel := BitVec.ofNat 64 (wfield v 0 11) })
  else if n = 0x113 then command t v s
  else if n = 0x114 then (if (s.crew t).state = 0 then s else s.modCrew t (fun c => { c with estep := wfield v 0 2 }))
  else if n = 0x123 then setEpc t false v s
  else if n = 0x124 then setEpc t true v s
  else if n = 0x131 then startChange s.me v s
  else if n = 0x138 then writePswap d v s
  else if n = 0x140 then s.setReg d n (BitVec.ofNat 64 (wfield v 0 4))
  else if n = 0x141 then writeDroop d v s
  else if n = 0x143 then writeRamp (crewChip s.me) v s
  else if n = 0x147 then s.setReg d n (putField (s.reg d n) 0 10 (wfield v 0 10))
  else if within n 0x150 0x177 then vfWrite d (n - 0x150) v s
  else if n = 0x180 then startAttest s.me v s
  else s

/-- The tables. -/
def writeTable (n : Nat) (v : Word) (s : State) : State :=
  let d := s.myDie
  if within n 0x500 0x5FF then writeRoute d (n - 0x500) v s
  else if within n 0x600 0x6FF then
    match n % 4 with
    | 0 => writeSubEntry d ((n - 0x600) / 4) v s
    | 1 => s.setReg d n v
    | 2 => s.setReg d n (BitVec.ofNat 64 (wfield v 0 32))
    | _ => s
  else if within n 0x800 0x9FF then (if n % 8 = 0 then writeGroup d ((n - 0x800) / 8) v s else s.setReg d n v)
  else if within n 0xA00 0xA7F then (if n % 2 = 0 then writePubEntry d ((n - 0xA00) / 2) v s else s)
  else if within n 0xB00 0xB0F then writePart d (n - 0xB00) v s
  else if within n 0xC00 0xFFF then s.setReg d n (if n % 4 = 0 then BitVec.ofNat 64 (wfield v 0 6) else v)
  else if within n 0x1000 0x1FFF then writeKey d n v s
  else if within n 0x2000 0x27FF then
    match n % 4 with
    | 0 => writeQp d ((n - 0x2000) / 4) v s
    | 1 => s.setReg d n (BitVec.ofNat 64 (wfield v 0 48))
    | _ => s.setReg d n v
  else writePort d n v s

/-- The effect of sset on an assigned, writable selector. -/
def writeSel (n : Nat) (v : Word) (s : State) : State := if n < 0x200 then writeLow n v s else writeTable n v s

/-! ### The instructions -/

/-- sget (R383, R384). -/
def execSget (f : T32a) (s : State) : Out :=
  let n := f.imm.toNat
  match selector (s.myDie % 8) n with
  | none => raise { code := Cause.illop } s
  | some x =>
    if x.readSys && !s.sysPriv s.me then raise { code := Cause.priv } s
    else useRegs (.sget f) [] [f.d.toNat] s (fun _ =>
      if x.aseq && s.cur.xs then done (s.setR f.d.toNat 0 2)
      else done ((readSel n s).2.setR f.d.toNat (readSel n s).1 2))

/-- sset (R383, R384, R385).
DEDUCED, log entry 71. -/
def execSset (f : T32a) (s : State) : Out :=
  let n := f.imm.toNat
  match selector (s.myDie % 8) n with
  | none => raise { code := Cause.illop } s
  | some x =>
    if x.writeSys && !s.sysPriv s.me then raise { code := Cause.priv } s
    else if x.ro || (x.aseq && s.cur.xs) then done s
    else useRegs (.sset f) [f.a.toNat] [] s (fun vs =>
      match (if x.far then settle s s.me else some s) with
      | none => waitAt (.sset f) s
      | some s => done (writeSel n (vs.getD 0 0) s))

end Sys2Proof.Machine
end

