-- ==== Sys2Proof/Machine/Auto.lean ====
section
/-!
DEFINITION. Which step comes next when the agenda is empty (log entry 1): a step of an agent that is ready, else the next
sequencer, round robin. Steps whose moment comes from outside (times, sensors, frames, grants) are never chosen here.
-/
namespace Sys2Proof.Machine

/-- The first of some numbers below n at which a step is enabled. -/
def firstReady (n : Nat) (ev : Nat → Option State) : Option State := (List.range n).findSome? ev

/-- Every running slice of a trapped crew waits: the run-on has nothing left to do but reach its limit (R399). -/
def runOnStuck (c : Crew) : Bool :=
  let stuck := fun (q : Seqr) => q.run != .running || q.wait.isSome
  c.stop == .trap && stuck c.a && stuck c.x

/-- The heads of the VIQs of a core take turns: the first that can issue after the slot that issued last (R308). -/
def headTurn (s : State) (n : Nat) : Option State :=
  (List.range 4).findSome? (fun i => viqHeadIssueEv (4 * n + ((s.core n).vlast + 1 + i) % 4) s)

/-- A step of crew k's own units. -/
def crewStep (s : State) (k : Nat) : Option State :=
  let c := s.crew k
  elementGroupAdvanceEv k s
  <|> firstReady c.loads.length (fun i => loadTokenPushEv k i s)
  <|> firstReady c.loads.length (fun i => storeStepEv k i s)
  <|> scTicketDrawEv k s
  <|> firstReady c.wcb.length (fun i => wcbLineDrainEv k i s)
  <|> followOnPlaceEv k s
  <|> runOnStopEv k s
  <|> (if runOnStuck c then runOnLimitEv k s else none)
  <|> preemptStopEv k s

/-- A step of a crew's remote request or multi-word compare-and-swap. -/
def crewRemote (s : State) (k : Nat) : Option State :=
  packetReceiveEv k s
  <|> versionNackReceiveEv k s
  <|> packetResendEv k s
  <|> homeAccessPerformEv k s
  <|> accessReplyReturnEv k s
  <|> darkRequestTimeoutEv k s
  <|> mcasHomeLockEv k s
  <|> mcasDecisionEv k s
  <|> mcasHomeUnlockEv k s
  <|> mcasDarkReleaseEv k s

/-- A step of a crew's placement, retirement, saving or loading. -/
def crewLife (s : State) (k : Nat) : Option State :=
  crewStartEv k s
  <|> highWaterArriveEv k s
  <|> crewRetireEv k s
  <|> crewEndCompleteEv k s
  <|> contextSaveWriteEv k s
  <|> contextLoadCompleteEv k s

/-- A step of a core's units. -/
def coreStep (s : State) (n : Nat) : Option State :=
  divisionStartEv n false s
  <|> divisionResultEv n false s
  <|> divisionStartEv n true s
  <|> divisionResultEv n true s
  <|> classRaiseEv n s
  <|> classFallEv n s
  <|> firstReady 8 (fun j => laneGroupWakeEv n j s)
  <|> matrixCommandStartEv n s
  <|> mmaBlockRowCompleteEv n s
  <|> matrixCommandCompleteEv n s
  <|> gangStepStartEv n s
  <|> copyJobTakeEv n s
  <|> firstReady (s.core n).jobs.length (fun j => jobPacketLandEv n j s)
  <|> firstReady (s.core n).jobs.length (fun j => jobSignalWriteEv n j s)

/-- Dispatch from a die's pool: a copy node goes to the first core that can take it. -/
def dispatchStep (s : State) (d : Nat) : Option State :=
  nodeDispatchEv d 0 0 s
  <|> (if (topNode s d 1).isSome then
    (List.range 64).findSome? (fun j => nodeDispatchEv d 1 (64 * d + j) s) else none)
  <|> nodeDispatchEv d 2 0 s

/-- Placement from a die's pool: the first slots that fit. -/
def placeStep (s : State) (d : Nat) : Option State :=
  (s.die d).pool.findSome? (fun e => match findPlacement s d e.2 with
    | some crews => crewPlacementEv d e.1 crews s
    | none => none)

/-- A step of a die's units. -/
def dieStep (s : State) (d : Nat) : Option State :=
  let x := s.die d
  (x.slices.findSome? (fun e =>
    contributionAcceptEv (32 * d + e.1) s
    <|> firstReady e.2.chains.length (fun j => chainCloseEv (32 * d + e.1) j s)))
  <|> firstReady x.walks.length (fun j => pageWalkCompleteEv d j s)
  <|> (x.misses.head?.bind (fun w => pageWalkStartEv d w.ctx w.va s))
  <|> latchTakeEv d s
  <|> trapRecordWriteEv d s
  <|> pswapDoneEv d s
  <|> netPerformEv d s
  <|> dispatchStep s d
  <|> placeStep s d
  <|> x.paths.findSome? (fun e =>
    (match e.2.unack.getLast? with
      | some f => flitAcknowledgeEv d e.1 f.1 s
      | none => none)
    <|> (if e.2.sent ≠ e.2.freed then creditReturnReceiveEv d e.1 e.2.sent s else none)
    <|> (if (s.chip (dieChip d)).phase = 2 then drainMarkerArriveEv d e.1 s else none))

/-- A step of the fabric engines. -/
def fabricStep (s : State) : Option State :=
  (s.pubs.findSome? (fun p => if p.accepted then none else publicationAcceptEv p.die p.ch s))
  <|> (List.range s.pubs.length).findSome? (fun i => (s.pubs[i]?).bind (fun p =>
    p.dests.findSome? (fun m => publicationPacketLandEv i m.1 s)))
  <|> (List.range s.colls.length).findSome? (fun i => (s.colls[i]?).bind (fun c =>
    c.members.findSome? (fun m =>
      firstReady m.shape.2.2.2.1 (fun e => collectiveContributionArriveEv i m.die e s)
      <|> firstReady m.mask.length (fun b => collectiveResultArriveEv i m.die b s)
      <|> c.members.findSome? (fun o => o.failed.findSome? (fun f =>
        if f.2.2.1 = o.die then failureNoticeReceiveEv i m.die f.1 f.2.1 f.2.2.1 f.2.2.2 s else none)))))
  <|> (List.range s.invs.length).findSome? (fun i => (s.invs[i]?).bind (fun x =>
    x.targets.findSome? (fun d => tlbinvTargetDropEv i d s)))

/-- A step of a chip's controllers. -/
def chipStep (s : State) (c : Nat) : Option State :=
  attestationCompleteEv c s
  <|> telemetryRecordWriteEv c s
  <|> floorArriveEv c s

/-- The next step of an agent that is ready. -/
def autoEvent (s : State) : Option State :=
  s.crews.findSome? (fun e => headTurn s (crewCore e.1))
  <|> s.crews.findSome? (fun e => crewStep s e.1)
  <|> s.crews.findSome? (fun e => crewRemote s e.1)
  <|> s.cores.findSome? (fun e => coreStep s e.1)
  <|> s.dies.findSome? (fun e => dieStep s e.1)
  <|> fabricStep s
  <|> s.chips.findSome? (fun e => chipStep s e.1)
  <|> s.crews.findSome? (fun e => crewLife s e.1)

/-- The sequencers that may run, each with its number 2 x crew + slice, in order. -/
def runnable (s : State) : List Nat :=
  s.crews.flatMap (fun e =>
    (if e.2.a.run = .running then [2 * e.1] else []) ++ (if e.2.x.run = .running then [2 * e.1 + 1] else []))

/-- The sequencer that runs next: the first one after the last, in order, round robin (R306, R307).
DEDUCED, log entry 81. -/
def nextSeqr (s : State) : Option Nat :=
  match (runnable s).find? (fun n => decide (n > s.next)) with
  | some n => some n
  | none => (runnable s).head?

end Sys2Proof.Machine
end

