-- ==== Sys2Proof/Machine/Routing.lean ====
section
/-!
DEFINITION. The routing state of a core as the A-slice counts into it, copies it and steers it (R146, R154 to R158).
-/
namespace Sys2Proof.Machine

/-- Add one to a saturating 32-bit counter (R146). -/
def bump (m : SMap Nat) (j : Nat) : SMap Nat := put 0 m j (min (get 0 m j + 1) 0xFFFFFFFF)

/-- An instruction of the routing state that crew k has issued still waits there. -/
def routingWaits (s : State) (k : Nat) : Bool :=
  let q := (s.crew k).a
  q.run == .running && (match q.wait with
    | some (.rtcnt _) | some (.rtsnap _) | some (.rtbias _) | some (.rtswap _) => true
    | _ => false)

/-- The routing state takes one instruction at a time, in the order of their issue (R158): i has its turn, and go says
whether it may take effect; else it waits in its place.
DEDUCED, log entry 93. -/
def routed (i : Instr) (go : Bool) (s : State) (k : State → Out) : Out :=
  let before := (s.core s.myCore).rwait.filter (routingWaits s)
  let line := fun (l : List Nat) => s.modCore s.myCore (fun c => { c with rwait := l })
  if go && (before.isEmpty || before.head? == some s.me) then k (line (before.filter (· != s.me)))
  else waitAt i (line (if before.contains s.me then before else before ++ [s.me]))

/-- RTCNT (R154). -/
def execRtcnt (f : T32e) (s : State) : Out :=
  let i := Instr.rtcnt f
  inA s (useRegs i [] [f.d.toNat] s (fun _ =>
    iqToken i ((s.myCrew.iq.head?.map (·.n)).getD 0) none s (fun t =>
      match t.elems.findIdx? (fun e => e.act && e.p) with
      | some e => raise { code := Cause.poison, elem := some e } s
      | none =>
        let hits := (t.elems.filter (fun e => e.act && decide (e.v.toNat < 256))).map (·.v.toNat)
        routed i true s (fun s =>
          let s' := s.modCore s.myCore (fun c => { c with rcnt := hits.foldl bump c.rcnt })
          done ((if bitOf f.imm.toNat 0 then popIq s' else s').setR f.d.toNat (BitVec.ofNat 64 hits.length) 0)))))

/-- The offset operand of rtsnap and rtbias, checked (R155). Where it is both misaligned and beyond the scratchpad, ALIGN is raised;
sys.tval then holds the offset, and so it does for ADDRFLT.
DESIGN CHOICE, log entry 116. -/
def routingBlock (a : Word) (s : State) (k : List (List Nat) → Out) : Out :=
  if a.toNat % 64 ≠ 0 then raise { code := Cause.align, tval := a } s
  else if a.toNat + 1024 > Config.bankBytes * (s.core s.myCore).s then
    raise { code := Cause.addrflt, reason := 7, tval := a } s
  else k ((List.range 256).map (fun j => (List.range 4).map (fun b => spadByte s.myCore (a.toNat + 4 * j + b))))

/-- Store elements in the write-combining buffer, in order. -/
def wcbStores (k : Nat) : List (List Nat × Word) → State → Option State
  | [], s => some s
  | (ps, v) :: r, s => match wcbStore s k false (storeCells ps ⟨v, false⟩) with
    | some s => wcbStores k r s
    | none => none

/-- RTSNAP (R155): the copy is a vector store of the crew. -/
def execRtsnap (f : T32e) (s : State) : Out :=
  let i := Instr.rtsnap f
  inA s (use1 i f.a.toNat [f.d.toNat] s (fun a => routingBlock a s (fun bs =>
    let cnt := (s.core s.myCore).rcnt
    let vs := (List.range 256).map (fun j => get 0 cnt j)
    let copy := fun (s : State) => wcbStores s.me (bs.zip (vs.map (BitVec.ofNat 64))) s
    routed i (!s.myCrew.pendingAt 0 bs.flatten && (copy s).isSome) s (fun s => match copy s with
      | none => waitAt i s
      | some s' => done ((s'.modCore s.myCore (fun c => { c with rcnt := [] })).setR f.d.toNat
          (BitVec.ofNat 64 (vs.foldl (· + ·) 0)) 0)))))

/-- A selection instruction in flight on the core has captured this bank (R149, R156). -/
def bankInUse (s : State) (core : Nat) (bank : Bool) : Bool :=
  (coreCrews core).any (fun k => (s.crew k).viq.any (fun e => decide (0 < e.prog) && !e.fin && e.bank == bank &&
    match e.instr with
    | .vrins _ => true
    | _ => false))

/-- RTBIAS (R156). A poisoned word raises POISON: a bias carries no mark. -/
def execRtbias (f : T32e) (s : State) : Out :=
  let i := Instr.rtbias f
  inA s (use1 i f.a.toNat [] s (fun a => routingBlock a s (fun bs =>
    let staged := !(s.core s.myCore).act
    routed i (!bankInUse s s.myCore staged && s.lets s.me 0 bs.flatten) s (fun s => match crewRead s s.me bs.flatten with
      | (vs, s') =>
        if vs.any (·.p) then raise { code := Cause.poison } s'
        else
          let bank := (List.range 256).foldl (fun m j =>
            put 0 m j (BitVec.ofNat 32 (leNat (((vs.drop (4 * j)).take 4).map (·.b))))) ([] : SMap (BitVec 32))
          done (s'.modCore s.myCore (fun c => if staged then { c with bank1 := bank } else { c with bank0 := bank }))))))

/-- RTSWAP (R157). -/
def execRtswap (f : T32e) (s : State) : Out :=
  inA s (routed (.rtswap f) true s (fun s => done (s.modCore s.myCore (fun c => { c with act := !c.act }))))

end Sys2Proof.Machine
end

