-- ==== Sys2Proof/Machine/Dispatch.lean ====
section
/-!
DEFINITION. Dispatch: one arm per constructor of Instr, each one direct call of that instruction's meaning.
-/
namespace Sys2Proof.Machine

def exec (i : Instr) (s : State) : Host.Outcome State Fault Refusal :=
  match i with
  | .nop => Sys2Proof.Machine.execNop s
  | .exit => Sys2Proof.Machine.execExit s
  | .yield => Sys2Proof.Machine.execYield s
  | .bkpt => Sys2Proof.Machine.execBkpt s
  | .lbrk => Sys2Proof.Machine.execLbrk s
  | .add f => Sys2Proof.Machine.execAdd f s
  | .sub f => Sys2Proof.Machine.execSub f s
  | .mul f => Sys2Proof.Machine.execMul f s
  | .mulh f => Sys2Proof.Machine.execMulh f s
  | .mulhu f => Sys2Proof.Machine.execMulhu f s
  | .div f => Sys2Proof.Machine.execDiv f s
  | .divu f => Sys2Proof.Machine.execDivu f s
  | .rem f => Sys2Proof.Machine.execRem f s
  | .remu f => Sys2Proof.Machine.execRemu f s
  | .and f => Sys2Proof.Machine.execAnd f s
  | .or f => Sys2Proof.Machine.execOr f s
  | .xor f => Sys2Proof.Machine.execXor f s
  | .andn f => Sys2Proof.Machine.execAndn f s
  | .sll f => Sys2Proof.Machine.execSll f s
  | .srl f => Sys2Proof.Machine.execSrl f s
  | .sra f => Sys2Proof.Machine.execSra f s
  | .min f => Sys2Proof.Machine.execMin f s
  | .max f => Sys2Proof.Machine.execMax f s
  | .minu f => Sys2Proof.Machine.execMinu f s
  | .maxu f => Sys2Proof.Machine.execMaxu f s
  | .slt f => Sys2Proof.Machine.execSlt f s
  | .sltu f => Sys2Proof.Machine.execSltu f s
  | .seq f => Sys2Proof.Machine.execSeq f s
  | .clz f => Sys2Proof.Machine.execClz f s
  | .ctz f => Sys2Proof.Machine.execCtz f s
  | .popc f => Sys2Proof.Machine.execPopc f s
  | .jr f => Sys2Proof.Machine.execJr f s
  | .addi f => Sys2Proof.Machine.execAddi f s
  | .andi f => Sys2Proof.Machine.execAndi f s
  | .ori f => Sys2Proof.Machine.execOri f s
  | .xori f => Sys2Proof.Machine.execXori f s
  | .slli f => Sys2Proof.Machine.execSlli f s
  | .srli f => Sys2Proof.Machine.execSrli f s
  | .srai f => Sys2Proof.Machine.execSrai f s
  | .sget f => Sys2Proof.Machine.execSget f s
  | .sset f => Sys2Proof.Machine.execSset f s
  | .trap f => Sys2Proof.Machine.execTrap f s
  | .lidx f => Sys2Proof.Machine.execLidx f s
  | .sel f => Sys2Proof.Machine.execSel f s
  | .bfx f => Sys2Proof.Machine.execBfx f s
  | .bfi f => Sys2Proof.Machine.execBfi f s
  | .bcc f => Sys2Proof.Machine.execBcc f s
  | .jmp f => Sys2Proof.Machine.execJmp f s
  | .jal f => Sys2Proof.Machine.execJal f s
  | .loop f => Sys2Proof.Machine.execLoop f s
  | .loopi f => Sys2Proof.Machine.execLoopi f s
  | .li f => Sys2Proof.Machine.execLi f s
  | .lih f => Sys2Proof.Machine.execLih f s
  | .ld f => Sys2Proof.Machine.execLd f s
  | .st f => Sys2Proof.Machine.execSt f s
  | .fence f => Sys2Proof.Machine.execFence f s
  | .vlq f => Sys2Proof.Machine.execVlq f s
  | .vlqs f => Sys2Proof.Machine.execVlqs f s
  | .vlqx f => Sys2Proof.Machine.execVlqx f s
  | .vlqi f => Sys2Proof.Machine.execVlqi f s
  | .vlqt f => Sys2Proof.Machine.execVlqt f s
  | .vsq f => Sys2Proof.Machine.execVsq f s
  | .vsqs f => Sys2Proof.Machine.execVsqs f s
  | .vsqx f => Sys2Proof.Machine.execVsqx f s
  | .vsqi f => Sys2Proof.Machine.execVsqi f s
  | .vlqb f => Sys2Proof.Machine.execVlqb f s
  | .vsqb f => Sys2Proof.Machine.execVsqb f s
  | .vsetl f => Sys2Proof.Machine.execVsetl f s
  | .lpreq f => Sys2Proof.Machine.execLpreq f s
  | .lprel f => Sys2Proof.Machine.execLprel f s
  | .cqpush f => Sys2Proof.Machine.execCqpush f s
  | .bqb f => Sys2Proof.Machine.execBqb f s
  | .qslip f => Sys2Proof.Machine.execQslip f s
  | .qdrain f => Sys2Proof.Machine.execQdrain f s
  | .cbatch f => Sys2Proof.Machine.execCbatch f s
  | .cwait f => Sys2Proof.Machine.execCwait f s
  | .ccget f => Sys2Proof.Machine.execCcget f s
  | .waitw f => Sys2Proof.Machine.execWaitw f s
  | .bar f => Sys2Proof.Machine.execBar f s
  | .amo f => Sys2Proof.Machine.execAmo f s
  | .amocas f => Sys2Proof.Machine.execAmocas f s
  | .red f => Sys2Proof.Machine.execRed f s
  | .vamo f => Sys2Proof.Machine.execVamo f s
  | .vred f => Sys2Proof.Machine.execVred f s
  | .mcas f => Sys2Proof.Machine.execMcas f s
  | .cpy f => Sys2Proof.Machine.execCpy f s
  | .cpy2 f => Sys2Proof.Machine.execCpy2 f s
  | .cpyx f => Sys2Proof.Machine.execCpyx f s
  | .put f => Sys2Proof.Machine.execPut f s
  | .get f => Sys2Proof.Machine.execGet f s
  | .rwmap f => Sys2Proof.Machine.execRwmap f s
  | .rwinv f => Sys2Proof.Machine.execRwinv f s
  | .pub f => Sys2Proof.Machine.execPub f s
  | .edwait f => Sys2Proof.Machine.execEdwait f s
  | .edget f => Sys2Proof.Machine.execEdget f s
  | .vcoll f => Sys2Proof.Machine.execVcoll f s
  | .ten f => Sys2Proof.Machine.execTen f s
  | .tdis f => Sys2Proof.Machine.execTdis f s
  | .tzero f => Sys2Proof.Machine.execTzero f s
  | .tmask f => Sys2Proof.Machine.execTmask f s
  | .mma f => Sys2Proof.Machine.execMma f s
  | .mmag f => Sys2Proof.Machine.execMmag f s
  | .tld f => Sys2Proof.Machine.execTld f s
  | .tst f => Sys2Proof.Machine.execTst f s
  | .tsync f => Sys2Proof.Machine.execTsync f s
  | .tgpost f => Sys2Proof.Machine.execTgpost f s
  | .tgdone f => Sys2Proof.Machine.execTgdone f s
  | .tghwm f => Sys2Proof.Machine.execTghwm f s
  | .tgwait f => Sys2Proof.Machine.execTgwait f s
  | .rtcnt f => Sys2Proof.Machine.execRtcnt f s
  | .rtsnap f => Sys2Proof.Machine.execRtsnap f s
  | .rtbias f => Sys2Proof.Machine.execRtbias f s
  | .rtswap f => Sys2Proof.Machine.execRtswap f s
  | .vtake f => Sys2Proof.Machine.execVtake f s
  | .vtakeq f => Sys2Proof.Machine.execVtakeq f s
  | .cqpop f => Sys2Proof.Machine.execCqpop f s
  | .vbrq f => Sys2Proof.Machine.execVbrq f s
  | .viq f => Sys2Proof.Machine.execViq f s
  | .vqdrop f => Sys2Proof.Machine.execVqdrop f s
  | .vadd f => Sys2Proof.Machine.execVadd f s
  | .vsub f => Sys2Proof.Machine.execVsub f s
  | .vmul f => Sys2Proof.Machine.execVmul f s
  | .vmulh f => Sys2Proof.Machine.execVmulh f s
  | .vand f => Sys2Proof.Machine.execVand f s
  | .vor f => Sys2Proof.Machine.execVor f s
  | .vxor f => Sys2Proof.Machine.execVxor f s
  | .vsll f => Sys2Proof.Machine.execVsll f s
  | .vsrl f => Sys2Proof.Machine.execVsrl f s
  | .vsra f => Sys2Proof.Machine.execVsra f s
  | .vmin f => Sys2Proof.Machine.execVmin f s
  | .vmax f => Sys2Proof.Machine.execVmax f s
  | .vminu f => Sys2Proof.Machine.execVminu f s
  | .vmaxu f => Sys2Proof.Machine.execVmaxu f s
  | .vcmp f => Sys2Proof.Machine.execVcmp f s
  | .vsel f => Sys2Proof.Machine.execVsel f s
  | .vmv f => Sys2Proof.Machine.execVmv f s
  | .vbc f => Sys2Proof.Machine.execVbc f s
  | .vid f => Sys2Proof.Machine.execVid f s
  | .viota f => Sys2Proof.Machine.execViota f s
  | .vicvt f => Sys2Proof.Machine.execVicvt f s
  | .vfadd f => Sys2Proof.Machine.execVfadd f s
  | .vfsub f => Sys2Proof.Machine.execVfsub f s
  | .vfmul f => Sys2Proof.Machine.execVfmul f s
  | .vfma f => Sys2Proof.Machine.execVfma f s
  | .vfms f => Sys2Proof.Machine.execVfms f s
  | .vfnma f => Sys2Proof.Machine.execVfnma f s
  | .vfdiv f => Sys2Proof.Machine.execVfdiv f s
  | .vfsqrt f => Sys2Proof.Machine.execVfsqrt f s
  | .vfmin f => Sys2Proof.Machine.execVfmin f s
  | .vfmax f => Sys2Proof.Machine.execVfmax f s
  | .vfsgn f => Sys2Proof.Machine.execVfsgn f s
  | .vfcmp f => Sys2Proof.Machine.execVfcmp f s
  | .vfcvt f => Sys2Proof.Machine.execVfcvt f s
  | .vfclass f => Sys2Proof.Machine.execVfclass f s
  | .vfexp2 f => Sys2Proof.Machine.execVfexp2 f s
  | .vflog2 f => Sys2Proof.Machine.execVflog2 f s
  | .vfrcp f => Sys2Proof.Machine.execVfrcp f s
  | .vfrsq f => Sys2Proof.Machine.execVfrsq f s
  | .vftanh f => Sys2Proof.Machine.execVftanh f s
  | .vfsigm f => Sys2Proof.Machine.execVfsigm f s
  | .vferf f => Sys2Proof.Machine.execVferf f s
  | .vcompress f => Sys2Proof.Machine.execVcompress f s
  | .vexpand f => Sys2Proof.Machine.execVexpand f s
  | .vslup f => Sys2Proof.Machine.execVslup f s
  | .vsldn f => Sys2Proof.Machine.execVsldn f s
  | .vrgat f => Sys2Proof.Machine.execVrgat f s
  | .vext f => Sys2Proof.Machine.execVext f s
  | .vins f => Sys2Proof.Machine.execVins f s
  | .vredsum f => Sys2Proof.Machine.execVredsum f s
  | .vredmax f => Sys2Proof.Machine.execVredmax f s
  | .vredmin f => Sys2Proof.Machine.execVredmin f s
  | .vfredsum f => Sys2Proof.Machine.execVfredsum f s
  | .vfredmax f => Sys2Proof.Machine.execVfredmax f s
  | .vfredmin f => Sys2Proof.Machine.execVfredmin f s
  | .vscan f => Sys2Proof.Machine.execVscan f s
  | .vfscan f => Sys2Proof.Machine.execVfscan f s
  | .mand f => Sys2Proof.Machine.execMand f s
  | .mor f => Sys2Proof.Machine.execMor f s
  | .mxor f => Sys2Proof.Machine.execMxor f s
  | .mnot f => Sys2Proof.Machine.execMnot f s
  | .mpop f => Sys2Proof.Machine.execMpop f s
  | .mfirst f => Sys2Proof.Machine.execMfirst f s
  | .mset f => Sys2Proof.Machine.execMset f s
  | .vtrd f => Sys2Proof.Machine.execVtrd f s
  | .vtcd f => Sys2Proof.Machine.execVtcd f s
  | .vtwr f => Sys2Proof.Machine.execVtwr f s
  | .vrins f => Sys2Proof.Machine.execVrins f s
  | .vrcls f => Sys2Proof.Machine.execVrcls f s
  | .vrpick f => Sys2Proof.Machine.execVrpick f s
  | .eret => Sys2Proof.Machine.execEret s
  | .idle => Sys2Proof.Machine.execIdle s
  | .tlbinv f => Sys2Proof.Machine.execTlbinv f s
  | .crsave f => Sys2Proof.Machine.execCrsave f s
  | .crload f => Sys2Proof.Machine.execCrload f s
  | .fill f => Sys2Proof.Machine.execFill f s
  | .vsetlGrant k => Sys2Proof.Machine.execVsetlGrant k s
  | .waitwReread k => Sys2Proof.Machine.execWaitwReread k s
  | .barrierRelease k => Sys2Proof.Machine.execBarrierRelease k s
  | .divisionStart core xs => Sys2Proof.Machine.execDivisionStart core xs s
  | .divisionResult core xs => Sys2Proof.Machine.execDivisionResult core xs s
  | .viqHeadIssue k => Sys2Proof.Machine.execViqHeadIssue k s
  | .elementGroupAdvance k => Sys2Proof.Machine.execElementGroupAdvance k s
  | .coreClassRaiseComplete core => Sys2Proof.Machine.execCoreClassRaiseComplete core s
  | .coreClassFallComplete core => Sys2Proof.Machine.execCoreClassFallComplete core s
  | .loadTokenPush k n => Sys2Proof.Machine.execLoadTokenPush k n s
  | .vectorStorePerform k => Sys2Proof.Machine.execVectorStorePerform k s
  | .wcbLineDrain k n => Sys2Proof.Machine.execWcbLineDrain k n s
  | .scTicketDraw k => Sys2Proof.Machine.execScTicketDraw k s
  | .homeAccessPerform n => Sys2Proof.Machine.execHomeAccessPerform n s
  | .accessReplyReturn n => Sys2Proof.Machine.execAccessReplyReturn n s
  | .readSpan core blk first cnt => Sys2Proof.Machine.execReadSpan core blk first cnt s
  | .ownSpan core blk first cnt => Sys2Proof.Machine.execOwnSpan core blk first cnt s
  | .writeBackSpan core blk first cnt keep => Sys2Proof.Machine.execWriteBackSpan core blk first cnt keep s
  | .invalidateSpan core blk first cnt => Sys2Proof.Machine.execInvalidateSpan core blk first cnt s
  | .atomicPerform k => Sys2Proof.Machine.execAtomicPerform k s
  | .contributionAccept slice => Sys2Proof.Machine.execContributionAccept slice s
  | .chainClose slice n => Sys2Proof.Machine.execChainClose slice n s
  | .mcasHomeLock k => Sys2Proof.Machine.execMcasHomeLock k s
  | .mcasDecision k => Sys2Proof.Machine.execMcasDecision k s
  | .mcasHomeUnlock k => Sys2Proof.Machine.execMcasHomeUnlock k s
  | .mcasFinish k => Sys2Proof.Machine.execMcasFinish k s
  | .mcasDarkRelease k => Sys2Proof.Machine.execMcasDarkRelease k s
  | .packetReceive n => Sys2Proof.Machine.execPacketReceive n s
  | .versionNackReceive n => Sys2Proof.Machine.execVersionNackReceive n s
  | .packetResend n => Sys2Proof.Machine.execPacketResend n s
  | .creditReturnReceive die peer freed => Sys2Proof.Machine.execCreditReturnReceive die peer freed s
  | .flitAcknowledge die peer seq => Sys2Proof.Machine.execFlitAcknowledge die peer seq s
  | .laneDark die peer lane => Sys2Proof.Machine.execLaneDark die peer lane s
  | .pathDarkMark die peer => Sys2Proof.Machine.execPathDarkMark die peer s
  | .darkRequestTimeout n => Sys2Proof.Machine.execDarkRequestTimeout n s
  | .windowBlockFill k w blk => Sys2Proof.Machine.execWindowBlockFill k w blk s
  | .windowBlockEviction k w blk => Sys2Proof.Machine.execWindowBlockEviction k w blk s
  | .publicationAccept die ch => Sys2Proof.Machine.execPublicationAccept die ch s
  | .publicationPacketLand p mem => Sys2Proof.Machine.execPublicationPacketLand p mem s
  | .copyJobTake core => Sys2Proof.Machine.execCopyJobTake core s
  | .jobPacketLand core j => Sys2Proof.Machine.execJobPacketLand core j s
  | .jobSignalWrite core j => Sys2Proof.Machine.execJobSignalWrite core j s
  | .followOnPlace k => Sys2Proof.Machine.execFollowOnPlace k s
  | .collectiveContributionArrive c die elem => Sys2Proof.Machine.execCollectiveContributionArrive c die elem s
  | .collectiveResultArrive c die blk => Sys2Proof.Machine.execCollectiveResultArrive c die blk s
  | .failureNoticeReceive c die blk dark rep code => Sys2Proof.Machine.execFailureNoticeReceive c die blk dark rep code s
  | .matrixCommandStart core => Sys2Proof.Machine.execMatrixCommandStart core s
  | .mmaBlockRowComplete core => Sys2Proof.Machine.execMmaBlockRowComplete core s
  | .matrixCommandComplete core => Sys2Proof.Machine.execMatrixCommandComplete core s
  | .gangStepStart core => Sys2Proof.Machine.execGangStepStart core s
  | .nodePost k => Sys2Proof.Machine.execNodePost k s
  | .nodeDispatch die cls core => Sys2Proof.Machine.execNodeDispatch die cls core s
  | .crewPlacement die slot crews => Sys2Proof.Machine.execCrewPlacement die slot crews s
  | .crewStart k => Sys2Proof.Machine.execCrewStart k s
  | .highWaterArrive k => Sys2Proof.Machine.execHighWaterArrive k s
  | .crewRetire k => Sys2Proof.Machine.execCrewRetire k s
  | .pageWalkStart die ctx va => Sys2Proof.Machine.execPageWalkStart die ctx va s
  | .pageWalkComplete die n => Sys2Proof.Machine.execPageWalkComplete die n s
  | .tlbinvTargetDrop n die => Sys2Proof.Machine.execTlbinvTargetDrop n die s
  | .runOnStop k => Sys2Proof.Machine.execRunOnStop k s
  | .runOnLimit k => Sys2Proof.Machine.execRunOnLimit k s
  | .trapRecordWrite die => Sys2Proof.Machine.execTrapRecordWrite die s
  | .latchTake die => Sys2Proof.Machine.execLatchTake die s
  | .tctlPreempt k => Sys2Proof.Machine.execTctlPreempt k s
  | .preemptStop k => Sys2Proof.Machine.execPreemptStop k s
  | .tctlEnd k => Sys2Proof.Machine.execTctlEnd k s
  | .crewEndComplete k => Sys2Proof.Machine.execCrewEndComplete k s
  | .targetEpcWrite k xs v => Sys2Proof.Machine.execTargetEpcWrite k xs v s
  | .contextSaveWrite k => Sys2Proof.Machine.execContextSaveWrite k s
  | .contextLoadComplete k => Sys2Proof.Machine.execContextLoadComplete k s
  | .pswapGo die p => Sys2Proof.Machine.execPswapGo die p s
  | .pswapClear die p => Sys2Proof.Machine.execPswapClear die p s
  | .pswapDone die => Sys2Proof.Machine.execPswapDone die s
  | .lpartWrite core v => Sys2Proof.Machine.execLpartWrite core v s
  | .partitionTableWrite die p v => Sys2Proof.Machine.execPartitionTableWrite die p v s
  | .groupEntryWrite die g v => Sys2Proof.Machine.execGroupEntryWrite die g v s
  | .publicationEntryWrite die ch v => Sys2Proof.Machine.execPublicationEntryWrite die ch v s
  | .subscriptionEntryWrite die n v => Sys2Proof.Machine.execSubscriptionEntryWrite die n v s
  | .qpEntryWrite die q v => Sys2Proof.Machine.execQpEntryWrite die q v s
  | .keyEntryWrite die sel v => Sys2Proof.Machine.execKeyEntryWrite die sel v s
  | .routeEntryWrite die peer v => Sys2Proof.Machine.execRouteEntryWrite die peer v s
  | .linkTrainingComplete die peer flight lanes ident => Sys2Proof.Machine.execLinkTrainingComplete die peer flight lanes ident s
  | .sysCfailRead k => Sys2Proof.Machine.execSysCfailRead k s
  | .sysTdropRead die => Sys2Proof.Machine.execSysTdropRead die s
  | .portDropsRead die p => Sys2Proof.Machine.execPortDropsRead die p s
  | .droopCounterRead die => Sys2Proof.Machine.execDroopCounterRead die s
  | .ptpSecondsRead chip => Sys2Proof.Machine.execPtpSecondsRead chip s
  | .circuitChangeRequest k v => Sys2Proof.Machine.execCircuitChangeRequest k v s
  | .peerChangeRequestReceive chip ident => Sys2Proof.Machine.execPeerChangeRequestReceive chip ident s
  | .grantReceive chip => Sys2Proof.Machine.execGrantReceive chip s
  | .grantTimeout chip => Sys2Proof.Machine.execGrantTimeout chip s
  | .drainMarkerArrive die peer => Sys2Proof.Machine.execDrainMarkerArrive die peer s
  | .drainTimeout chip => Sys2Proof.Machine.execDrainTimeout chip s
  | .mirrorNoticeReceive chip => Sys2Proof.Machine.execMirrorNoticeReceive chip s
  | .mirrorTimeout chip => Sys2Proof.Machine.execMirrorTimeout chip s
  | .trainingPhaseEnd chip => Sys2Proof.Machine.execTrainingPhaseEnd chip s
  | .coldReset chip fw => Sys2Proof.Machine.execColdReset chip fw s
  | .attestationRequest k v => Sys2Proof.Machine.execAttestationRequest k v s
  | .attestationComplete chip => Sys2Proof.Machine.execAttestationComplete chip s
  | .hbmScrubRead word bad => Sys2Proof.Machine.execHbmScrubRead word bad s
  | .rdmaWrite die pkt => Sys2Proof.Machine.execRdmaWrite die pkt s
  | .rdmaReadRequest die pkt => Sys2Proof.Machine.execRdmaReadRequest die pkt s
  | .compareAndSwap die pkt => Sys2Proof.Machine.execCompareAndSwap die pkt s
  | .fetchAndAdd die pkt => Sys2Proof.Machine.execFetchAndAdd die pkt s
  | .arpRequest die p ip => Sys2Proof.Machine.execArpRequest die p ip s
  | .neighbourSolicitation die p ip => Sys2Proof.Machine.execNeighbourSolicitation die p ip s
  | .priorityFlowControlFrame die p pri pause => Sys2Proof.Machine.execPriorityFlowControlFrame die p pri pause s
  | .ethernetFrameDrop die p => Sys2Proof.Machine.execEthernetFrameDrop die p s
  | .sync chip p sender t2 t1 twoStep => Sys2Proof.Machine.execSync chip p sender t2 t1 twoStep s
  | .followUp chip p sender t1 => Sys2Proof.Machine.execFollowUp chip p sender t1 s
  | .delayReq chip t3 => Sys2Proof.Machine.execDelayReq chip t3 s
  | .delayResp chip p sender t4 => Sys2Proof.Machine.execDelayResp chip p sender t4 s
  | .announce chip p sender dataset => Sys2Proof.Machine.execAnnounce chip p sender dataset s
  | .telemetrySampleCommand chip sec ns => Sys2Proof.Machine.execTelemetrySampleCommand chip sec ns s
  | .diePowerSample die power => Sys2Proof.Machine.execDiePowerSample die power s
  | .telemetryRecordWrite chip => Sys2Proof.Machine.execTelemetryRecordWrite chip s
  | .limiterInterval chip demand fillable => Sys2Proof.Machine.execLimiterInterval chip demand fillable s
  | .floorArrive chip => Sys2Proof.Machine.execFloorArrive chip s
  | .rampWrite chip v => Sys2Proof.Machine.execRampWrite chip v s
  | .droopDetect die island => Sys2Proof.Machine.execDroopDetect die island s
  | .signatureWindowEnd core sig => Sys2Proof.Machine.execSignatureWindowEnd core sig s
  | .throttleEnd core => Sys2Proof.Machine.execThrottleEnd core s
  | .droopTableClear die => Sys2Proof.Machine.execDroopTableClear die s
  | .laneGroupGate core lg => Sys2Proof.Machine.execLaneGroupGate core lg s
  | .laneGroupWake core lg => Sys2Proof.Machine.execLaneGroupWake core lg s
  | .vfChangeRequest die island v => Sys2Proof.Machine.execVfChangeRequest die island v s
  | .vfChangeComplete die island mv => Sys2Proof.Machine.execVfChangeComplete die island mv s
  | .junctionCap die on => Sys2Proof.Machine.execJunctionCap die on s
  | .thermalTrip chip => Sys2Proof.Machine.execThermalTrip chip s
  | .portLinkTrained die p => Sys2Proof.Machine.execPortLinkTrained die p s
  | .portLinkLoss die p => Sys2Proof.Machine.execPortLinkLoss die p s
  | .lossOfSupply chip => Sys2Proof.Machine.execLossOfSupply chip s

end Sys2Proof.Machine
end

