-- ==== Sys2Proof/Machine/Step.lean ====
section
/-!
DEFINITION. One step of the pod: the turn at the head of the agenda, else the machine's own choice (log entry 1); and
the placing of one instruction where the next step fetches it (log entry 12).
-/
namespace Sys2Proof.Machine

/-- One instruction of a sequencer: fetch it and execute it, or stay. -/
def runSeqr (k : Nat) (xs : Bool) (s : State) : Host.Outcome State Fault Refusal :=
  match fetch k xs s with
  | .run i s => exec i s
  | .stay s => .next s

/-- The machine's own choice when the agenda is empty. -/
def ownTurn (s : State) : Host.Outcome State Fault Refusal :=
  match autoEvent s with
  | some s => .next s
  | none =>
    match nextSeqr s with
    | some n => runSeqr (n / 2) (n % 2 == 1) { s with next := n }
    | none => .next s

/-- DESIGN CHOICE, log entry 1. -/
def step (s : State) : Host.Outcome State Fault Refusal :=
  match s.agenda with
  | .event i :: r => exec i { s with agenda := r }
  | .seq k xs :: r => runSeqr k xs { s with agenda := r }
  | [] => ownTurn s

/-- The PC at which withFetchWord places an instruction: slot 1 of the line at offset 0 of core 0's scratchpad. -/
def placePc : Word := 0x1800000000000002

/-- Crew 0 is resident on core 0 in context 0 and runs; the line of the instruction stands at offset 0 of its
scratchpad, and the PC of the stream of its opcode class is at slot 1; that sequencer has the next turn.
DESIGN CHOICE, log entry 12. -/
def State.withFetchWord (s : State) (nbits w : Nat) : State :=
  let xs := headOp (w % 2 ^ 16) / 256 == 2
  let s := s.setReg 0 0xC00 3
  let s := s.modCore 0 (fun c => { c with s := max c.s 1, owner := some 0 })
  let s := s.modCrew 0 (fun c => ({ c with state := 1, ctx := 0, stop := .none, estep := 0 }).setSeq xs
    { c.seq xs with run := .running, pc := placePc, busy := [], pend := [], loops := [], wait := none, lines := [] })
  let s := s.write (((List.range 64).map (spadByte 0 ·)).zip ((lineOfWord nbits w).map (fun b => ⟨b, false⟩)))
  { s with agenda := [.seq 0 xs] }

end Sys2Proof.Machine
end

