-- ==== Sys2Proof/Safety.lean ====
section
/-!
DEFINITION. The terms in which statements about the machine are made: when an instruction does not wait or trap before it
begins, what going on to the next instruction leaves, and the effects that groups of instructions share.
-/
namespace Sys2Proof.Machine

/-! ### Before an instruction -/

/-- The value that an instruction of the current sequencer reads from register r. -/
def State.val (s : State) (r : Nat) : Word := (s.seqr.read r).v

/-- No register of rs or ws awaits an interlocked result (R51), no value read is poisoned (R115), and with stall checking on
no register of rs is read at a distance that is too short (R52). -/
def State.ready (s : State) (rs ws : List Nat) : Bool :=
  (rs ++ ws).all (fun r => r == 0 || !s.seqr.busy.contains r)
    && rs.all (fun r => !(s.seqr.read r).p)
    && (!(s.core s.myCore).ckstall || rs.all (fun r => r == 0 || s.seqr.pend.all (fun p => p.reg != r)))

/-- Stepping is on for the current slice: ESTEP follows the instruction (R418). -/
def State.stepping (s : State) : Bool := bitOf s.myCrew.estep (if s.cur.xs then 0 else 1)

/-- The instruction stands at the end PC of an active loop level (R313). -/
def State.atLevelEnd (s : State) : Bool := s.seqr.loops.any (fun l => l.stop == s.seqr.pc)

/-! ### After an instruction -/

/-- The loop levels and the PC after an instruction that completes in sequence (R38, R313). -/
def State.after (s : State) : List LoopLevel × Word :=
  match loopEnd s.seqr.pc s.cur.link s.seqr.loops with
  | (ls, n, _) => (ls, n)

/-- Of the current sequencer of s, what no scalar result touches is in q as it was. -/
def Seqr.Kept (p q : Seqr) : Prop :=
  q.run = p.run ∧ q.busy = p.busy ∧ q.vl = p.vl ∧ q.vtype = p.vtype ∧ q.share = p.share

/-- The current sequencer of s has in t gone on to the next instruction in sequence. -/
def State.WentOn (s t : State) : Prop :=
  t.seqr.pc = s.after.2 ∧ t.seqr.loops = s.after.1 ∧ t.seqr.wait = none ∧ s.seqr.Kept t.seqr

/-- As WentOn, where the instruction also sets the vector length, type or share of its sequencer, or its interlocks. -/
def State.Advanced (s t : State) : Prop :=
  t.seqr.pc = s.after.2 ∧ t.seqr.loops = s.after.1 ∧ t.seqr.wait = none ∧ t.seqr.run = s.seqr.run

/-- The current sequencer of s has in t transferred control to pc; no loop level has changed. -/
def State.Jumped (s t : State) (pc : Word) : Prop :=
  t.seqr.pc = pc ∧ t.seqr.loops = s.seqr.loops ∧ t.seqr.wait = none ∧ s.seqr.Kept t.seqr

/-- Nothing of the pod but the current sequencer differs between s and t, and no byte of memory does. -/
def State.OnlySeqr (s t : State) : Prop := t = s.setSeqr t.seqr ∧ ∀ p, t.byte p = s.byte p

/-- Nothing of the pod but the current crew differs between s and t, that crew is c but for its current sequencer, and no byte
of memory differs. -/
def State.OnlyCrew (s t : State) (c : Crew) : Prop :=
  t = s.setCrew s.me (c.setSeq s.cur.xs t.seqr) ∧ ∀ p, t.byte p = s.byte p

/-- Every register of the current sequencer but d holds in t what it held in s. -/
def State.OtherRegs (s t : State) (d : Nat) : Prop := ∀ r, r ≠ d → t.seqr.reg r = s.seqr.reg r

/-- No register of the current sequencer differs. -/
def State.SameRegs (s t : State) : Prop := ∀ r, t.seqr.reg r = s.seqr.reg r

/-- Register d holds v in t and is read so at once, unless d is register 0, which holds zero (R54); no other register has
changed. -/
def State.Sets (s t : State) (d : Nat) (v : Scalar) : Prop :=
  t.seqr.reg d = (if d = 0 then {} else v) ∧ t.seqr.read d = (if d = 0 then {} else v) ∧ s.OtherRegs t d

/-- Register d holds v in t, unless d is register 0, which holds zero (R54). A reader issued at a distance below L reads what
d held in s (R52). -/
def State.Result (s t : State) (d : Nat) (v : Word) (L : Nat) : Prop :=
  t.seqr.reg d = (if d = 0 then {} else ⟨v, false⟩)
    ∧ t.seqr.read d = (if d = 0 then {} else if 1 + s.cur.st < L then s.seqr.reg d else ⟨v, false⟩)

/-- A scalar instruction has written v to d with latency L and gone on; nothing else has changed. -/
def State.Wrote (s t : State) (d : Nat) (v : Word) (L : Nat) : Prop :=
  s.Result t d v L ∧ s.OtherRegs t d ∧ s.WentOn t ∧ s.OnlySeqr t

/-- Instruction i completes and writes v to d with latency L, and nothing else changes. -/
def State.Gives (s : State) (i : Instr) (d : Nat) (v : Word) (L : Nat) : Prop :=
  ∃ t, exec i s = .next t ∧ s.Wrote t d v L

/-- Instruction i completes and goes on; no register and nothing else changes. -/
def State.OnlyAdvances (s : State) (i : Instr) : Prop :=
  ∃ t, exec i s = .next t ∧ s.WentOn t ∧ s.SameRegs t ∧ s.OnlySeqr t

/-- Instruction i completes and control goes to pc; no register and nothing else changes. -/
def State.OnlyJumps (s : State) (i : Instr) (pc : Word) : Prop :=
  ∃ t, exec i s = .next t ∧ s.Jumped t pc ∧ s.SameRegs t ∧ s.OnlySeqr t

/-- The crew of s has in t taken trap c in its current slice, with all that R398 to R403 say of it: the slice is halted at pc,
the crew is stopping, and nothing outside the crew has changed. -/
def State.Trapped (s t : State) (c : Trap) (pc : Word) : Prop :=
  t = takeTrap c s ∧ t.seqr.run = .halted ∧ t.seqr.pc = pc ∧ t.myCrew.stop = .trap
    ∧ (s.myCrew.stop ≠ .trap → t.myCrew.trap.cause = c.word s.cur.xs ∧ t.myCrew.trap.cause2 = 0)
    ∧ (s.myCrew.stop = .trap → t.myCrew.trap = { s.myCrew.trap with cause2 := c.word s.cur.xs })
    ∧ s.SameRegs t ∧ ∀ p, t.byte p = s.byte p

/-- Instruction i raises trap c. -/
def State.Raises (s : State) (i : Instr) (c : Trap) (pc : Word) : Prop := ∃ t, exec i s = .next t ∧ s.Trapped t c pc

/-- What a step of an agent leaves of memory: every byte, but those of ps. -/
def State.KeepsBytes (s t : State) (ps : List Nat) : Prop := ∀ p, p ∉ ps → t.byte p = s.byte p

/-- Instruction i waits: it stands at its PC, to be executed again, and nothing of it has happened. -/
def State.RunsLater (s : State) (i : Instr) : Prop :=
  ∃ t, exec i s = .next t ∧ t.seqr.pc = s.seqr.pc ∧ t.seqr.wait = some i ∧ s.SameRegs t ∧ s.KeepsBytes t []
    ∧ t.cores = s.cores ∧ ∀ k, k ≠ s.me → t.crew k = s.crew k

/-- Crew k waits in one slice at an instruction that fetch still finds there, and s' is the state in which it runs again. -/
def State.RunsAgain (s : State) (k : Nat) (xs : Bool) (i : Instr) (s' : State) : Prop :=
  ((s.crew k).seq xs).wait = some i ∧ fetch k xs s = .run i s'

/-! ### vsetl (R99, R100) -/

/-- The class that a vsetl is granted: the one it asks for, up to the cap of its launch. -/
def State.grantClass (s : State) (f : T32e) : Nat := min (f.imm.extractLsb' 4 2).toNat s.myCrew.cap

/-- The grant of R100: the least of the requested length, VLMAX (R99) and, for a crew bound to a producer, the elements
that it has finished and this crew has not taken. -/
def State.grantOf (s : State) (f : T32e) : Nat :=
  let g := (s.shareOf s.me).g
  let w := 2 ^ (f.imm.extractLsb' 0 2).toNat
  let lmul := 2 ^ (f.imm.extractLsb' 2 2).toNat
  let c := s.myCrew.chain
  min (min (s.val f.a.toNat).toNat (min 16384 (256 * g * (1 + s.grantClass f) / w * lmul)))
    (if c.bound then c.hwm.toNat - c.pos.toNat else 2 ^ 64 - 1)

/-- A vsetl need not wait: cq has a free entry, and the core class reaches the class it is granted. -/
def State.mayGrant (s : State) (f : T32e) : Prop :=
  s.cur.xs = false ∧ s.stepping = false ∧ s.ready [f.a.toNat] [f.d.toNat] = true ∧ s.myCrew.state ≠ 0
    ∧ s.myCrew.cq.length < 16 ∧ s.grantClass f ≤ (s.core s.myCore).cls
    ∧ (s.shareOf s.me).b < 8 ∧ (s.shareOf s.me).g ≤ 8

/-- What a vsetl that is granted leaves (R100, R102, R104): the grant in d and vl, its type and share, a length token, and zero in
the lanes that have joined its share and in what a higher class brings within reach. -/
def State.Granted (s : State) (f : T32e) (t : State) : Prop :=
  let n := s.grantOf f
  let sh := s.shareOf s.me
  s.Sets t f.d.toNat ⟨BitVec.ofNat 64 n, false⟩ ∧ s.Advanced t
    ∧ t.seqr.vl = n ∧ t.seqr.share = sh
    ∧ t.seqr.vtype = ⟨(f.imm.extractLsb' 0 2).toNat, (f.imm.extractLsb' 2 2).toNat, s.grantClass f⟩
    ∧ (∃ v : Word, t.myCrew.cq = s.myCrew.cq ++ [⟨true, v⟩] ∧ (v.extractLsb' 0 15).toNat = n
        ∧ (v.extractLsb' 16 2).toNat = (f.imm.extractLsb' 0 2).toNat
        ∧ (v.extractLsb' 18 2).toNat = (f.imm.extractLsb' 2 2).toNat ∧ (v.extractLsb' 20 2).toNat = s.grantClass f
        ∧ (v.extractLsb' 24 3).toNat = sh.b ∧ (v.extractLsb' 27 4).toNat = sh.g)
    ∧ t.myCrew.asked = s.grantClass f
    ∧ (s.myCrew.chain.bound = true → t.myCrew.chain.pos = s.myCrew.chain.pos + BitVec.ofNat 64 n)
    ∧ (let k1 := s.seqr.vtype.cls
       let k2 := s.grantClass f
       let vlmax := fun (c : Nat) =>
         min 16384 (256 * sh.g * (1 + c) / 2 ^ (f.imm.extractLsb' 0 2).toNat * 2 ^ (f.imm.extractLsb' 2 2).toNat)
       (∀ reg lane b, lane < 64 → b < 128 → get {} (t.core s.myCore).vregs (vkey reg lane b) =
          if (sh.has (lane / 8) = true ∧ s.myCrew.pshare.has (lane / 8) = false)
            ∨ (k1 < k2 ∧ sh.has (lane / 8) = true ∧ 32 * (1 + k1) ≤ b ∧ b < 32 * (1 + k2)) then {}
          else get {} (s.core s.myCore).vregs (vkey reg lane b))
        ∧ ∃ cut : BitVec 16384 → BitVec 16384,
          (∀ m i, i < 16384 → (cut m).getLsbD i = (m.getLsbD i && !(decide (k1 < k2) && decide (vlmax k1 ≤ i) && decide (i < vlmax k2))))
          ∧ t.myCrew.masks = (s.myCrew.masks.map (fun e => (e.1, cut e.2))).filter (fun e => e.2 != 0))
    ∧ (∀ k, k ≠ s.me → t.crew k = s.crew k) ∧ s.KeepsBytes t []

/-! ### Memory as a crew sees it (R199 to R207) -/

/-- What crew k reads of a byte: its own held store, else memory. -/
def State.seen (s : State) (k p : Nat) : VByte := (wcbByte (s.crew k).wcb p).getD (s.vbyte p)

/-- Bytes that the write-combining buffer of crew k holds. -/
def State.heldBytes (s : State) (k : Nat) : List Nat :=
  (s.crew k).wcb.flatMap (fun l => l.bytes.map (fun e => 64 * l.line + e.1))

/-- The buffer is as R207 has it: one entry for each line, one value for each byte of a line. -/
def Crew.wcbOk (c : Crew) : Prop :=
  (c.wcb.map (·.line)).Nodup ∧ ∀ l ∈ c.wcb, (l.bytes.map (·.1)).Nodup ∧ ∀ e ∈ l.bytes, e.1 < 64

/-- No mcas, no chain and no other requester holds crew k up at any byte. -/
def State.unlocked (s : State) (k : Nat) : Prop := (∀ ps, s.admits k ps = true) ∧ ∀ e ∈ s.fifo, e.2 / 2 = k

/-- Crew k has nothing to drain: its buffer is empty, every access that it has issued is performed, the elements of its vector loads
are read, and no contribution of its reductions waits. -/
def State.drained (s : State) (k : Nat) : Prop :=
  (s.crew k).wcb = [] ∧ (s.crew k).unperformed = false ∧ (s.crew k).unread = false ∧ redPending s k = false

/-- An access of crew k to n bytes passes every check and leads to the bytes of l: its translation is at hand, and no byte
has an undetected error. -/
def State.Reaches (s : State) (k : Nat) (acc : Acc) (ga n : Nat) (l : Located) : Prop :=
  checkAccess s k acc ga n = (.ok (.mem l), s) ∧ s.anyBad l.bytes = false

/-- Access number n of crew k may be performed at the bytes of l now, and the crew stands in no order of arrival there (R201, R273). -/
def State.comes (s : State) (k n : Nat) (l : Located) : Prop :=
  s.letsAt k n l.kind l.bytes = true ∧ s.leave (2 * k) l.bytes = s

/-- The value of little-endian bytes, and whether one is marked. -/
def valueOf (bs : List VByte) : Scalar := ⟨BitVec.ofNat 64 (leNat (bs.map (·.b))), bs.any (·.p)⟩

/-- A site of the crew's own die, or a block of a window, gives bs to access number n of crew k at once, and nothing else happens. -/
def State.SiteGives (s : State) (k n : Nat) (bs : List VByte) : Site → Prop
  | .mem l => s.comes k n l ∧ s.anyBad l.bytes = false ∧ byteDie (l.bytes.headD 0) = crewDie k ∧ bs = l.bytes.map (s.seen k)
  | .win w off m => bs = (List.range m).map (fun i =>
      (get [] (get {} (s.crew k).win w).blocks ((off + i) / 256)).getD ((off + i) % 256) {})

/-- A read by crew k of n bytes passes every check and delivers bs, from memory or from a block of a window. -/
def State.Reads (s : State) (k ga n : Nat) (bs : List VByte) : Prop :=
  ∃ site, checkAccess s k .read ga n = (.ok site, s) ∧ s.SiteGives k (s.crew k).acc bs site

/-- Vector load num of crew k reads an element of n bytes now: what it delivers, and the cause of a fault (R240, R243). -/
def State.Fetches (s : State) (k num n : Nat) : Spot → Elem → Option Nat → Prop
  | .off, e, c => e = ⟨0, false, false⟩ ∧ c = none
  | .fault t, e, c => t.code ≠ Cause.darkpath ∧ e = ⟨0, true, true⟩ ∧ c = some t.code
  | .at l, e, c => ∃ bs, s.SiteGives k num bs (.mem l) ∧ e = ⟨(valueOf bs).v, true, (valueOf bs).p⟩ ∧ c = none
  | .win w off m, e, c => windowAccess s k w off m = (.ok (), s)
      ∧ ∃ bs, s.SiteGives k num bs (.win w off m) ∧ e = ⟨(valueOf bs).v, true, (valueOf bs).p⟩ ∧ c = none
  | .ask ga _, e, c => (∃ site bs, checkAccess s k .read ga n = (.ok site, s) ∧ s.SiteGives k num bs site
        ∧ e = ⟨(valueOf bs).v, true, (valueOf bs).p⟩ ∧ c = none)
      ∨ ∃ t, checkAccess s k .read ga n = (.fault t, s) ∧ t.code ≠ Cause.darkpath ∧ e = ⟨0, true, true⟩ ∧ c = some t.code

/-- The last of these writes to byte p. -/
def lastTo (cells : List (Nat × Byte)) (p : Nat) : Option Byte := (cells.reverse.find? (fun c => c.1 == p)).map (·.2)

/-- The bytes of one value, from the lowest one on. -/
def bytesTo (l : Located) (v : Word) : List (Nat × Byte) := l.bytes.zip (leBytes l.bytes.length v.toNat)

/-- Crew k has in t stored these bytes, in this order: it reads them, and what it read before of every other byte. Memory has
changed at most at bytes stored to, now or before. -/
def State.Stored (s t : State) (k : Nat) (cells : List (Nat × Byte)) : Prop :=
  (∀ p, (t.seen k p).b = (lastTo cells p).getD (s.seen k p).b) ∧ s.KeepsBytes t (cells.map (·.1) ++ s.heldBytes k)

/-- What no memory access of crew k touches: vectors, queues to its X stream, masks, and the other crews. -/
def State.KeepsOf (s t : State) (k : Nat) : Prop :=
  (t.core (crewCore k)).vregs = (s.core (crewCore k)).vregs ∧ (t.crew k).masks = (s.crew k).masks
    ∧ (t.crew k).viq = (s.crew k).viq ∧ (t.crew k).lq = (s.crew k).lq ∧ (t.crew k).cq = (s.crew k).cq
    ∧ ∀ j, j ≠ k → t.crew j = s.crew j

/-- What no memory access of the current crew touches. -/
def State.KeepsCompute (s t : State) : Prop := s.KeepsOf t s.me

/-- Packets of n flits leave one die for another at once: the two are one, or a lane is in service and the sender has the credits
(R282, R283). -/
def State.affords (s : State) (src dst n : Nat) : Prop := src = dst ∨ (0 < routeLanes s src dst ∧ n ≤ credits s src dst)

/-- What crew k has written, of this many flits, goes to a die at once: it is the crew's own, or the path is dark, or its chip sends and
the die can afford it (R207, R284, R424). -/
def State.delivers (s : State) (k dst n : Nat) : Prop :=
  n = 0 ∨ pathDown s (crewDie k) dst = true ∨ crewDie k = dst
    ∨ (sending s (crewDie k) = true ∧ s.affords (crewDie k) dst n)

/-- The answer of this many flits comes back from a die to crew k at once. -/
def State.answers (s : State) (k src n : Nat) : Prop := pathDown s (crewDie k) src = true ∨ s.affords src (crewDie k) n

/-- Flits of the lines that crew k holds for a die. -/
def State.heldFlits (s : State) (k dst : Nat) : Nat :=
  (((s.crew k).wcb.filter (fun l => byteDie (64 * l.line) == dst)).map (fun l => flits l.bytes.length)).sum

/-- Crew k may store: its A stream has not exited, its buffer is in order, nothing holds it up, its lines can drain, and the members
owed for held lines are its own. -/
def State.buffers (s : State) (k : Nat) : Prop :=
  (s.crew k).a.run ≠ .exited ∧ (s.crew k).wcbOk ∧ s.unlocked k ∧ (∀ d, s.delivers k d (s.heldFlits k d))
    ∧ ∀ o ∈ (s.crew k).owed, ∀ m, o.member = some m → m.crew = k

/-- The current crew executes an A instruction that may store: it runs without stepping, and it may store. -/
def State.mayStore (s : State) : Prop := s.cur.xs = false ∧ s.stepping = false ∧ s.buffers s.me

/-- The effective address of R235. -/
def State.address (s : State) (f : T48c) : Nat := (s.val f.a.toNat + f.imm.signExtend 64).toNat

/-! ### Atomic operations on memory (R261 to R268) -/

/-- Bytes without marks or undetected errors. -/
def State.clean (s : State) (ps : List Nat) : Prop := s.anyBad ps = false ∧ ∀ p ∈ ps, (s.vbyte p).p = false

/-- The 8 bytes of a word of memory. -/
def wordBytes (w : Nat) : List Nat := (List.range 8).map (8 * w + ·)

/-- An access has been located at n consecutive bytes from p on, inside one word. -/
def Located.within (l : Located) (p n : Nat) : Prop := l.bytes = (List.range n).map (p + ·) ∧ 0 < n ∧ p % 8 + n ≤ 8

/-- The bytes of memory after one atomic operation at the bytes of l (R261). -/
def amoByte (aop : Nat) (l : Located) (x : Word) (m : Nat → Byte) (p : Nat) : Byte :=
  let n := l.bytes.length
  if p ∈ l.bytes then (leBytes n (atomicOp aop n (leNat (l.bytes.map m)) x.toNat)).getD (p - l.bytes.headD 0) 0 else m p

/-- Elements of a vector atomic in turn (R265): the bytes of memory that they leave, and what each returns. -/
def amoRun (aop : Nat) : List (Spot × Elem) → (Nat → Byte) → (Nat → Byte) × List Elem
  | [], m => (m, [])
  | (x, e) :: r, m =>
    let go := fun (m : Nat → Byte) (v : Elem) => ((amoRun aop r m).1, v :: (amoRun aop r m).2)
    if e.act then match x with
      | .at l => go (amoByte aop l e.v m) ⟨BitVec.ofNat 64 (leNat (l.bytes.map m)), true, false⟩
      | .fault _ | .ask .. => go m ⟨0, true, true⟩
      | .off | .win .. => go m ⟨0, false, false⟩
    else go m ⟨0, false, false⟩

/-- The contribution of an element of a vector reduction: its place, its operation and its operand (R266). -/
def contributionOf (aop : Nat) (m : Option Member) (num : Nat) (x : Spot × Elem) : Option Contribution :=
  match x.1, x.2.act with
  | .at l, true => some ⟨l.bytes.headD 0 / 8, l.bytes.headD 0 % 8, aop, l.bytes.length, ⟨x.2.v, x.2.p⟩, m, num, l.kind == 1⟩
  | _, _ => none

/-- The contributions that wait at every slice of every die are in t those of s, with these behind them in order. -/
def State.Contributed (s t : State) (cs : List Contribution) : Prop :=
  ∀ d i, (get {} (t.die d).slices i).wait = (get {} (s.die d).slices i).wait
    ++ cs.filter (fun c => byteDie (8 * c.word) == d && byteSlice (8 * c.word) == i)

/-- Access j of crew k is the first that stores; its elements left begin at pos in the token that heads its queue, and the next step
ones stand there. -/
def State.Storing (s : State) (k : Nat) (pre post : List LoadJob) (j : LoadJob) (p : StorePart) (t : Tok) (r : List Tok) (step : Nat) :
    Prop :=
  (s.crew k).loads = pre ++ j :: post ∧ (∀ x ∈ pre, x.store = none) ∧ j.store = some p ∧ p.data = none
    ∧ (s.crew k).sqAt p.sq = t :: r
    ∧ p.left.length ≤ t.n ∧ (∀ m, j.member = some m → m.crew = k)
    ∧ ((t.elems.drop (t.n - p.left.length)).take (min step p.left.length)).length = min step p.left.length

/-- The next step elements, with where each goes. -/
def StorePart.group (p : StorePart) (t : Tok) (step : Nat) : List (Spot × Elem) :=
  p.left.zip ((t.elems.drop (t.n - p.left.length)).take (min step p.left.length))

/-- The next part of an access has been performed, step entries of those left: with the last, its token and the token of iq that named its
elements are popped and the access ends in fin; else both stand, after it. -/
def State.Performed (s s' : State) (k : Nat) (pre post : List LoadJob) (j : LoadJob) (p : StorePart) (t : Tok) (r : List Tok)
    (step : Nat) (todo : List Elem) (fin : List LoadJob) : Prop :=
  (s'.crew k).a = (s.crew k).a ∧ (s'.crew k).x = (s.crew k).x
    ∧ (p.left.length ≤ step → (s'.crew k).sqAt p.sq = r ∧ (s'.crew k).loads = pre ++ fin ++ post
        ∧ (s'.crew k).iq = if p.iq then (s.crew k).iq.tail else (s.crew k).iq)
    ∧ (step < p.left.length → (s'.crew k).iq = (s.crew k).iq
        ∧ ∃ t' j' p', (s'.crew k).sqAt p.sq = t' :: r ∧ t'.elems = t.elems ∧ t'.n = t.n ∧ t.freed ≤ t'.freed
          ∧ (s'.crew k).loads = pre ++ j' :: post ∧ j'.store = some p' ∧ p'.left = p.left.drop step ∧ p'.op = p.op ∧ p'.sq = p.sq
          ∧ p'.iq = p.iq ∧ j'.member = j.member ∧ j'.num = j.num ∧ j'.todo = todo)

/-- Elements of access num of crew k may be performed where they have been located, as far as its order goes (R201, R204). -/
def State.mayGo (s : State) (k num : Nat) (l : Located) : Prop :=
  ((s.crew k).before num).pendingAt l.kind l.bytes = false ∧ (l.kind = 1 → s.soReds k = false)

/-- Where n bytes of the crew's own scratchpad are, at an address of space 1 with self = 1 (R25). -/
def State.ownPlace (s : State) (k ga n : Nat) : Option Located :=
  let off := ga % 2 ^ 20
  let c := s.core (crewCore k)
  if ga = 2 ^ 60 + 2 ^ 59 + crewCore k % 64 * 2 ^ 45 + off ∧ off + n ≤ 8192 * c.s ∧ c.owner = some (s.crew k).ctx then
    some { bytes := (List.range n).map (fun i => spadByte (crewCore k) (off + i)), kind := 0, cached := false, lev := 0 }
  else none

/-- A place of n bytes still to be checked, as its check finds it where it lies in the crew's own scratchpad. -/
def State.resolved (s : State) (k n : Nat) : Spot → Spot
  | .ask ga h => match s.ownPlace k ga n with
    | some l => .at l
    | none => .ask ga h
  | x => x

/-- The next step elements of an access of crew k, of n bytes each, with the places that are known by themselves resolved. -/
def State.groupOf (s : State) (k n : Nat) (p : StorePart) (t : Tok) (step : Nat) : List (Spot × Elem) :=
  (p.group t step).map (fun x => (s.resolved k n x.1, x.2))

/-- Requests of crew k of this many flits in all, and answers of as many, pass between its die and another (R282). -/
def State.trades (s : State) (k dst n : Nat) : Prop :=
  crewDie k = dst ∨ (pathDown s (crewDie k) dst = false ∧ sending s (crewDie k) = true ∧ s.affords (crewDie k) dst n
    ∧ s.affords dst (crewDie k) n)

/-! ### Engines and events (R221, R302, R422) -/

/-- No die has an error ring: what is logged is written nowhere (R422). -/
def State.noRing (s : State) : Prop := ∀ d, wfield (s.reg d 0x111) 0 6 = 0

/-- What waits for a lock on a die is nothing (R273). -/
def State.noWaiters (s : State) (d : Nat) : Prop := (s.die d).signals = [] ∧ (s.die d).ringWait = []

/-- A collective is not over whatever becomes of the parts of these dies: a die of its group has still to join it, or a block has
still to reach a member (R302). -/
def Coll.waits (c : Coll) (but : List Nat) : Prop :=
  (∃ d x, c.at d = some x ∧ ∃ e ∈ x.mask, c.at e = none)
    ∨ ∃ d x, d ∉ but ∧ c.at d = some x ∧ x.complete = false ∧ ∃ b, b < x.mask.length ∧ x.receives b = true ∧ x.has b = false

/-! ### Matrix commands (R163, R191) -/

/-- Element (i, j) of a tile of a core. -/
def State.telem (s : State) (core tile i j : Nat) : TElem := get {} (get {} (s.core core).tiles tile).elems (128 * i + j)

/-- Every element of every tile of a core is in t as it was in s, but those of one tile of which p holds. -/
def State.KeepsTiles (s t : State) (core tile : Nat) (p : Nat → Nat → Prop) : Prop :=
  ∀ x i j, i < 128 → j < 128 → ¬(x = tile ∧ p i j) → t.telem core x i j = s.telem core x i j

/-- The current core's command queue takes one more command. -/
def State.queueFree (s : State) : Prop :=
  (s.core s.myCore).mq.length + (if (s.core s.myCore).mrun.isSome then 1 else 0) < 8

/-- The batch member that a command becomes whose instruction names a batch. -/
def State.memberFor (s : State) (nb : Bool) (cc : Nat) : Option Member :=
  if nb then some ⟨s.me, cc, (s.myCrew.counter cc).join.batch.id⟩ else none

/-- Instruction i is accepted as a matrix command with these operands and predicates (R163), or armed where it asks to be
deferred to the landing of a copy (R191). -/
def State.Accepts (s : State) (i : Instr) (deferred nb : Bool) (cc : Nat) (args : List Word) (nr nc : Nat) : Prop :=
  let c := s.core s.myCore
  let cmd : MatCmd := ⟨s.me, i, args, nr, nc, s.memberFor nb cc, s.jseq, s.myCrew.a.pc, 0, 0⟩
  (nb = true → (s.myCrew.counter cc).blocked = false) →
  let went := fun (t : State) => s.SameRegs t ∧ s.WentOn t ∧ s.KeepsBytes t [] ∧ (t.core s.myCore).tiles = c.tiles
    ∧ (nb = true → t.myCrew.counter cc = (s.myCrew.counter cc).join)
  (deferred = false → s.queueFree → ∃ t, exec i s = .next t ∧ went t ∧ (t.core s.myCore).mq = c.mq ++ [cmd]
      ∧ t.myCrew.follow = s.myCrew.follow)
    ∧ (deferred = true → s.myCrew.follow = .awaiting → s.myCrew.landed = none ∨ s.myCrew.landed = some 0 → ∃ t, exec i s = .next t ∧ went t
      ∧ (t.core s.myCore).mq = c.mq ∧ t.myCrew.follow = .armed cmd)

/-! ### Vector instructions in the VIQ (R46 to R50, R111 to R116) -/

/-- An element of a register group at a width code, as an entry lays it out, and whether it is marked. -/
def State.velem (s : State) (core : Nat) (e : VEntry) (wc base i : Nat) : Nat × Bool :=
  readElem (s.core core).vregs (elemKeys e.vt e.sh wc base i)

/-- Element i of an operand of the entry, by its specifier (R55): a vector register, the head token of a load queue, or a
captured scalar register. -/
def State.src (s : State) (k : Nat) (e : VEntry) (v wc i : Nat) : Nat × Bool :=
  if v < 0x40 then s.velem (crewCore k) e wc v i
  else if v < 0x50 then
    let x := (((s.crew k).lqAt (v % 8)).headD {}).elems.getD i {}
    (x.v.toNat % 2 ^ (8 * 2 ^ wc), x.p)
  else ((get {} e.xs (v - 0x60)).v.toNat % 2 ^ (8 * 2 ^ wc), false)

/-- The mask operand of the entry selects element i (R112). -/
def State.picks (s : State) (k : Nat) (f : VForm) (i : Nat) : Bool := !f.men || (get 0 (s.crew k).masks f.m).getLsbD i != f.mn

/-- Selected elements below i. -/
def State.rank (s : State) (k : Nat) (f : VForm) (i : Nat) : Nat := ((List.range i).filter (s.picks k f)).length

/-- What crew k has issued is the one entry e, a convoy of its own, of form f, with nothing stale to read; its next element group
may go, and what it reads holds no poison. -/
def State.Alone (s : State) (k : Nat) (e : VEntry) (f : VForm) (r : List VEntry) : Prop :=
  (s.crew k).viq = e :: r ∧ e.issued = true ∧ (∀ x ∈ r, x.issued = false) ∧ vform e.instr = some f ∧ e.stale = {}
    ∧ (∀ x y, r = x :: y → x.join = false) ∧ convoyOpen s k = false
    ∧ e.prog < max 1 e.len ∧ e.vl ≤ 16384 ∧ (s.crew k).vheld = false ∧ (s.crew k).viqOn = true
    ∧ (s.crew k).estep.testBit 0 = false ∧ VMem.ready ⟨e, f⟩ s k [] = true
    ∧ e.vt.wc ≤ 3 ∧ e.vt.cls ≤ 3 ∧ 1 ≤ e.sh.g ∧ e.sh.b + e.sh.g ≤ 8
    ∧ (∀ o ∈ f.sources e.vt, ∀ i, (s.src k e o.1 o.2 i).2 = false)

/-- The end of the next element group (R21). -/
def VEntry.groupEnd (e : VEntry) : Nat := min e.len (e.prog + 8 * e.sh.g)

/-- The entry e of crew k has in t done its elements below hi: it has left the VIQ if those are all, else it stands at hi. -/
def State.AdvancedTo (s t : State) (k : Nat) (e : VEntry) (r : List VEntry) (hi : Nat) : Prop :=
  exec (.elementGroupAdvance k) s = .next t ∧ s.KeepsBytes t [] ∧ (∀ j, j ≠ k → t.crew j = s.crew j)
    ∧ (hi = e.len → (t.crew k).viq = r)
    ∧ (hi < e.len → ∃ e', (t.crew k).viq = e' :: r ∧ e'.instr = e.instr ∧ e'.issued = true ∧ e'.prog = hi)

/-- The elements of a register group of which p holds have received the low bits of v; no other byte of a vector register has
changed. -/
def State.SetsElems (s t : State) (k : Nat) (e : VEntry) (base : Nat) (p : Nat → Prop) (v : Nat → Nat) : Prop :=
  (∀ i, p i → t.velem (crewCore k) e e.vt.wc base i = (v i % 2 ^ (8 * 2 ^ e.vt.wc), false))
    ∧ ∀ key, (∀ i, p i → key ∉ elemKeys e.vt e.sh e.vt.wc base i) →
        get {} (t.core (crewCore k)).vregs key = get {} (s.core (crewCore k)).vregs key

/-- The one growing token that crew k pushes into store queue n, or into iq for 4, has grown by es. -/
def State.Grows (s t : State) (k n : Nat) (es : List Elem) : Prop :=
  ∀ ts x, (s.crew k).pushed n = ts ++ [x] → (∀ y ∈ ts, y.n ≤ y.elems.length) → x.elems.length < x.n → (t.crew k).pushed n = ts ++ [{ x with elems := x.elems ++ es }]

/-- A candidate has gone down a list of n pairs, best first: at each place the one that ranks above the other has stayed, and the other
has gone on (R150). -/
def Inserted (above : Nat × Nat → Nat × Nat → Bool) (c : Nat × Nat) (old new : Nat → Nat × Nat) (n : Nat) : Prop :=
  ∃ cand : Nat → Nat × Nat, cand 0 = c ∧ ∀ q, q < n →
    if above (cand q) (old q) then new q = cand q ∧ cand (q + 1) = old q else new q = old q ∧ cand (q + 1) = cand q

/-- No vector register has changed. -/
def State.KeepsVectors (s t : State) (k : Nat) : Prop := (t.core (crewCore k)).vregs = (s.core (crewCore k)).vregs

end Sys2Proof.Machine
end

