-- ==== Sys2Proof/Certificates/Slice0/Obligations.lean ====
section
/-!
DEFINITION. The statements for the provers, from the numbered rules of spec/: machine level first, then family by family.
-/

open Sys2Proof Sys2Proof.Machine in
/-- R36 to R60: an instruction with an encoding, its stall count and its convoy bit come back from the head and tail that
encode them, with every operand at every value the encoding admits; and a head and tail that decode are the encoding of
what they decode to, so that no two words mean one instruction and no bit of a word is ignored. -/
def Obligations.EncodeDecodeAgree : Prop :=
  (∀ (i : Instr) (st : Nat) (c : Bool) (h t : Nat), i.wellFormed = true → st < 8 →
      (c = true → ∃ op, i.opcode = some op ∧ convoyEligible op = true) →
      encode i st c = some (h, t) → h < 2 ^ 16 ∧ decode h t = .ok ⟨i, st, c⟩)
    ∧ ∀ (h t : Nat) (d : Decoded), h < 2 ^ 16 → decode h t = .ok d →
      d.instr.wellFormed = true ∧ d.st < 8 ∧ encode d.instr d.st d.c = some (h, t)
        ∧ (d.c = true → ∃ op, d.instr.opcode = some op ∧ convoyEligible op = true)

open Sys2Proof Sys2Proof.Machine in
/-- R37, R41, R57, R60: words that the spec writes out in its examples decode to the instructions that it gives them, and
words with one defect of R43 each are refused by name. -/
def Obligations.KnownWordsDecode : Prop :=
  decode 0x4008 0x1483 = .ok ⟨.add ⟨3, 4, 5⟩, 0, false⟩
    ∧ decode 0x8028 0x00020084 = .ok ⟨.addi ⟨4, 4, 128⟩, 0, false⟩
    ∧ decode 0x8040 0x000024C4 = .ok ⟨.bcc ⟨4, 6, 1, 1, 0⟩, 0, false⟩
    ∧ decode 0xC051 0x1804A0000005 = .ok ⟨.lih ⟨5, 0x1804A000⟩, 0, false⟩
    ∧ decode 0x8232 0xB558E005 = .ok ⟨.vfmul ⟨5, 0x40, 0x63, 2, true, false, 1, true, 5⟩, 0, false⟩
    ∧ decode 0xB640 0x00000308 = .ok ⟨.vfexp2 ⟨8, 6, 0, 0, false, false, 0, false, 0⟩, 5, true⟩
    ∧ decode 0x814C 0x00005A93 = .ok ⟨.mma ⟨19, 20, 22, 0, 0, false, 0, 0⟩, 0, false⟩
    ∧ decode 0x8123 0x01686F5C = .ok ⟨.waitw ⟨28, 26, 27, 0, 5, 5⟩, 0, false⟩
    ∧ decode 0xC10B 0x0C0010002C60 = .ok ⟨.vlqi ⟨0, 3, 11, 0, 0, false, false, false, 2, false, 0, 0, 0x180⟩, 0, false⟩
    ∧ decode 0x4260 0x008B = .ok ⟨.mand ⟨3, 1, 2, 0⟩, 0, false⟩
    ∧ decode 0xC25E 0x0000B0194106 = .ok ⟨.vscan ⟨6, 2, 0x65, 0, 3, true, false, 0, false, 0, 0, 0⟩, 0, false⟩
    ∧ decodeTableWord 32 0x14834008 = some (.add ⟨3, 4, 5⟩)
    ∧ decode 0x0005 0 = .ill .opcode ∧ decode 0x0008 0 = .ill .length ∧ decode 0x4008 0x9483 = .ill .reservedBit
    ∧ decode 0x2000 0 = .ill .convoy ∧ decode 0x4020 0x1483 = .ill .unusedField ∧ decode 0x8040 0x000038C4 = .ill .reservedValue
    ∧ decode 0x8210 0x00000055 = .ill .operandRole ∧ decode 0x8210 0x00102000 = .ill .samePop

open Sys2Proof Sys2Proof.Machine in
/-- R38, R39, R40, R306: a step runs the turn at the head of the agenda. The turn of a running sequencer takes the line of
its PC, one that it holds since it entered it or the one that memory holds (log entry 90), checks it, and executes the
instruction of the slot; that instruction knows its stall count, its convoy bit and the PC that follows it. A PC outside
spaces 0 and 1, an odd PC, a data line, a bad header or a slot without an instruction raises ILLFETCH, and an encoding
that is no instruction ILLOP. R418: an execute sequencer that steps fetches nothing while its VIQ holds an entry, but for
the rest of a convoy. With an empty agenda the machine picks its own turn (log entry 1). -/
def Obligations.StepRunsFetched : Prop :=
  ∀ (s : State) (r : List Turn),
    (∀ i, s.agenda = .event i :: r → step s = exec i { s with agenda := r })
    ∧ (∀ k xs, s.agenda = .seq k xs :: r →
        let u : State := { s with agenda := r, cur := { crew := k, xs := xs } }
        let pc := ((s.crew k).seq xs).pc
        (((s.crew k).seq xs).run ≠ .running → step s = .next u)
        ∧ (((s.crew k).seq xs).run = .running → (s.chip (crewChip k)).tripped = false → (s.crew k).stop ≠ .preempt →
            xs = true → (s.crew k).estep.testBit 0 = true → (s.crew k).viq ≠ [] → convoyOpen u k = false → step s = .next u)
        ∧ (((s.crew k).seq xs).run = .running → (s.chip (crewChip k)).tripped = false → (s.crew k).stop ≠ .preempt →
            (xs = true → (s.crew k).estep.testBit 0 = true → (s.crew k).viq = [] ∨ convoyOpen u k = true) →
            (2 * 2 ^ 60 ≤ pc.toNat → step s = .next (takeTrap { code := 3 } u))
            ∧ (pc.toNat < 2 * 2 ^ 60 → ∀ bs v,
                ((((s.crew k).seq xs).lines.find? (fun e => e.1 == pcLine pc) = some (pcLine pc, bs) ∧ v = u)
                  ∨ ((∀ l, (pcLine pc, l) ∉ ((s.crew k).seq xs).lines) ∧ fetchHeld u k xs pc = false
                    ∧ fetchLine u k pc = (some (.ok bs), v))) →
                (∀ b ∈ bs, b.p = false) →
                let line := bs.map (·.b)
                let v := v.modSeqr (fun q => { q with lines := enteredLine (pcLine q.pc) bs q.lines })
                let fits := pc.toNat % 2 = 0 ∧ lineOk line (pcSlot pc) = true
                (¬fits → step s = .next (takeTrap { code := 3 } v))
                ∧ (fits → ∀ e, decodeAt line (pcSlot pc) = .ill e → step s = .next (takeTrap { code := 1 } v))
                ∧ (fits → ∀ d, decodeAt line (pcSlot pc) = .ok d → (xs = false ∨ bitOf v.myCrew.estep 0 = false) →
                    let link := if pcSlot pc < lineHeads line then pc + 2 else BitVec.ofNat 64 (pc.toNat / 64 * 64 + 66)
                    step s = exec d.instr { v with cur := ⟨k, xs, d.st, d.c, link⟩ }))))
    ∧ (s.agenda = [] →
        (∀ t, autoEvent s = some t → step s = .next t)
        ∧ (autoEvent s = none → nextSeqr s = none → step s = .next s)
        ∧ (autoEvent s = none → ∀ n, nextSeqr s = some n →
            step s = step { s with agenda := [.seq (n / 2) (n % 2 == 1)], next := n }))

open Sys2Proof Sys2Proof.Machine in
/-- The memory of every state that a step answers is in canonical form when that of the state before is: addresses
strictly rising, and no byte listed that an unlisted address reads as. It holds of every instruction and every event. -/
def Obligations.MemoryCanonicalKept : Prop :=
  ∀ s t : State, Memory.wf s.mem = true → step s = .next t → Memory.wf t.mem = true

open Sys2Proof Sys2Proof.Machine in
/-- What the model holds right after cold reset, before boot: no crew, every register of every die zero, the vector
registers, tiles and command queues of every core empty, no byte of memory written; and a step of it changes nothing,
since no sequencer runs and no agent is ready. The values that R9 and R434 give come with boot, which is a step of its
own. Where the spec gives no value, zero is the model's choice (log entries 3 and 4); that nothing happens is its choice
too (log entries 1 and 12). -/
def Obligations.ResetState : Prop :=
  Memory.wf State.reset.mem = true
    ∧ (∀ p, State.reset.byte p = 0 ∧ (State.reset.vbyte p).p = false)
    ∧ (∀ k, (State.reset.crew k).state = 0 ∧ (State.reset.crew k).a.run ≠ .running ∧ (State.reset.crew k).x.run ≠ .running)
    ∧ (∀ k xs r, ((State.reset.crew k).seq xs).reg r = {})
    ∧ (∀ die n, State.reset.reg die n = 0)
    ∧ (∀ c, (State.reset.core c).vregs = [] ∧ (State.reset.core c).tiles = [] ∧ (State.reset.core c).mq = [])
    ∧ step State.reset = .next State.reset

open Sys2Proof Sys2Proof.Machine in
/-- No state stops the machine: every instruction and every event, whatever the operands, has an effect, waits or raises a
trap, and the pod goes on. That an event which cannot happen changes nothing, and that the machine picks its own turn
where the agenda is empty, is the model's choice (log entries 86 and 1). -/
def Obligations.EveryStepAnswers : Prop :=
  ∀ s : State, ∃ t, step s = .next t

open Sys2Proof Sys2Proof.Machine in
/-- R42, R44: an instruction of class 01 or 11 in an X stream, or of class 10 in an A stream, raises ILLSLICE; one of
class 11 in an A stream of a crew without system privilege raises PRIV; whatever its operands, its masks, vl or the
queues. -/
def Obligations.SliceAndPrivilegeRule : Prop :=
  ∀ (s : State) (i : Instr) (op : Nat), i.opcode = some op →
    (s.cur.xs = true → op / 256 = 1 ∨ op / 256 = 3 → s.Raises i { code := 2 } s.seqr.pc)
    ∧ (s.cur.xs = false → op / 256 = 2 → s.Raises i { code := 2 } s.seqr.pc)
    ∧ (s.cur.xs = false → op / 256 = 3 → s.sysPriv s.me = false → s.Raises i { code := 4 } s.seqr.pc)

open Sys2Proof Sys2Proof.Machine in
/-- R90: each register-register instruction but the divisions writes d as its row of the table says. It completes from
every state in which its operands are ready, in both slices, and changes nothing else (its frame is Wrote). R92 to R95:
bit counts, immediates, selection, bit fields and the loading of constants. -/
def Obligations.ScalarResults : Prop :=
  (
    ∀ (s : State) (f : T16a), s.ready [f.a.toNat, f.b.toNat] [f.d.toNat] = true → s.stepping = false →
        let a := s.val f.a.toNat
        let b := s.val f.b.toNat
        let sh := b.toNat % 64
        s.Gives (.add f) f.d.toNat (a + b) 1
          ∧ s.Gives (.sub f) f.d.toNat (a - b) 1
          ∧ s.Gives (.mul f) f.d.toNat (a * b) 3
          ∧ s.Gives (.mulh f) f.d.toNat ((a.signExtend 128 * b.signExtend 128).extractLsb' 64 64) 3
          ∧ s.Gives (.mulhu f) f.d.toNat ((a.zeroExtend 128 * b.zeroExtend 128).extractLsb' 64 64) 3
          ∧ s.Gives (.and f) f.d.toNat (a &&& b) 1
          ∧ s.Gives (.or f) f.d.toNat (a ||| b) 1
          ∧ s.Gives (.xor f) f.d.toNat (a ^^^ b) 1
          ∧ s.Gives (.andn f) f.d.toNat (a &&& ~~~b) 1
          ∧ s.Gives (.sll f) f.d.toNat (a <<< sh) 1
          ∧ s.Gives (.srl f) f.d.toNat (a >>> sh) 1
          ∧ s.Gives (.sra f) f.d.toNat (a.sshiftRight sh) 1
          ∧ s.Gives (.min f) f.d.toNat (if a.slt b then a else b) 1
          ∧ s.Gives (.max f) f.d.toNat (if a.slt b then b else a) 1
          ∧ s.Gives (.minu f) f.d.toNat (if a.ult b then a else b) 1
          ∧ s.Gives (.maxu f) f.d.toNat (if a.ult b then b else a) 1
          ∧ s.Gives (.slt f) f.d.toNat (if a.toInt < b.toInt then 1 else 0) 1
          ∧ s.Gives (.sltu f) f.d.toNat (if a.toNat < b.toNat then 1 else 0) 1
          ∧ s.Gives (.seq f) f.d.toNat (if a = b then 1 else 0) 1)
  ∧ (
    ∀ s : State, s.stepping = false →
        (∀ f : T16a, s.ready [f.a.toNat] [f.d.toNat] = true →
          (∃ n, s.Gives (.clz f) f.d.toNat (BitVec.ofNat 64 n) 1 ∧ n ≤ 64
            ∧ (∀ i, i < n → (s.val f.a.toNat).getLsbD (63 - i) = false)
            ∧ (n < 64 → (s.val f.a.toNat).getLsbD (63 - n) = true))
          ∧ (∃ n, s.Gives (.ctz f) f.d.toNat (BitVec.ofNat 64 n) 1 ∧ n ≤ 64
            ∧ (∀ i, i < n → (s.val f.a.toNat).getLsbD i = false)
            ∧ (n < 64 → (s.val f.a.toNat).getLsbD n = true))
          ∧ s.Gives (.popc f) f.d.toNat
              (BitVec.ofNat 64 ((List.range 64).filter (fun i => (s.val f.a.toNat).getLsbD i)).length) 1)
        ∧ (∀ f : T32a, s.ready [f.a.toNat] [f.d.toNat] = true →
          let a := s.val f.a.toNat
          s.Gives (.addi f) f.d.toNat (a + f.imm.signExtend 64) 1
            ∧ s.Gives (.andi f) f.d.toNat (a &&& f.imm.signExtend 64) 1
            ∧ s.Gives (.ori f) f.d.toNat (a ||| f.imm.signExtend 64) 1
            ∧ s.Gives (.xori f) f.d.toNat (a ^^^ f.imm.signExtend 64) 1
            ∧ (f.imm.toNat < 64 →
              s.Gives (.slli f) f.d.toNat (a <<< f.imm.toNat) 1
                ∧ s.Gives (.srli f) f.d.toNat (a >>> f.imm.toNat) 1
                ∧ s.Gives (.srai f) f.d.toNat (a.sshiftRight f.imm.toNat) 1))
        ∧ (∀ f : T32c, s.ready [f.a.toNat, f.b.toNat, f.c.toNat] [f.d.toNat] = true →
          s.Gives (.sel f) f.d.toNat (if s.val f.c.toNat = 0 then s.val f.b.toNat else s.val f.a.toNat) 1)
        ∧ (∀ f : T32c, let pos := (f.imm.extractLsb' 0 6).toNat
          let len := (f.imm.extractLsb' 6 6).toNat + 1
          (s.ready [f.a.toNat] [f.d.toNat] = true → pos + len ≤ 64 →
            ∃ v, s.Gives (.bfx f) f.d.toNat v 1
              ∧ ∀ i, i < 64 → v.getLsbD i = (decide (i < len) && (s.val f.a.toNat).getLsbD (pos + i)))
          ∧ (s.ready [f.a.toNat, f.d.toNat] [f.d.toNat] = true → pos + len ≤ 64 →
            ∃ v, s.Gives (.bfi f) f.d.toNat v 1
              ∧ ∀ i, i < 64 → v.getLsbD i =
                if pos ≤ i ∧ i < pos + len then (s.val f.a.toNat).getLsbD (i - pos) else (s.val f.d.toNat).getLsbD i))
        ∧ (∀ f : T48a, (s.ready [] [f.d.toNat] = true → s.Gives (.li f) f.d.toNat (f.imm.signExtend 64) 1)
          ∧ (s.ready [f.d.toNat] [f.d.toNat] = true →
            s.Gives (.lih f) f.d.toNat (f.imm ++ (s.val f.d.toNat).extractLsb' 0 32) 1))
        ∧ (∀ f : T16a, [Instr.clz f, .ctz f, .popc f].map Instr.opcode = [some 0x020, some 0x021, some 0x022]
            ∧ ∀ i ∈ [Instr.clz f, .ctz f, .popc f], i.wellFormed = true ↔ f.b = 0)
        ∧ ∀ f : T32a, [Instr.addi f, .andi f, .ori f, .xori f, .slli f, .srli f, .srai f].map Instr.opcode
              = [some 0x028, some 0x029, some 0x02A, some 0x02B, some 0x02C, some 0x02D, some 0x02E]
            ∧ (∀ i ∈ [Instr.addi f, .andi f, .ori f, .xori f], i.wellFormed = true)
            ∧ ∀ i ∈ [Instr.slli f, .srli f, .srai f], i.wellFormed = true ↔ f.imm.toNat < 64)

open Sys2Proof Sys2Proof.Machine in
/-- R91, R466: a division leaves d interlocked and joins the divider's queue with the quotient or remainder that R91
gives, and nothing else changes. R466: the divider of a slice takes its waiting divisions in issue order, one at a time,
and the one that ends writes d, which its consumers may then read. -/
def Obligations.Divisions : Prop :=
  (
    ∀ (s : State) (f : T16a), s.ready [f.a.toNat, f.b.toNat] [f.d.toNat] = true → s.stepping = false →
        let a := s.val f.a.toNat
        let b := s.val f.b.toNat
        let issues := fun (i : Instr) (v : Word) =>
          ∃ t, exec i s = .next t
            ∧ ((t.core s.myCore).divider s.cur.xs).wait
              = ((s.core s.myCore).divider s.cur.xs).wait ++ [⟨s.me, f.d.toNat, v⟩]
            ∧ ((t.core s.myCore).divider s.cur.xs).run = ((s.core s.myCore).divider s.cur.xs).run
            ∧ (f.d.toNat ≠ 0 → f.d.toNat ∈ t.seqr.busy)
            ∧ t.seqr.pc = s.after.2 ∧ t.seqr.loops = s.after.1
            ∧ (∀ r, t.seqr.reg r = s.seqr.reg r) ∧ (∀ p, t.byte p = s.byte p)
            ∧ ∀ k, k ≠ s.me → t.crew k = s.crew k
        issues (.div f) (if b = 0 then (if 0 ≤ a.toInt then 0x7FFFFFFFFFFFFFFF else 0x8000000000000000)
            else if a.toInt = -2 ^ 63 ∧ b.toInt = -1 then 0x7FFFFFFFFFFFFFFF else BitVec.ofInt 64 (a.toInt.tdiv b.toInt))
          ∧ issues (.divu f) (if b = 0 then 0xFFFFFFFFFFFFFFFF else BitVec.ofNat 64 (a.toNat / b.toNat))
          ∧ issues (.rem f) (if b = 0 then a else BitVec.ofInt 64 (a.toInt - b.toInt * a.toInt.tdiv b.toInt))
          ∧ issues (.remu f) (if b = 0 then a else BitVec.ofNat 64 (a.toNat - b.toNat * (a.toNat / b.toNat))))
  ∧ (
    ∀ (s : State) (core : Nat) (xs : Bool) (o : DivOp) (r : List DivOp),
        (((s.core core).divider xs).run = none → ((s.core core).divider xs).wait = o :: r →
          ∃ t, exec (.divisionStart core xs) s = .next t ∧ (t.core core).divider xs = ⟨some o, r⟩
            ∧ t.crews = s.crews ∧ ∀ p, t.byte p = s.byte p)
        ∧ (((s.core core).divider xs).run = some o → (((s.crew o.crew).seq xs).busy.count o.d ≤ 1) →
          ∃ t, exec (.divisionResult core xs) s = .next t
            ∧ ((t.crew o.crew).seq xs).reg o.d = (if o.d = 0 then {} else ⟨o.v, false⟩)
            ∧ o.d ∉ ((t.crew o.crew).seq xs).busy
            ∧ (∀ d, d ≠ o.d → ((t.crew o.crew).seq xs).reg d = ((s.crew o.crew).seq xs).reg d)
            ∧ (t.core core).divider xs = ⟨none, ((s.core core).divider xs).wait⟩
            ∧ (∀ k, k ≠ o.crew → t.crew k = s.crew k) ∧ ∀ p, t.byte p = s.byte p))

open Sys2Proof Sys2Proof.Machine in
/-- R57, R310: branches and jumps. The target is the line of the branch plus disp lines, at the slot; the link is the PC
that follows in sequence. -/
def Obligations.BranchesAndJumps : Prop :=
  ∀ s : State, s.stepping = false → s.atLevelEnd = false →
    (∀ f : T32b,
      let dest := BitVec.ofNat 64 (s.seqr.pc.toNat / 64 * 64) + f.disp.signExtend 64 * 64 + BitVec.ofNat 64 (2 * f.slot.toNat)
      let a := s.val f.a.toNat
      let b := s.val f.b.toNat
      let holds := (f.cond = 0 ∧ a = b) ∨ (f.cond = 1 ∧ a ≠ b) ∨ (f.cond = 2 ∧ a.toInt < b.toInt)
        ∨ (f.cond = 3 ∧ b.toInt ≤ a.toInt) ∨ (f.cond = 4 ∧ a.toNat < b.toNat) ∨ (f.cond = 5 ∧ b.toNat ≤ a.toNat)
      (s.ready [f.a.toNat, f.b.toNat] [] = true → f.cond.toNat ≤ 5 →
        (holds → s.OnlyJumps (.bcc f) dest) ∧ (¬holds → s.OnlyAdvances (.bcc f)))
      ∧ s.OnlyJumps (.jmp f) dest
      ∧ (s.ready [] [f.a.toNat] = true →
        ∃ t, exec (.jal f) s = .next t ∧ s.Jumped t dest ∧ s.Result t f.a.toNat s.cur.link 1 ∧ s.OtherRegs t f.a.toNat
          ∧ s.OnlySeqr t))
    ∧ (∀ f : T16a, s.ready [f.a.toNat] [f.d.toNat] = true →
        ∃ t, exec (.jr f) s = .next t ∧ s.Jumped t (s.val f.a.toNat) ∧ s.Result t f.d.toNat s.cur.link 1
          ∧ s.OtherRegs t f.d.toNat ∧ s.OnlySeqr t)
    ∧ (let poisoned := fun (i : Instr) (rs ws : List Nat) => (∀ r ∈ rs ++ ws, r = 0 ∨ r ∉ s.seqr.busy) →
        (s.core s.myCore).ckstall = false → (∃ r ∈ rs, (s.seqr.read r).p = true) → s.Raises i { code := 13 } s.seqr.pc
      (∀ f : T32b, poisoned (.bcc f) [f.a.toNat, f.b.toNat] []) ∧ ∀ f : T16a, poisoned (.jr f) [f.a.toNat] [f.d.toNat])
    ∧ (∀ f : T32b, [Instr.bcc f, .jmp f, .jal f].map Instr.opcode = [some 0x040, some 0x041, some 0x042]
        ∧ ((Instr.bcc f).wellFormed = true ↔ f.cond.toNat ≤ 5)
        ∧ ((Instr.jmp f).wellFormed = true ↔ f.a = 0 ∧ f.b = 0 ∧ f.cond = 0)
        ∧ ((Instr.jal f).wellFormed = true ↔ f.b = 0 ∧ f.cond = 0))
    ∧ (∀ f : T16a, (Instr.jr f).opcode = some 0x023 ∧ ((Instr.jr f).wellFormed = true ↔ f.b = 0))
    ∧ decode 0x8042 0x0008601F = .ok ⟨.jal ⟨31, 0, 0, 3, 2⟩, 0, false⟩

open Sys2Proof Sys2Proof.Machine in
/-- R312, R314, R315: a loop instruction opens a level whose start is the link, or with a count of 0 skips the body; lbrk
closes the innermost level and continues after its end; lidx reads an index. R313: where an instruction (here nop, R45)
completes, the innermost level is tested. A level whose end this is not leaves the next PC the link; one with iterations
left starts again; one without retires, and the next level is tested at the same PC. R315, R314, R313: what a loop stack
cannot do raises LOOPSTK, with its reason, at the instruction. -/
def Obligations.HardwareLoops : Prop :=
  (
    ∀ s : State, s.stepping = false → s.seqr.pc.toNat < s.cur.link.toNat →
        let opens := fun (i : Instr) (count : Nat) (stop : Word) =>
          s.seqr.loops.length < 6 → s.cur.link.toNat ≤ stop.toNat →
          (∀ l, s.seqr.loops.head? = some l → stop.toNat ≤ l.stop.toNat) →
            (count ≠ 0 → ∃ t, exec i s = .next t ∧ t.seqr.pc = s.cur.link
              ∧ t.seqr.loops = ⟨s.cur.link, stop, count, 0⟩ :: s.seqr.loops
              ∧ s.seqr.Kept t.seqr ∧ (∀ r, t.seqr.reg r = s.seqr.reg r) ∧ s.OnlySeqr t)
            ∧ (count = 0 → ∀ pc, seqAfter s s.me s.cur.xs stop = some pc → s.OnlyJumps i pc)
        (∀ f : T32b, s.atLevelEnd = false → s.ready [f.a.toNat] [] = true →
            opens (.loop f) ((s.val f.a.toNat).toNat % 2 ^ 32) (target s.seqr.pc f.slot f.disp))
        ∧ (∀ f : T48d, s.atLevelEnd = false → opens (.loopi f) f.imm.toNat (target s.seqr.pc f.slot f.disp))
        ∧ (∀ l r pc, s.atLevelEnd = false → s.seqr.loops = l :: r → seqAfter s s.me s.cur.xs l.stop = some pc →
            ∃ t, exec .lbrk s = .next t ∧ t.seqr.loops = r ∧ t.seqr.pc = pc
              ∧ s.seqr.Kept t.seqr ∧ (∀ n, t.seqr.reg n = s.seqr.reg n) ∧ s.OnlySeqr t)
        ∧ (∀ f : T32a, s.ready [] [f.d.toNat] = true →
            let k := f.imm.toNat % 8
            (s.seqr.loops.length ≤ k → s.Gives (.lidx f) f.d.toNat 0 1)
            ∧ (∀ l, s.seqr.loops.reverse[k]? = some l → 
                (f.imm.getLsbD 3 = false → s.Gives (.lidx f) f.d.toNat (BitVec.ofNat 64 l.index) 1)
                ∧ (f.imm.getLsbD 3 = true → s.Gives (.lidx f) f.d.toNat (BitVec.ofNat 64 (l.count - l.index - 1)) 1))
            ∧ (Instr.lidx f).opcode = some 0x032
            ∧ ((Instr.lidx f).wellFormed = true ↔ f.a = 0 ∧ f.imm.toNat < 16 ∧ f.imm.toNat % 8 < 6))
        ∧ decode 0x0004 0 = .ok ⟨.lbrk, 0, false⟩ ∧ decode 0x8032 0x0405 = .ok ⟨.lidx ⟨5, 0, 1⟩, 0, false⟩)
  ∧ (
    ∀ s : State, s.stepping = false →
        s.OnlyAdvances .nop
        ∧ (s.seqr.loops = [] → s.after = ([], s.cur.link))
        ∧ ∀ l r, s.seqr.loops = l :: r →
          (s.seqr.pc ≠ l.stop → s.after = (l :: r, s.cur.link))
          ∧ (s.seqr.pc = l.stop → l.index + 1 < l.count → s.after = ({ l with index := l.index + 1 } :: r, l.start))
          ∧ (s.seqr.pc = l.stop → l.count ≤ l.index + 1 → s.after = (s.setSeqr { s.seqr with loops := r }).after))
  ∧ (
    ∀ s : State,
        let bad := fun (i : Instr) (n : Nat) => s.Raises i { code := 12, reason := n } s.seqr.pc
        (s.atLevelEnd = true → bad .exit 4 ∧ bad .yield 4 ∧ bad .bkpt 4 ∧ bad .lbrk 4
            ∧ (∀ f, bad (.trap f) 4) ∧ (∀ f, bad (.bcc f) 4) ∧ (∀ f, bad (.jmp f) 4) ∧ (∀ f, bad (.jal f) 4)
            ∧ (∀ f, bad (.jr f) 4) ∧ (∀ f, bad (.loop f) 4) ∧ ∀ f, bad (.loopi f) 4)
        ∧ (s.seqr.loops = [] → bad .lbrk 5)
        ∧ (s.atLevelEnd = false →
            let refuses := fun (i : Instr) (stop : Word) =>
              (6 ≤ s.seqr.loops.length → bad i 1)
              ∧ (s.seqr.loops.length < 6 → stop.toNat < s.cur.link.toNat → bad i 2)
              ∧ (s.seqr.loops.length < 6 → s.cur.link.toNat ≤ stop.toNat →
                  (∃ l, s.seqr.loops.head? = some l ∧ l.stop.toNat < stop.toNat) → bad i 3)
            (∀ f : T48d, refuses (.loopi f) (target s.seqr.pc f.slot f.disp))
            ∧ ∀ f : T32b, s.ready [f.a.toNat] [] = true → refuses (.loop f) (target s.seqr.pc f.slot f.disp)))

open Sys2Proof Sys2Proof.Machine in
/-- R45, R317, R318, R399, R407: nop and yield change nothing but the PC; exit ends its sequencer once its work has
drained, and a token left in a queue that it consumes raises QRESID, of the first such queue in the order of their codes
(log entry 46); bkpt and trap raise their traps, with the recorded PC after the instruction. -/
def Obligations.LeavingAndPausing : Prop :=
  ∀ s : State, s.atLevelEnd = false →
    (s.stepping = false → s.OnlyAdvances .nop)
    ∧ (s.stepping = false → s.myCrew.stop = .none → s.OnlyAdvances .yield)
    ∧ (s.myCrew.stop = .none → s.cur.xs = true → s.myCrew.viq = [] → s.myCrew.lq = [] → s.myCrew.cq = [] →
        ∃ t, exec .exit s = .next t ∧ t.seqr.run = .exited ∧ t.seqr.pc = s.seqr.pc
          ∧ (∀ r, t.seqr.reg r = s.seqr.reg r) ∧ s.OnlySeqr t)
    ∧ (s.myCrew.stop = .none → s.cur.xs = false → s.myCrew.wcb = [] → s.myCrew.loads = [] → s.myCrew.sc = none →
        redPending s s.me = false →
        s.myCrew.follow ≠ .awaiting → s.myCrew.sq = [] → s.myCrew.iq = [] → s.myCrew.bq = [] →
        ∃ t, exec .exit s = .next t ∧ t.seqr.run = .exited ∧ t.seqr.pc = s.seqr.pc
          ∧ (∀ r, t.seqr.reg r = s.seqr.reg r) ∧ s.OnlySeqr t)
    ∧ (s.myCrew.stop = .none → s.cur.xs = true → s.myCrew.viq = [] →
        let left := fun (n : Nat) => s.Raises .exit { code := 11, reason := 1, queue := n } s.seqr.pc
        (∀ n, n < 8 → s.myCrew.lqAt n ≠ [] → (∀ m, m < n → s.myCrew.lqAt m = []) → left n)
        ∧ ((∀ n, n < 8 → s.myCrew.lqAt n = []) → s.myCrew.cq ≠ [] → left 13))
    ∧ (s.myCrew.stop = .none → s.cur.xs = false → s.myCrew.wcb = [] → s.myCrew.loads = [] → s.myCrew.sc = none →
        redPending s s.me = false → s.myCrew.follow ≠ .awaiting →
        let left := fun (n : Nat) => s.Raises .exit { code := 11, reason := 2, queue := n } s.seqr.pc
        (∀ n, n < 4 → s.myCrew.sqAt n ≠ [] → (∀ m, m < n → s.myCrew.sqAt m = []) → left (8 + n))
        ∧ ((∀ n, n < 4 → s.myCrew.sqAt n = []) → s.myCrew.iq ≠ [] → left 12)
        ∧ ((∀ n, n < 4 → s.myCrew.sqAt n = []) → s.myCrew.iq = [] → s.myCrew.bq ≠ [] → left 14))
    ∧ s.Raises .bkpt { code := 29 } s.cur.link
    ∧ ∀ f : T32a, s.Raises (.trap f) { code := 30, tval := f.imm.signExtend 64 } s.cur.link
        ∧ (s.myCrew.stop ≠ .trap → (takeTrap { code := 30, tval := f.imm.signExtend 64 } s).myCrew.trap.tval = f.imm.signExtend 64)
        ∧ (Instr.trap f).opcode = some 0x031 ∧ ((Instr.trap f).wellFormed = true ↔ f.d = 0 ∧ f.a = 0)
        ∧ decode 0x8031 0x1400 = .ok ⟨.trap ⟨0, 0, 5⟩, 0, false⟩

open Sys2Proof Sys2Proof.Machine in
/-- R398 to R403: what taking a trap writes. The crew is stopping, the trapping slice halts, every outstanding result of
the crew matures (R52), and the cause word holds the trap's fields; the other slice runs on. A trap of the other slice
before the crew has stopped goes to sys.cause2. -/
def Obligations.TrapEntry : Prop :=
  ∀ (s : State) (c : Trap), c.code < 2 ^ 8 → c.reason < 2 ^ 4 → c.elem.getD 0 < 2 ^ 15 → c.queue < 2 ^ 4 → c.member < 2 ^ 3 →
    let t := takeTrap c s
    let w := if s.myCrew.stop = .trap then t.myCrew.trap.cause2 else t.myCrew.trap.cause
    t.seqr.run = .halted
      ∧ t.seqr.pc = (if c.code = 29 ∨ c.code = 30 then s.cur.link else s.seqr.pc)
      ∧ t.seqr.pend = [] ∧ (t.myCrew.seq (!s.cur.xs)) = { s.myCrew.seq (!s.cur.xs) with pend := [] }
      ∧ t.myCrew.vpend = [] ∧ t.myCrew.stop = .trap
      ∧ (∀ r, t.seqr.reg r = s.seqr.reg r)
      ∧ (w.extractLsb' 0 8).toNat = c.code ∧ (w.extractLsb' 8 4).toNat = c.reason ∧ w.getLsbD 12 = s.cur.xs
      ∧ w.getLsbD 13 = c.elem.isSome ∧ w.getLsbD 14 = c.hold ∧ w.getLsbD 15 = false
      ∧ (w.extractLsb' 16 15).toNat = c.elem.getD 0 ∧ w.getLsbD 31 = false
      ∧ (w.extractLsb' 32 4).toNat = c.queue ∧ (w.extractLsb' 36 3).toNat = c.member ∧ w.extractLsb' 39 25 = 0
      ∧ (s.myCrew.stop ≠ .trap → t.myCrew.trap.cause2 = 0 ∧ t.myCrew.trap.cinfo = c.cinfo
          ∧ (s.myCrew.state ≠ 6 → t.myCrew.state = 2))
      ∧ (s.myCrew.stop = .trap → t.myCrew.trap.cause = s.myCrew.trap.cause ∧ t.myCrew.trap.tval = s.myCrew.trap.tval)
      ∧ (∀ k, k ≠ s.me → t.crew k = s.crew k) ∧ t.cores = s.cores ∧ t.dies = s.dies ∧ ∀ p, t.byte p = s.byte p

open Sys2Proof Sys2Proof.Machine in
/-- R115, R51, R52, R466: before it executes, a scalar instruction waits while a register it reads or writes awaits an
interlocked result; raises STALL with checking on where it reads an outstanding result; and raises POISON where it reads a
poisoned value; in this order. -/
def Obligations.OperandChecks : Prop :=
  ∀ s : State,
    let checks := fun (i : Instr) (rs ws : List Nat) =>
      ((∃ r ∈ rs ++ ws, r ≠ 0 ∧ r ∈ s.seqr.busy) → exec i s = .next (s.setSeqr { s.seqr with wait := some i }))
      ∧ ((∀ r ∈ rs ++ ws, r = 0 ∨ r ∉ s.seqr.busy) →
        ((s.core s.myCore).ckstall = true → (∃ r ∈ rs, r ≠ 0 ∧ ∃ p ∈ s.seqr.pend, p.reg = r) →
          s.Raises i { code := 5 } s.seqr.pc)
        ∧ (((s.core s.myCore).ckstall = false ∨ ∀ r ∈ rs, r = 0 ∨ ∀ p ∈ s.seqr.pend, p.reg ≠ r) →
          (∃ r ∈ rs, (s.seqr.read r).p = true) → s.Raises i { code := 13 } s.seqr.pc))
    (∀ (f : T16a) (i : Instr), i ∈ [Instr.add f, .sub f, .mul f, .mulh f, .mulhu f, .and f, .or f, .xor f, .andn f, .sll f, .srl f,
        .sra f, .min f, .max f, .minu f, .maxu f, .slt f, .sltu f, .seq f, .div f, .divu f, .rem f, .remu f] →
      checks i [f.a.toNat, f.b.toNat] [f.d.toNat])
    ∧ (∀ (f : T16a) (i : Instr), i ∈ [Instr.clz f, .ctz f, .popc f] → checks i [f.a.toNat] [f.d.toNat])
    ∧ (∀ (f : T32a) (i : Instr), i ∈ [Instr.addi f, .andi f, .ori f, .xori f, .slli f, .srli f, .srai f] →
      checks i [f.a.toNat] [f.d.toNat])
    ∧ (∀ f : T32c, checks (.sel f) [f.a.toNat, f.b.toNat, f.c.toNat] [f.d.toNat] ∧ checks (.bfx f) [f.a.toNat] [f.d.toNat]
        ∧ checks (.bfi f) [f.a.toNat, f.d.toNat] [f.d.toNat])
    ∧ (∀ f : T48a, checks (.lih f) [f.d.toNat] [f.d.toNat])
    ∧ (s.atLevelEnd = false → (∀ f : T32b, checks (.bcc f) [f.a.toNat, f.b.toNat] [] ∧ checks (.loop f) [f.a.toNat] [])
        ∧ ∀ f : T16a, checks (.jr f) [f.a.toNat] [f.d.toNat])

open Sys2Proof Sys2Proof.Machine in
/-- R99, R100, R102 to R104: vsetl that need not wait grants the least of the requested length, VLMAX and what its
producer has finished, and pushes the length token; lane groups that join its share, and what a higher class brings within
reach, hold zero; one that waited is granted in the same way when its wait ends. -/
def Obligations.VectorLengthGranted : Prop :=
  (∀ (s : State) (f : T32e), s.mayGrant f → ∃ t, exec (.vsetl f) s = .next t ∧ s.Granted f t)
    ∧ (∀ (s s' : State) (k : Nat) (f : T32e), s.RunsAgain k false (.vsetl f) s' → s'.mayGrant f →
        ∃ t, exec (.vsetlGrant k) s = .next t ∧ s'.Granted f t)
    ∧ (∀ (s : State) (core k : Nat), (s.core core).raise = some k →
        ∃ t, exec (.coreClassRaiseComplete core) s = .next t ∧ (t.core core).cls = max (s.core core).cls k
          ∧ (t.core core).raise = none ∧ t.crews = s.crews ∧ s.KeepsBytes t []
          ∧ ∀ reg lane b, b < 128 → lane < 64 → 32 * (1 + (s.core core).cls) ≤ b → b < 32 * (1 + k) →
              get {} (t.core core).vregs (vkey reg lane b) = {})
    ∧ (∀ (s : State) (core : Nat), (s.core core).fall = true →
        ∃ t, exec (.coreClassFallComplete core) s = .next t ∧ t.core core = { s.core core with fall := false }
          ∧ t.crews = s.crews ∧ s.KeepsBytes t [])

open Sys2Proof Sys2Proof.Machine in
/-- R323, R325, R326, R332, R337, R338: the scalar queue instructions and the lane requests of the A stream. R105, R106,
R107: the X stream takes a length token, or a scalar, from cq; an entry of the other kind raises CQKIND and stays. -/
def Obligations.ScalarQueues : Prop :=
  (
    ∀ (s : State) (f : T32e), s.cur.xs = false → s.stepping = false →
        let d := f.d.toNat
        let a := s.val f.a.toNat
        (s.ready [f.a.toNat] [] = true → s.myCrew.cq.length < 16 →
          ∃ t, exec (.cqpush f) s = .next t ∧ s.SameRegs t ∧ s.WentOn t
            ∧ s.OnlyCrew t { s.myCrew with cq := s.myCrew.cq ++ [⟨false, a⟩] })
        ∧ (s.ready [f.a.toNat] [] = true → 16 ≤ s.myCrew.cq.length → s.myCrew.stop = .none →
          exec (.cqpush f) s = .next (s.setSeqr { s.seqr with wait := some (.cqpush f) }))
        ∧ ((f.a.toNat = 0 ∨ f.a.toNat ∉ s.seqr.busy) → (s.core s.myCore).ckstall = false → (s.seqr.read f.a.toNat).p = true →
          s.Raises (.cqpush f) { code := 13 } s.seqr.pc ∧ ∀ t, exec (.cqpush f) s = .next t → t.myCrew.cq = s.myCrew.cq)
        ∧ (Instr.cqpush f).opcode = some 0x11B
        ∧ ((Instr.cqpush f).wellFormed = true ↔ f.d = 0 ∧ f.b = 0 ∧ f.cc = 0 ∧ f.scope = 0 ∧ f.imm = 0)
        ∧ decode 0x811B 0x000000E0 = .ok ⟨.cqpush ⟨0, 7, 0, 0, 0, 0⟩, 0, false⟩
        ∧ (∀ v r, s.ready [] [d] = true → s.myCrew.bq = v :: r →
          ∃ t, exec (.bqb f) s = .next t ∧ s.Sets t d ⟨v, false⟩ ∧ s.WentOn t ∧ s.OnlyCrew t { s.myCrew with bq := r })
        ∧ (let q := (s.core s.myCore).q
          ∃ t, exec (.qslip f) s = .next t ∧ s.SameRegs t ∧ s.WentOn t
            ∧ s.OnlyCrew t { s.myCrew with slip := if f.imm = 0 then 8 * q - 16 else min (max f.imm.toNat 16) (8 * q - 16) })
        ∧ (let sel := fun j => f.imm = 0 ∨ f.imm.getLsbD j = true
          (∀ j, j < 8 → sel j → s.myCrew.lqAt j = [] ∧ ∀ l ∈ s.myCrew.loads, l.pushes = true → l.q ≠ j) → (sel 8 → s.myCrew.cq = []) →
          s.OnlyAdvances (.qdrain f))
        ∧ (s.ready [f.a.toNat] [d] = true →
          let n := a.toNat
          let b := (s.shareOf s.me).b
          let fits := fun x => x + n ≤ 8 ∧ ∀ j, x ≤ j → j < x + n → ∀ k ∈ coreCrews (crewCore s.me), k = s.me ∨ holds s k j = false
          let become := fun x => ∃ t, exec (.lpreq f) s = .next t ∧ s.Sets t d ⟨a, false⟩ ∧ s.WentOn t
            ∧ (s.setShare s.me ⟨x, n⟩).OnlySeqr t
          (n < 1 ∨ 8 < n → s.Gives (.lpreq f) d 0 0)
          ∧ (1 ≤ n → n ≤ 8 → (∀ x, ¬fits x) → s.Gives (.lpreq f) d 0 0)
          ∧ (1 ≤ n → n ≤ 8 → fits b → become b)
          ∧ (∀ x, 1 ≤ n → n ≤ 8 → ¬fits b → fits x → (∀ y, y < x → ¬fits y) → become x))
        ∧ (s.ready [f.a.toNat] [d] = true →
          let n := a.toNat
          let sh := s.shareOf s.me
          (1 ≤ n ∧ n < sh.g → ∃ t, exec (.lprel f) s = .next t ∧ s.Sets t d ⟨a, false⟩ ∧ s.WentOn t
            ∧ (s.setShare s.me ⟨sh.b, n⟩).OnlySeqr t)
          ∧ (¬(1 ≤ n ∧ n < sh.g) → s.Gives (.lprel f) d (BitVec.ofNat 64 sh.g) 0)))
  ∧ (
    ∀ (s : State) (f : T32g) (e : CqEntry) (r : List CqEntry), s.cur.xs = true → s.stepping = false →
        s.ready [] [f.x.toNat] = true → s.myCrew.cq = e :: r →
        let d := f.x.toNat
        let n := (e.v.extractLsb' 0 15).toNat
        let adopts := fun (i : Instr) (m : Nat) => ∃ t, exec i s = .next t ∧ s.Sets t d ⟨BitVec.ofNat 64 m, false⟩
          ∧ s.Advanced t ∧ t.seqr.vl = m
          ∧ t.seqr.vtype = ⟨(e.v.extractLsb' 16 2).toNat, (e.v.extractLsb' 18 2).toNat, (e.v.extractLsb' 20 2).toNat⟩
          ∧ t.seqr.share = ⟨(e.v.extractLsb' 24 3).toNat, (e.v.extractLsb' 27 4).toNat⟩
          ∧ s.OnlyCrew t { s.myCrew with cq := r }
        (e.isLen = true → adopts (.vtake f) n)
        ∧ (e.isLen = false → s.Raises (.vtake f) { code := 10, queue := 13 } s.seqr.pc)
        ∧ (e.isLen = false → ∃ t, exec (.cqpop f) s = .next t ∧ s.Sets t d ⟨e.v, false⟩ ∧ s.WentOn t
            ∧ s.OnlyCrew t { s.myCrew with cq := r })
        ∧ (e.isLen = true → s.Raises (.cqpop f) { code := 10, queue := 13 } s.seqr.pc)
        ∧ (∀ k rest, s.myCrew.lqAt f.q.toNat = k :: rest →
            (e.isLen = true → k.marker = false → k.n ≤ n → adopts (.vtakeq f) k.n)
            ∧ (e.isLen = false → s.Raises (.vtakeq f) { code := 10, queue := 13 } s.seqr.pc)
            ∧ (e.isLen = true → k.marker = false → n < k.n →
                let w := (e.v.extractLsb' 16 2).toNat
                s.Raises (.vtakeq f) { code := 9, queue := f.q.toNat, cinfo := qlenInfo k n w } s.seqr.pc)))

open Sys2Proof Sys2Proof.Machine in
/-- R235, R236, R199, R207, R214: a scalar load delivers the bytes at its address, sign- or zero-extended, with their
mark; an .sc load draws a ticket as it reads; a plain load that has been checked, and may not be read yet, leaves its
register to the data's return; a load from another die delivers what its home answered, or, once its check has been
acknowledged, leaves its register to the return of the data. -/
def Obligations.ScalarLoads : Prop :=
  ∀ (s : State) (f : T48c), s.cur.xs = false → s.stepping = false →
    let n := 2 ^ f.w.toNat
    let ga := s.address f
    let ext := fun (v : Scalar) => if f.sx then (⟨(BitVec.ofNat (8 * n) v.v.toNat).signExtend 64, v.p⟩ : Scalar) else v
    (∀ bs, s.ready [f.a.toNat] [f.d.toNat] = true → s.myCrew.req = none → isRemote s.me ga = false → f.sc = false →
        s.Reads s.me ga n bs →
        ∃ t, exec (.ld f) s = .next t ∧ s.Sets t f.d.toNat (ext (valueOf bs)) ∧ s.WentOn t ∧ s.OnlySeqr t)
    ∧ (∀ bs, s.ready [f.a.toNat] [f.d.toNat] = true → s.myCrew.req = none → isRemote s.me ga = false → f.sc = true →
        scRemote s.me ga = false → s.drained s.me → s.Reads s.me ga n bs →
        ∃ t, exec (.ld f) s = .next t ∧ s.Sets t f.d.toNat (ext (valueOf bs)) ∧ s.WentOn t
          ∧ (s.ticket (crewChip s.me)).OnlySeqr t)
    ∧ (∀ l, s.ready [f.a.toNat] [f.d.toNat] = true → s.myCrew.req = none → isRemote s.me ga = false → f.sc = false → f.ord ≠ 1 →
        checkAccess s s.me .read ga n = (.ok (.mem l), s) → s.letsAt s.me s.myCrew.acc l.kind l.bytes = false →
        ∃ t, exec (.ld f) s = .next t ∧ s.SameRegs t ∧ s.Advanced t
          ∧ t.seqr.busy = (if f.d = 0 then s.seqr.busy else s.seqr.busy ++ [f.d.toNat])
          ∧ (s.queueUp (2 * s.me + 1) l.bytes).OnlyCrew t { s.myCrew with
              acc := s.myCrew.acc + 1,
              reads := s.myCrew.reads ++ [{ d := f.d.toNat, sx := f.sx, bytes := l.bytes, die := byteDie (l.bytes.headD 0),
                                            kind := l.kind, num := s.myCrew.acc }] })
    ∧ ∀ q r kd bytes, s.myCrew.req = some q → q.phase = .returned r none kd bytes →
        (bytes = [] → ∃ t, exec (.ld f) s = .next t ∧ s.Sets t f.d.toNat (ext r) ∧ s.WentOn t
          ∧ s.OnlyCrew t { s.myCrew with req := none })
        ∧ (bytes ≠ [] → ∃ t, exec (.ld f) s = .next t ∧ s.SameRegs t ∧ s.Advanced t
          ∧ t.seqr.busy = (if f.d = 0 then s.seqr.busy else s.seqr.busy ++ [f.d.toNat])
          ∧ s.OnlyCrew t { s.myCrew with
              req := none, acc := s.myCrew.acc + 1,
              reads := s.myCrew.reads ++ [{ d := f.d.toNat, sx := f.sx, bytes := bytes, die := byteDie (bytes.headD 0),
                                            kind := (kd.map (·.kind)).getD 0, num := s.myCrew.acc }] })

open Sys2Proof Sys2Proof.Machine in
/-- R235 to R237, R201, R204, R207, R213: a scalar store writes the low bytes of d at its address; they stand in the
write-combining buffer, or in memory at once where the page is strongly ordered. One that an earlier access of the crew
must precede issues with its datum. An .sc store is performed at a ticket, in memory. A store to another die does the same
once its home has checked it. The bytes stored to are those of l, which the checks of the address a + imm give. -/
def Obligations.ScalarStores : Prop :=
  ∀ (s : State) (f : T48c) (l : Located), s.mayStore →
    let waits := s.myCrew.pendingAt l.kind l.bytes = true ∨ (l.kind = 1 ∧ s.soReds s.me = true)
    let stores := fun (v : Word) => ∃ t, exec (.st f) s = .next t ∧ s.Stored t s.me (bytesTo l v)
      ∧ (l.kind = 1 → ∀ p ∈ l.bytes, t.byte p = (t.seen s.me p).b)
      ∧ s.SameRegs t ∧ s.WentOn t ∧ s.KeepsCompute t
    let issues := fun (x : Elem) =>
      let s₁ := if l.kind = 1 then s.queueUp (2 * s.me + 1) l.bytes else s
      ∃ t, exec (.st f) s = .next t ∧ s.SameRegs t ∧ s.WentOn t
        ∧ s₁.OnlyCrew t { s.myCrew with
            req := none, acc := s.myCrew.acc + 1,
            loads := s.myCrew.loads ++ [{ member := none, num := s.myCrew.acc,
                                          store := some { sq := 0, op := .write, left := [.at l], data := some x } }] }
    (s.ready [f.a.toNat, f.d.toNat] [] = true → s.myCrew.req = none → isRemote s.me (s.address f) = false →
      s.Reaches s.me .write (s.address f) (2 ^ f.w.toNat) l → byteDie (l.bytes.headD 0) = s.myDie →
      (f.sc = false → (f.ord = 2 → s.drained s.me) →
        (¬waits → stores (s.val f.d.toNat)) ∧ (waits → issues ⟨s.val f.d.toNat, true, false⟩))
      ∧ (f.sc = true → scRemote s.me (s.address f) = false → s.drained s.me →
        ∃ t, exec (.st f) s = .next t ∧ s.SameRegs t ∧ s.WentOn t ∧ s.KeepsCompute t
          ∧ (∀ p, t.byte p = (lastTo (bytesTo l (s.val f.d.toNat)) p).getD (s.byte p))
          ∧ (t.chip (crewChip s.me)).scseq = (s.chip (crewChip s.me)).scseq + 1))
    ∧ ∀ q r kd, s.myCrew.req = some q → q.phase = .returned r none kd l.bytes → l.kind = (kd.map (·.kind)).getD 0 → l.cached = false →
      l.lev = 3 →
        (l.bytes = [] → ∃ t, exec (.st f) s = .next t ∧ s.SameRegs t ∧ s.WentOn t ∧ s.OnlyCrew t { s.myCrew with req := none })
        ∧ (l.bytes ≠ [] → (¬waits →
            (l.kind = 1 → let d := byteDie (l.bytes.headD 0)
              s.delivers s.me d (s.heldFlits s.me d + flits l.bytes.length)) → stores r.v)
          ∧ (waits → issues ⟨r.v, true, r.p⟩))

open Sys2Proof Sys2Proof.Machine in
/-- R22 to R27: the crew's own scratchpad is reached by an address whose fields name it, while its context owns the core;
a byte beyond its bank allotment faults with reason 7, and one of a core of another owner with reason 9. R27, R214: the
issuer's checks refuse an address, of several reasons with the lowest (log entry 108); the load that meets it raises
ADDRFLT at itself with the address in sys.tval. That an .sc load of a window or of another chip raises SCREMOTE before
those checks is the model's reading (log entry 18). -/
def Obligations.ScratchpadAndAddressFaults : Prop :=
  (
    ∀ (s : State) (off n : Nat), off + n ≤ 2 ^ 20 → 0 < n →
        let ga := 2 ^ 60 + 2 ^ 59 + s.myCore % 64 * 2 ^ 45 + off
        (off + n ≤ 8192 * (s.core s.myCore).s → (s.core s.myCore).owner = some s.myCrew.ctx →
          s.anyBad ((List.range n).map (fun i => spadByte s.myCore (off + i))) = false → ∀ acc,
            s.Reaches s.me acc ga n
              { bytes := (List.range n).map (fun i => 2 ^ 45 + s.myCore * 2 ^ 20 + off + i), kind := 0, cached := false, lev := 0 })
        ∧ (8192 * (s.core s.myCore).s < off + n → ∀ acc,
            checkAccess s s.me acc ga n = (.fault { code := 14, reason := 7, tval := BitVec.ofNat 64 ga }, s))
        ∧ (off + n ≤ 8192 * (s.core s.myCore).s → (s.core s.myCore).owner ≠ some s.myCrew.ctx → ∀ acc,
            checkAccess s s.me acc ga n = (.fault { code := 14, reason := 9, tval := BitVec.ofNat 64 ga }, s)))
  ∧ (
    ∀ (s : State) (f : T48c), s.cur.xs = false → s.ready [f.a.toNat] [f.d.toNat] = true → s.myCrew.req = none →
        let ga := s.address f
        let raises := fun (code r : Nat) =>
          s.Raises (.ld f) { code := code, reason := r, tval := BitVec.ofNat 64 ga } s.seqr.pc
        (3 * 2 ^ 60 ≤ ga → raises 14 1)
        ∧ (∀ off, ga = 2 ^ 60 + 2 ^ 59 + off → off < 2 ^ 59 → off / 2 ^ 20 % 2 ^ 25 ≠ 0 → raises 14 2)
        ∧ (∀ ch va, ga = 2 ^ 59 + ch * 2 ^ 44 + va → va < 2 ^ 44 → 0x40 < ch → ch < 2 ^ 7 → raises 14 3)
        ∧ (∀ d ch va, ga = d * 2 ^ 51 + ch * 2 ^ 44 + va → va < 2 ^ 44 → ch ≤ 0x40 → d < 2 ^ 8 → d ≠ s.myDie →
            routeValid s s.myDie d = false → (f.sc = true → dieChip d = crewChip s.me) → raises 14 4)
        ∧ (∀ w off, ga = 2 * 2 ^ 60 + w * 2 ^ 56 + off → w < 16 → off < 2 ^ 48 → f.sc = false →
            (get {} s.myCrew.win w).bound = false → raises 14 6)
        ∧ (f.sc = true → (ga / 2 ^ 60 = 2 ∨ (∃ d off, ga = d * 2 ^ 51 + off ∧ off < 2 ^ 51 ∧ d < 2 ^ 8 ∧ dieChip d ≠ crewChip s.me)) →
            raises 20 0))

open Sys2Proof Sys2Proof.Machine in
/-- R207, R208, R210, R212, R248: a fence that has nothing else to wait for performs everything that the crew has stored.
-/
def Obligations.FencePerforms : Prop :=
  ∀ (s : State) (f : T32e), s.mayStore → redPending s s.me = false → s.myCrew.unperformed = false → s.myCrew.unread = false →
    ∃ t, exec (.fence f) s = .next t ∧ t.myCrew.wcb = [] ∧ (∀ p, t.byte p = (s.seen s.me p).b)
      ∧ s.SameRegs t ∧ s.WentOn t ∧ s.KeepsCompute t

open Sys2Proof Sys2Proof.Machine in
/-- R238, R240, R242, R243, R250, R322: a vector load issues with the places of its vl elements: with nb = 0 every active
one has been checked, with nb = 1 their addresses are formed, and it joins its completion counter. The five forms differ
in their addresses; only the elements of vlqi may be inactive. That each element is read as its group is pushed, and fails
its member with cause 32 where it is poisoned, is stated with the pushes (log entries 15 and 27). -/
def Obligations.VectorLoadsIssue : Prop :=
  ∀ (s : State) (f : T48c) (A : Nat → Nat) (S : Nat → Site) (act : Nat → Bool),
    s.cur.xs = false → s.stepping = false → f.sc = false → s.myCrew.sc = none → (s.myCrew.loads.filter (·.load)).length < 8 →
    let n := s.myCrew.alen
    let a := s.address f
    let b := (s.val f.b.toNat).toNat
    let c := (s.val f.c.toNat).toNat
    let w := 2 ^ f.w.toNat
    let g := max 1 s.seqr.share.g
    let ctr := (s.myCrew.counter f.cc.toNat).join
    let cc := if f.nb then ins s.myCrew.cc f.cc.toNat ctr else s.myCrew.cc
    (∀ i, i < n → act i = true → A i < 2 ^ 64 ∧ (f.nb = false → checkAccess s s.me .read (A i) w = (.ok (S i), s))) →
    (f.nb = true → (s.myCrew.counter f.cc.toNat).blocked = false) →
    let targets : List Target := (List.range n).map (fun i => if act i then some (.ok (A i)) else none)
    let spots := if f.nb then askSpots s s.me .read w targets
      else (List.range n).map (fun i => if act i then spotOf (some (.ok (S i))) else .off)
    let job : LoadJob := { q := f.d.toNat % 8, tok := { n := n, wc := f.w.toNat, gsz := 8 * g, spg := groupSlots g f.w.toNat },
                           spots := spots, acq := f.ord == 1, num := s.myCrew.acc, load := true,
                           member := if f.nb then some ⟨s.me, f.cc.toNat, ctr.batch.id⟩ else none }
    let issues := fun (i : Instr) (iq : List Tok) =>
      ∃ t, exec i s = .next t ∧ s.SameRegs t ∧ s.WentOn t
        ∧ s.OnlyCrew t { s.myCrew with loads := s.myCrew.loads ++ [job], acc := s.myCrew.acc + 1, iq := iq, cc := cc }
    let all := ∀ i, i < n → act i = true
    (s.ready [f.a.toNat] [] = true → all → (∀ i, i < n → A i = (a + i * w) % 2 ^ 64) → issues (.vlq f) s.myCrew.iq)
    ∧ (s.ready [f.a.toNat, f.b.toNat] [] = true → all → (∀ i, i < n → A i = (a + i * b) % 2 ^ 64) →
        issues (.vlqs f) s.myCrew.iq)
    ∧ (∀ idx : Nat → List VByte, s.ready [f.a.toNat, f.b.toNat, f.c.toNat] [] = true → all →
        (∀ i, i < n → s.Reads s.me ((c + 4 * i) % 2 ^ 64) 4 (idx i) ∧ (valueOf (idx i)).p = false
          ∧ A i = (a + leNat ((idx i).map (·.b)) * b) % 2 ^ 64) →
        issues (.vlqx f) s.myCrew.iq)
    ∧ (∀ k, s.ready [f.a.toNat, f.b.toNat] [] = true → s.myCrew.iq[s.myCrew.claimedIq]? = some k → k.marker = false → k.n = n →
        k.elems.length = n →
        (∀ i e, k.elems[i]? = some e → act i = e.act ∧ (e.act = true → e.p = false ∧ A i = (a + e.v.toNat * b) % 2 ^ 64)) →
        issues (.vlqi f) (s.myCrew.iq.eraseIdx s.myCrew.claimedIq))
    ∧ (s.ready [f.a.toNat, f.b.toNat, f.c.toNat] [] = true → all →
        (∀ i, i < n → A i = (a + i / (if c = 0 then 2 ^ 64 else c) * b + i % (if c = 0 then 2 ^ 64 else c) * w) % 2 ^ 64) →
        issues (.vlqt f) s.myCrew.iq)

open Sys2Proof Sys2Proof.Machine in
/-- R233, R238, R241, R243, R250, R321, R322: a vector store whose data token stands at its place in the queue issues:
with nb = 0 its active elements have been checked, with nb = 1 their addresses are formed and it joins its completion
counter. Its data token, and the index token of a vsqi, stay until its elements are performed. The four forms differ in
their addresses. R223, R241, R322: the first vector store that has issued writes the elements of its token's next group
that are active and pass their checks, in increasing order, each at its bytes; with the last of them its tokens are
popped. Where no access that has issued stores, VECTOR_STORE_PERFORM runs the instruction that waits for its token. -/
def Obligations.VectorStores : Prop :=
  (
    ∀ (s : State) (f : T48c) (A : Nat → Nat) (L : Nat → Located) (k : Tok),
        s.cur.xs = false → s.stepping = false → f.sc = false → s.myCrew.sc = none → (f.ord = 2 → s.drained s.me) →
        (s.myCrew.loads.filter (fun j => j.store.isSome && !j.scalar)).length + (s.myCrew.owed.filter (·.vec)).length < 8 →
        (s.myCrew.sqAt f.d.toNat)[s.myCrew.claimed f.d.toNat]? = some k → k.marker = false → k.n = s.myCrew.alen →
        k.wc = f.w.toNat → k.elems.length ≤ k.n → (f.nb = false → k.elems.length = k.n) →
        let act := fun i => (k.elems.getD i {}).act
        (f.nb = true → (s.myCrew.counter f.cc.toNat).blocked = false) →
        let n := s.myCrew.alen
        let a := s.address f
        let b := (s.val f.b.toNat).toNat
        let c := (s.val f.c.toNat).toNat
        let w := 2 ^ f.w.toNat
        let g := max 1 s.seqr.share.g
        let ctr := (s.myCrew.counter f.cc.toNat).join
        let issues := fun (i : Instr) (on : Nat → Bool) (indexed : Bool) (iq : List Tok) =>
          (∀ i, i < n → on i = true → A i < 2 ^ 64
            ∧ (f.nb = false → checkAccess s s.me .write (A i) w = (.ok (.mem (L i)), s))) →
          let targets : List Target := (List.range n).map (fun i => if on i then some (.ok (A i)) else none)
          let spots := if f.nb then askSpots s s.me .write w targets
            else (List.range n).map (fun i => if on i then .at (L i) else .off)
          let job : LoadJob := { tok := { n := n, wc := f.w.toNat, gsz := 8 * g, spg := groupSlots g f.w.toNat },
                                 member := if f.nb then some ⟨s.me, f.cc.toNat, ctr.batch.id⟩ else none,
                                 acq := f.ord == 1, num := s.myCrew.acc,
                                 store := some { sq := f.d.toNat, op := .write, left := spots, iq := indexed } }
          ∃ t, exec i s = .next t ∧ s.SameRegs t ∧ s.WentOn t
            ∧ s.OnlyCrew t { s.myCrew with loads := s.myCrew.loads ++ [job], acc := s.myCrew.acc + 1, iq := iq,
                                           cc := if f.nb then ins s.myCrew.cc f.cc.toNat ctr else s.myCrew.cc }
        (s.ready [f.a.toNat] [] = true → (∀ i, i < n → A i = (a + i * w) % 2 ^ 64) → issues (.vsq f) act false s.myCrew.iq)
        ∧ (s.ready [f.a.toNat, f.b.toNat] [] = true → (∀ i, i < n → A i = (a + i * b) % 2 ^ 64) →
            issues (.vsqs f) act false s.myCrew.iq)
        ∧ (∀ idx : Nat → List VByte, s.ready [f.a.toNat, f.b.toNat, f.c.toNat] [] = true → k.elems.length = n →
            (∀ i, i < n → act i = true → s.Reads s.me ((c + 4 * i) % 2 ^ 64) 4 (idx i) ∧ (valueOf (idx i)).p = false
              ∧ A i = (a + leNat ((idx i).map (·.b)) * b) % 2 ^ 64) → issues (.vsqx f) act false s.myCrew.iq)
        ∧ (∀ x, s.ready [f.a.toNat, f.b.toNat] [] = true → s.myCrew.iq[s.myCrew.claimedIq]? = some x → x.marker = false → x.n = n →
            x.elems.length = n →
            (∀ i e, x.elems[i]? = some e → e.act = true → act i = true → e.p = false ∧ A i = (a + e.v.toNat * b) % 2 ^ 64) →
            issues (.vsqi f) (fun i => act i && (x.elems.getD i {}).act) true (s.myCrew.iq.modify s.myCrew.claimedIq Tok.readAll)))
  ∧ (
    (∀ (s : State) (k : Nat) (pre post : List LoadJob) (j : LoadJob) (p : StorePart) (t : Tok) (r : List Tok), s.buffers k →
        s.Storing k pre post j p t r t.gsz → p.op = .write →
        let mayWrite := fun (l : Located) => s.mayGo k j.num l ∧ ∀ p ∈ l.bytes, byteDie p = crewDie k
        let writes := fun (cells : List (Nat × Byte)) => ∃ s', exec (.vectorStorePerform k) s = .next s' ∧ s.Stored s' k cells
          ∧ s.KeepsOf s' k ∧ s.Performed s' k pre post j p t r t.gsz j.todo []
        let g := s.groupOf k (2 ^ t.wc) p t t.gsz
        ((∀ x ∈ g, x.2.act = true → (∀ c, x.1 = .fault c → c.code ≠ 22) ∧ (∀ ga h, x.1 ≠ .ask ga h)
            ∧ ∀ l, x.1 = .at l → mayWrite l) →
          writes (g.flatMap (fun x => match x.1 with
            | .at l => if x.2.act then bytesTo l x.2.v else []
            | _ => [])))
        ∧ ∀ ga h e, p.group t t.gsz = [(.ask ga h, e)] → e.act = true →
          (∀ l, checkAccess s k .write ga (2 ^ t.wc) = (.ok (.mem l), s) → mayWrite l → writes (bytesTo l e.v))
          ∧ ∀ c, checkAccess s k .write ga (2 ^ t.wc) = (.fault c, s) → c.code ≠ 22 → writes [])
      ∧ ∀ (s₀ s : State) (k : Nat) (i : Instr), (∀ j ∈ (s₀.crew k).loads, j.store = none) → s₀.RunsAgain k false i s →
          (∃ f, i = .vsq f ∨ i = .vsqs f ∨ i = .vsqx f ∨ i = .vsqi f ∨ i = .vred f) →
          exec (.vectorStorePerform k) s₀ = exec i s)

open Sys2Proof Sys2Proof.Machine in
/-- R213, R214, R245: an .sc vector access of any form whose elements pass their checks holds its sequencer, and performs
its elements one at a time, each at a ticket of the chip's sequence counter, after the crew's own stores; when none is
left, a load issues its token and a store pops its own. The lowest active element on another chip or in a window raises
SCREMOTE at the access. -/
def Obligations.ScAccessesDrawTickets : Prop :=
  (∀ (s : State) (f : T48c) (A : Nat → Nat) (L : Nat → Located) (on : Nat → Bool), s.cur.xs = false → f.sc = true → f.nb = false →
      f.ff = false → s.myCrew.sc = none →
      let n := s.myCrew.alen
      let a := s.address f
      let b := (s.val f.b.toNat).toNat
      let c := (s.val f.c.toNat).toNat
      let w := 2 ^ f.w.toNat
      let unit := ∀ i, i < n → A i = (a + i * w) % 2 ^ 64
      let strided := ∀ i, i < n → A i = (a + i * b) % 2 ^ 64
      let tiled := ∀ i, i < n → A i = (a + i / (if c = 0 then 2 ^ 64 else c) * b + i % (if c = 0 then 2 ^ 64 else c) * w) % 2 ^ 64
      let indexed := ∃ idx : Nat → List VByte, ∀ i, i < n → on i = true → s.Reads s.me ((c + 4 * i) % 2 ^ 64) 4 (idx i)
        ∧ (valueOf (idx i)).p = false ∧ A i = (a + leNat ((idx i).map (·.b)) * b) % 2 ^ 64
      let token := fun (x : Tok) => s.myCrew.iq[s.myCrew.claimedIq]? = some x ∧ x.marker = false ∧ x.n = n ∧ x.elems.length = n
        ∧ ∀ i e, x.elems[i]? = some e → (on i = true → e.act = true) ∧ (e.act = true → e.p = false ∧ A i = (a + e.v.toNat * b) % 2 ^ 64)
      let holds := fun (i : Instr) (store : Bool) (data : Nat → Elem) (iq : List Tok) =>
        let acc : Acc := if store then .write else .read
        ((∀ e, e < n → on e = true → scRemote s.me (A e) = false ∧ checkAccess s s.me acc (A e) w = (.ok (.mem (L e)), s)) →
          ∃ t, exec i s = .next t ∧ t.seqr.pc = s.seqr.pc ∧ t.seqr.wait = some i ∧ s.SameRegs t
            ∧ s.OnlyCrew t { s.myCrew with
                iq := iq,
                sc := some { store := store, q := if store then 0 else f.d.toNat % 8, wc := f.w.toNat, n := n,
                             left := ((List.range n).filter on).map (fun e => (e, L e, data e)),
                             done := if store then [] else (List.range n).map (fun e => { act := on e }) } })
        ∧ ∀ e, e < n → on e = true → (∀ j, j < e → on j = true → scRemote s.me (A j) = false) → scRemote s.me (A e) = true →
          ∃ t, exec i s = .next t ∧ t.seqr.run = .halted ∧ t.seqr.pc = s.seqr.pc ∧ s.SameRegs t ∧ s.KeepsBytes t []
            ∧ (s.myCrew.stop ≠ .trap → t.myCrew.trap.cause =
                ({ code := 20, elem := some e, tval := BitVec.ofNat 64 (A e) } : Trap).word false
              ∧ t.myCrew.trap.tval = BitVec.ofNat 64 (A e))
      let ra := [f.a.toNat]
      let rb := [f.a.toNat, f.b.toNat]
      let rc := [f.a.toNat, f.b.toNat, f.c.toNat]
      ((s.myCrew.loads.filter (·.load)).length < 8 →
        ((∀ i, i < n → on i = true) →
          (s.ready ra [] = true → unit → holds (.vlq f) false (fun _ => {}) s.myCrew.iq)
          ∧ (s.ready rb [] = true → strided → holds (.vlqs f) false (fun _ => {}) s.myCrew.iq)
          ∧ (s.ready rc [] = true → indexed → holds (.vlqx f) false (fun _ => {}) s.myCrew.iq)
          ∧ (s.ready rc [] = true → tiled → holds (.vlqt f) false (fun _ => {}) s.myCrew.iq))
        ∧ ∀ x, s.ready rb [] = true → token x → (∀ i e, x.elems[i]? = some e → on i = e.act) →
          holds (.vlqi f) false (fun _ => {}) (s.myCrew.iq.eraseIdx s.myCrew.claimedIq))
      ∧ ∀ k, (s.myCrew.loads.filter (fun j => j.store.isSome && !j.scalar)).length + (s.myCrew.owed.filter (·.vec)).length < 8 →
        (s.myCrew.sqAt f.d.toNat)[s.myCrew.claimed f.d.toNat]? = some k → k.marker = false → k.n = n → k.wc = f.w.toNat →
        k.elems.length = n →
        let data := fun i => k.elems.getD i {}
        ((∀ i, i < n → on i = (data i).act) →
          (s.ready ra [] = true → unit → holds (.vsq f) true data s.myCrew.iq)
          ∧ (s.ready rb [] = true → strided → holds (.vsqs f) true data s.myCrew.iq)
          ∧ (s.ready rc [] = true → indexed → holds (.vsqx f) true data s.myCrew.iq))
        ∧ ∀ x, s.ready rb [] = true → token x → (∀ i e, x.elems[i]? = some e → on i = (e.act && (data i).act)) →
          holds (.vsqi f) true data s.myCrew.iq)
  ∧ ∀ (s : State) (k : Nat) (a : ScAccess), (s.crew k).sc = some a →
    (∀ e l d r, a.left = (e, l, d) :: r → s.drained k → s.admits k l.bytes = true →
      let home := byteDie (l.bytes.headD 0)
      s.delivers k home (flits (if a.store then l.bytes.length else 0)) → s.answers k home (flits (if a.store then 0 else l.bytes.length)) →
      ∃ t, exec (.scTicketDraw k) s = .next t ∧ (t.chip (crewChip k)).scseq = (s.chip (crewChip k)).scseq + 1
        ∧ (∀ j, j ≠ k → t.crew j = s.crew j)
        ∧ (a.store = false → s.anyBad l.bytes = false →
          let v := valueOf (l.bytes.map s.vbyte)
          let x : Elem := if pathDown s (crewDie k) home then ⟨0, true, true⟩ else ⟨v.v, true, v.p⟩
          t.crew k = { s.crew k with sc := some { a with left := r, done := a.done.set e x } } ∧ s.KeepsBytes t [])
        ∧ (a.store = true → (t.crew k).sc = some { a with left := r }
          ∧ ∀ p, t.byte p = (lastTo (l.bytes.zip (leBytes l.bytes.length d.v.toNat)) p).getD (s.byte p)))
    ∧ (∀ (f : T48c) (i : Instr), k = s.me → s.cur.xs = false → s.stepping = false → a.left = [] →
      let ends := ∃ t, exec i s = .next t ∧ t.myCrew.sc = none ∧ s.SameRegs t ∧ s.WentOn t ∧ s.KeepsBytes t []
      (i ∈ [Instr.vlq f, .vlqs f, .vlqx f, .vlqi f, .vlqt f] → ends ∧ ∀ t, exec i s = .next t →
        t.myCrew.loads.map (·.todo) = s.myCrew.loads.map (·.todo) ++ [a.done] ∧ t.myCrew.iq = s.myCrew.iq)
      ∧ (i ∈ [Instr.vsq f, .vsqs f, .vsqx f, .vsqi f] → ends ∧ ∀ t, exec i s = .next t →
        t.myCrew.sqAt f.d.toNat = (s.myCrew.sqAt f.d.toNat).eraseIdx (s.myCrew.claimed f.d.toNat) ∧ t.myCrew.loads = s.myCrew.loads
          ∧ t.myCrew.iq = if i = .vsqi f then s.myCrew.iq.eraseIdx s.myCrew.claimedIq else s.myCrew.iq))

open Sys2Proof Sys2Proof.Machine in
/-- R207, R231, R240, R243, R321, R322, R223, R409: the steps of the memory side of a crew. An access pushes the next
element group of its token, within the load queues' limit and the whole share, reading as it does what it does not have in
hand; an element that faults or is read poisoned fails its member, with the cause of the first (log entries 15 and 27).
What a crew that has been ended would push is discarded (log entry 47). A line of the write-combining buffer drains to
memory whole. R216 to R219: the steps of the core-cache directory on a span of words. A read makes the core a holder of
each word, clean everywhere else; ownership makes it the only holder, dirty; writing back and invalidating give the words
up. That a valid word of a core cache holds what memory reads as is the model's reading of R218 (log entry 19). -/
def Obligations.MemorySideAndDirectory : Prop :=
  (
    ∀ (s : State) (k i : Nat),
        (∀ j (got : List (Elem × Option Nat)), (s.crew k).loads[i]? = some j → j.pushes = true →
          (∀ x ∈ (s.crew k).loads.take i, x.pushes = true → x.q ≠ j.q) →
          j.tok.marker = false → j.block = none → (j.store ≠ none → j.tok.gsz ≤ j.todo.length) →
          ((s.crew k).state ≠ 6 → (s.crew k).lqSlots + j.tok.spg ≤ (s.crew k).slip
            ∧ (s.crew k).lqSlots + (s.crew k).sqSlots + j.tok.spg ≤ 8 * (s.core (crewCore k)).q) →
          (∀ m, j.member = some m → m.crew = k ∧ (s.crew k).a.run ≠ .exited) →
          let next := j.spots.take (j.tok.gsz - j.todo.length)
          got.length = next.length → (∀ (n : Nat) (x : Spot) (e : Elem) (c : Option Nat), next[n]? = some x → got[n]? = some (e, c) →
            s.Fetches k j.num (2 ^ j.tok.wc) x e c) →
          let all := j.todo ++ got.map (·.1)
          let es := all.take j.tok.gsz
          let rest : LoadJob := { j with
            todo := all.drop j.tok.gsz, spots := j.spots.drop got.length, begun := true,
            fail := j.fail <|> got.findSome? (fun e => e.2 <|> if e.1.p then some 32 else none) }
          let more := rest.todo ≠ [] ∨ rest.spots ≠ [] ∨ j.store ≠ none
          ∃ t, exec (.loadTokenPush k i) s = .next t
            ∧ ((s.crew k).state ≠ 6 → (j.begun = false → (t.crew k).lqAt j.q = (s.crew k).lqAt j.q ++ [{ j.tok with elems := es }])
              ∧ (∀ ts x, j.begun = true → (s.crew k).lqAt j.q = ts ++ [x] →
                  (t.crew k).lqAt j.q = ts ++ [{ x with elems := x.elems ++ es }]))
            ∧ ((s.crew k).state = 6 → (t.crew k).lq = (s.crew k).lq)
            ∧ (more → (t.crew k).loads = (s.crew k).loads.set i rest)
            ∧ (¬more → (t.crew k).loads = (s.crew k).loads.eraseIdx i)
            ∧ (t.crew k).a = (s.crew k).a ∧ (t.crew k).x = (s.crew k).x ∧ s.KeepsBytes t [])
        ∧ (∀ l, (s.crew k).wcb[i]? = some l → (s.crew k).wcbOk → (s.crew k).owed = [] →
          s.admits k (l.bytes.map (fun e => 64 * l.line + e.1)) = true →
          s.delivers k (byteDie (64 * l.line)) (flits l.bytes.length) →
          ∃ t, exec (.wcbLineDrain k i) s = .next t
            ∧ (∀ e ∈ l.bytes, t.byte (64 * l.line + e.1) = e.2.b)
            ∧ s.KeepsBytes t (l.bytes.map (fun e => 64 * l.line + e.1))
            ∧ (∀ p, (t.seen k p).b = (s.seen k p).b)
            ∧ (t.crew k).wcb = (s.crew k).wcb.filter (fun x => x.line != l.line) ∧ ∀ j, j ≠ k → t.crew j = s.crew j))
  ∧ (
    ∀ (s : State) (core blk first cnt : Nat), 1 ≤ cnt → first + cnt ≤ 64 → blk < 2 ^ 29 →
        let d := coreDie core
        let ws := (List.range cnt).map (fun i => (d * 2 ^ 37 + blk * 256) / 4 + first + i)
        let valid := fun (x : State) (n w : Nat) => (get {} (x.core n).cache (w / 16)).valid.getLsbD (w % 16)
        let dirty := fun (x : State) (n w : Nat) => (get {} (x.core n).cache (w / 16)).dirty.getLsbD (w % 16)
        let granted := cacheable s core blk = true ∧ s.clear (ws.map (4 * ·)) = true ∧ SMap.wf {} (s.core core).cache = true
          ∧ (s.core core).cache.length + 4 ≤ (s.core core).cacheLines
        let keeps := fun (t : State) => s.KeepsBytes t [] ∧ t.crews = s.crews ∧ ∀ n, (t.core n).vregs = (s.core n).vregs
        (granted → ∃ t, exec (.readSpan core blk first cnt) s = .next t ∧ keeps t
            ∧ ∀ w ∈ ws, valid t core w = true ∧ ∀ n, n ≠ core → dirty t n w = false ∧ valid t n w = valid s n w)
        ∧ (granted → ∃ t, exec (.ownSpan core blk first cnt) s = .next t ∧ keeps t
            ∧ ∀ w ∈ ws, valid t core w = true ∧ dirty t core w = true
              ∧ ∀ n, n ≠ core → valid t n w = false ∧ dirty t n w = false)
        ∧ (∀ keep, (∀ w ∈ ws, dirty s core w = true) →
            ∃ t, exec (.writeBackSpan core blk first cnt keep) s = .next t ∧ keeps t
              ∧ ∀ w ∈ ws, dirty t core w = false ∧ valid t core w = (keep && valid s core w))
        ∧ (∃ t, exec (.invalidateSpan core blk first cnt) s = .next t ∧ keeps t
            ∧ ∀ w ∈ ws, valid t core w = false ∧ dirty t core w = false))

open Sys2Proof Sys2Proof.Machine in
/-- R279, R280, R285, R284, R206, R213, R236: a scalar access to another die. The request goes out with the sender's
version; the receiver accepts it or refuses it for its version; the home performs or checks it; the reply returns with the
page's kind, or the access fails once its path is dark. A load whose check is acknowledged receives its data later. R282,
R283: credits return as a cumulative count that never exceeds what was sent; an acknowledgement releases the copies of the
flits up to its number. -/
def Obligations.RemoteAccesses : Prop :=
  (
    ∀ s : State,
        (∀ f : T48c, s.cur.xs = false → s.myCrew.req = none →
          let n := 2 ^ f.w.toNat
          let dst := gaDie s.myDie (s.address f)
          isRemote s.me (s.address f) = true → (f.sc = true → scRemote s.me (s.address f) = false ∧ s.drained s.me) →
          pathDown s s.myDie dst = false → sending s s.myDie = true →
          let sends := fun (i : Instr) (op : ReqOp) =>
            ∃ t, exec i s = .next t ∧ t.seqr.pc = s.seqr.pc ∧ t.seqr.wait = some i ∧ s.SameRegs t ∧ s.KeepsBytes t []
              ∧ t.myCrew.req = some { op := op, sc := f.sc, ga := BitVec.ofNat 64 (s.address f), src := s.myDie, dst := dst,
                                      ver := dieVersion s s.myDie, phase := .sent }
          (s.ready [f.a.toNat] [f.d.toNat] = true → (∃ pl, crewCheck s s.me false (s.address f) n = .ok pl) → s.affords s.myDie dst 1 →
            sends (.ld f) (.read n (!f.sc && f.ord != 1 && kindKnown s s.me (s.address f))))
          ∧ (s.ready [f.a.toNat, f.d.toNat] [] = true → (∃ pl, crewCheck s s.me true (s.address f) n = .ok pl) →
            s.affords s.myDie dst 2 → (f.ord = 2 → s.drained s.me) → sends (.st f) (.write n ⟨s.val f.d.toNat, false⟩)))
        ∧ (∀ k q, (s.crew k).req = some q →
          let becomes := fun (i : Instr) (q' : Req) => exec i s = .next (s.setCrew k { s.crew k with req := some q' })
          let idle := ∀ j ∈ (s.crew k).reads, j.value ≠ none
          (q.phase = .sent → (s.chip (dieChip q.dst)).supplied = true → q.ver = dieVersion s q.dst →
            becomes (.packetReceive k) { q with phase := .arrived })
          ∧ (q.phase = .sent → (s.chip (dieChip q.dst)).supplied = true → q.ver ≠ dieVersion s q.dst →
            becomes (.packetReceive k) { q with phase := .nacked })
          ∧ (q.phase = .nacked → becomes (.versionNackReceive k) { q with phase := .held })
          ∧ (q.phase = .held → dieVersion s q.src = dieVersion s q.dst →
            (routeValid s q.src q.dst = false →
              becomes (.packetResend k) { q with phase := .returned {} (some { code := 14, reason := 4, tval := q.ga }) none [] })
            ∧ (routeValid s q.src q.dst = true → pathDown s q.src q.dst = true →
              becomes (.packetResend k) { q with phase := .returned {} (some { code := 22, tval := q.ga }) none [] })
            ∧ (routeValid s q.src q.dst = true → pathDown s q.src q.dst = false → s.affords q.src q.dst (flits q.payload) → q.src ≠ q.dst →
              ∃ t, exec (.packetResend k) s = .next t
                ∧ t.crew k = { s.crew k with req := some { q with ver := dieVersion s q.src, phase := .sent } }
                ∧ t.cores = s.cores ∧ s.KeepsBytes t [] ∧ ∀ j, j ≠ k → t.crew j = s.crew j))
          ∧ (pathDown s q.src q.dst = true → (s.crew k).reads = [] →
            (q.phase = .sent ∨ q.phase = .arrived ∨ q.phase = .nacked ∨ q.phase = .held ∨ ∃ r t kd bs, q.phase = .replied r t kd bs) →
            becomes (.darkRequestTimeout k) { q with phase := .returned {} (some { code := 22, tval := q.ga }) none [] })
          ∧ (∀ pl l, q.phase = .arrived → idle → q.sc = false → crewCheck s k q.op.acc.writes q.ga.toNat q.op.size = .ok pl →
            locate s (some (crewCore k)) (s.crew k).ctx q.op.acc q.op.size pl = (.ok l, s) →
            let kd := if q.ga.toNat / 2 ^ 60 = 0 then some (l.entry q.dst (s.crew k).ctx (q.ga.toNat % 2 ^ 51)) else none
            let replies := fun (r : Scalar) (bytes : List Nat) =>
              becomes (.homeAccessPerform k) { q with phase := .replied r none kd bytes }
            let comes := s.lets k l.kind l.bytes = true ∧ s.leave (2 * k) l.bytes = s
            (∀ n, q.op = .read n false → comes → s.anyBad l.bytes = false → replies (valueOf (l.bytes.map (s.seen k))) [])
            ∧ (∀ n, q.op = .read n true → replies {} l.bytes)
            ∧ (∀ n, q.op = .check n → replies {} l.bytes)
            ∧ (∀ n v, q.op = .write n v → replies v l.bytes)
            ∧ (∀ cas aop n x y, q.op = .rmw cas aop n x y → comes → (s.crew k).wcb = [] → s.clean l.bytes → l.bytes.Nodup →
              let m := 2 ^ (8 * l.bytes.length)
              let v := leNat (l.bytes.map s.byte)
              let new := if cas then (if v = x.toNat % m then y.toNat else v) else atomicOp aop l.bytes.length v x.toNat
              ∃ t, exec (.homeAccessPerform k) s = .next t
                ∧ t.crew k = { s.crew k with req := some { q with phase := .replied ⟨BitVec.ofNat 64 v, false⟩ none kd [] } }
                ∧ leNat (l.bytes.map t.byte) = new % m ∧ s.KeepsBytes t l.bytes ∧ ∀ j, j ≠ k → t.crew j = s.crew j))
          ∧ (∀ r x kd bytes, q.phase = .replied r x kd bytes → (∀ j ∈ (s.crew k).reads, j.value = none) →
            pathDown s q.src q.dst = false → s.affords q.dst q.src (flits q.op.answer) →
            ∃ t, exec (.accessReplyReturn k) s = .next t
              ∧ t.crew k = { s.crew k with req := some { q with phase := .returned r x kd bytes } }
              ∧ (∀ e, kd = some e → (t.core (crewCore k)).kinds.head? = some e)
              ∧ s.KeepsBytes t [] ∧ ∀ j, j ≠ k → t.crew j = s.crew j))
        ∧ ∀ k j r, (s.crew k).reads = j :: r → (s.crew k).a.busy.count j.d ≤ 1 →
          let delivers := fun (i : Instr) (v : Scalar) =>
            ∃ t, exec i s = .next t ∧ (t.crew k).reads = r ∧ (t.crew k).a.reg j.d = (if j.d = 0 then {} else v)
              ∧ j.d ∉ (t.crew k).a.busy ∧ s.KeepsBytes t [] ∧ ∀ x, x ≠ k → t.crew x = s.crew x
          (j.value = none → s.comes k j.num { bytes := j.bytes, kind := j.kind } → s.anyBad j.bytes = false →
            exec (.homeAccessPerform k) s = .next (s.setCrew k { s.crew k with
              reads := { j with value := some (valueOf (j.bytes.map (s.seen k))) } :: r }))
          ∧ (∀ v, j.value = some v → pathDown s (crewDie k) j.die = false → s.affords j.die (crewDie k) (flits j.bytes.length) →
            delivers (.accessReplyReturn k)
              ⟨if j.sx then (BitVec.ofNat (8 * j.bytes.length) v.v.toNat).signExtend 64 else v.v, v.p⟩)
          ∧ (pathDown s (crewDie k) j.die = true → delivers (.darkRequestTimeout k) ⟨0, true⟩))
  ∧ (
    ∀ (s : State) (die peer n : Nat),
        let p := get {} (s.die die).paths peer
        (n < 2 ^ 16 → (n + 2 ^ 16 - p.freed) % 2 ^ 16 ≤ (p.sent + 2 ^ 16 - p.freed) % 2 ^ 16 →
          ∃ t, exec (.creditReturnReceive die peer n) s = .next t ∧ get {} (t.die die).paths peer = { p with freed := n }
            ∧ t.crews = s.crews ∧ t.cores = s.cores ∧ s.KeepsBytes t [])
        ∧ (∀ i l, p.unack[i]? = some (n, l) → (∀ j m, j < i → p.unack[j]? = some m → m.1 ≠ n) →
          ∃ t, exec (.flitAcknowledge die peer n) s = .next t
            ∧ get {} (t.die die).paths peer = { p with unack := p.unack.drop (i + 1) }
            ∧ t.crews = s.crews ∧ t.cores = s.cores ∧ s.KeepsBytes t []))

open Sys2Proof Sys2Proof.Machine in
/-- R249 to R251: closing a batch, waiting for batches, and reading a completion counter; how instructions join one is
stated with them. cbatch and cwait leave an empty open batch as it is; a closed batch stays until it and every older one
have completed. -/
def Obligations.CompletionCounters : Prop :=
  ∀ (s : State) (f : T32e), s.cur.xs = false → s.stepping = false →
    let c := s.myCrew.counter f.cc.toNat
    let same := fun (t : State) => s.OnlyCrew t { s.myCrew with cc := t.myCrew.cc }
      ∧ ∀ m, m ≠ f.cc.toNat → t.myCrew.counter m = s.myCrew.counter m
    (c.joined = 0 → ∃ t, exec (.cbatch f) s = .next t ∧ t.myCrew.counter f.cc.toNat = c ∧ same t ∧ s.SameRegs t ∧ s.WentOn t)
    ∧ (c.joined ≠ 0 → c.closed.length < 15 → (∀ b, (c.closed ++ [c.batch]).head? = some b → b.pending ≠ 0) →
        ∃ t, exec (.cbatch f) s = .next t ∧ same t ∧ s.SameRegs t ∧ s.WentOn t
          ∧ t.myCrew.counter f.cc.toNat
            = { c with joined := 0, batch := { id := c.batch.id + 1 }, closed := c.closed ++ [c.batch] })
    ∧ (c.joined = 0 → c.closed.length ≤ f.imm.toNat → s.ready [] [f.d.toNat] = true →
        ∃ t, exec (.cwait f) s = .next t ∧ s.Sets t f.d.toNat ⟨if c.err then 1 else 0, false⟩ ∧ s.WentOn t ∧ same t
          ∧ t.myCrew.counter f.cc.toNat = c)
    ∧ (c.joined = 0 → f.imm.toNat < c.closed.length → s.ready [] [f.d.toNat] = true → s.myCrew.stop = .none →
        ∃ t, exec (.cwait f) s = .next t ∧ t.seqr.pc = s.seqr.pc ∧ t.seqr.wait = some (.cwait f) ∧ s.SameRegs t ∧ same t)
    ∧ (s.ready [] [f.d.toNat] = true → c.joined < 2 ^ 16 → c.closed.length ≤ 15 → c.ecause < 2 ^ 8 →
        ∃ t v, exec (.ccget f) s = .next t ∧ s.Sets t f.d.toNat ⟨v, false⟩ ∧ s.WentOn t ∧ same t
          ∧ (v.extractLsb' 0 16).toNat = c.joined ∧ (v.extractLsb' 16 4).toNat = c.closed.length ∧ v.getLsbD 24 = c.err
          ∧ (v.extractLsb' 32 8).toNat = (if c.err then c.ecause else 0)
          ∧ t.myCrew.counter f.cc.toNat = (if f.imm = 0 then c else { c with err := false, ecause := 0 }))

open Sys2Proof Sys2Proof.Machine in
/-- R253: waitw reads a word of the crew's own scratchpad; it completes with the word in d where the condition holds of
the word and b, and else it waits; a poisoned word is delivered with its mark (log entry 17). WAITW_REREAD is the same
reading later. R254, R255: a crew arrives once at a barrier, with its stores performed, and departs when every crew of its
set has arrived as often, which barrierOpen tests; a barrier below the crew's level does not wait. -/
def Obligations.WaitsAndBarriers : Prop :=
  (
    ∀ (s : State) (f : T32e) (off : Nat) (bs : List VByte), s.cur.xs = false → s.stepping = false →
        s.ready [f.a.toNat, f.b.toNat] [f.d.toNat] = true →
        let n := if f.imm.getLsbD 3 then 8 else 4
        (s.val f.a.toNat).toNat = 2 ^ 60 + 2 ^ 59 + s.myCore % 64 * 2 ^ 45 + off → off + n ≤ 8192 * (s.core s.myCore).s →
        off + n ≤ 2 ^ 20 → off % n = 0 → s.Reads s.me (s.val f.a.toNat).toNat n bs →
        let v := leNat (bs.map (·.b))
        let b := (s.val f.b.toNat).toNat % 2 ^ (8 * n)
        let x := (BitVec.ofNat (8 * n) v).toInt
        let y := (BitVec.ofNat (8 * n) b).toInt
        let cond := f.imm.toNat % 8
        let holds := (cond = 0 ∧ v = b) ∨ (cond = 1 ∧ v ≠ b) ∨ (cond = 2 ∧ x < y) ∨ (cond = 3 ∧ y ≤ x) ∨ (cond = 4 ∧ v < b)
          ∨ (cond = 5 ∧ b ≤ v)
        (holds → (∃ t, exec (.waitw f) s = .next t ∧ s.Sets t f.d.toNat (valueOf bs) ∧ s.WentOn t ∧ s.OnlySeqr t)
          ∧ ∀ s₀, s₀.RunsAgain s.me false (.waitw f) s →
            ∃ t, exec (.waitwReread s.me) s₀ = .next t ∧ s.Sets t f.d.toNat (valueOf bs) ∧ s.WentOn t ∧ s.OnlySeqr t)
        ∧ (cond ≤ 5 → ¬holds → s.myCrew.stop = .none →
          exec (.waitw f) s = .next (s.setSeqr { s.seqr with wait := some (.waitw f) })))
  ∧ (
    ∀ (s : State) (f : T32e), s.cur.xs = false → s.stepping = false →
        let L := f.imm.toNat
        let arrivals := get 0 s.myCrew.bars L
        (L < s.myCrew.lev → s.drained s.me → s.myCrew.arrived = none →
          ∃ t, exec (.bar f) s = .next t ∧ s.SameRegs t ∧ s.WentOn t ∧ t.myCrew.arrived = none
            ∧ get 0 t.myCrew.bars L = arrivals + 1
            ∧ s.OnlyCrew t { s.myCrew with arrived := none, bars := t.myCrew.bars })
        ∧ (s.drained s.me → s.myCrew.arrived ≠ some L →
          let c := { s.myCrew with arrived := some L, bars := put 0 s.myCrew.bars L (arrivals + 1) }
          let u := s.setCrew s.me c
          (barrierOpen u s.me L = true →
            ∃ t, exec (.bar f) s = .next t ∧ s.SameRegs t ∧ s.WentOn t ∧ s.OnlyCrew t { c with arrived := none })
          ∧ (barrierOpen u s.me L = false → s.myCrew.stop = .none →
            exec (.bar f) s = .next (u.setSeqr { u.seqr with wait := some (.bar f) })))
        ∧ (s.myCrew.arrived = some L → barrierOpen s s.me L = true →
          (∃ t, exec (.bar f) s = .next t ∧ s.SameRegs t ∧ s.WentOn t ∧ s.OnlyCrew t { s.myCrew with arrived := none })
          ∧ ∀ s₀, s₀.RunsAgain s.me false (.bar f) s →
            ∃ t, exec (.barrierRelease s.me) s₀ = .next t ∧ s.SameRegs t ∧ s.WentOn t
              ∧ s.OnlyCrew t { s.myCrew with arrived := none })
        ∧ (s.myCrew.arrived = some L → barrierOpen s s.me L = false → s.myCrew.stop = .none →
          exec (.bar f) s = .next (s.setSeqr { s.seqr with wait := some (.bar f) })))

open Sys2Proof Sys2Proof.Machine in
/-- R258, R260 to R262, R279: a returning atomic replaces the word by the operation's result in one step, and delivers the
word as it was; amocas writes only where the word equals its operand. Where it had waited, ATOMIC_PERFORM is the same. One
to another die is sent there with its operands, and delivers what its home answered. -/
def Obligations.ScalarAtomics : Prop :=
  ∀ (s : State) (f : T32c), s.cur.xs = false → s.stepping = false →
    (∀ l : Located, s.myCrew.req = none →
      let n := if f.imm.getLsbD 4 then 8 else 4
      let ga := (s.val f.a.toNat).toNat
      ga % n = 0 → isRemote s.me ga = false → s.drained s.me → s.Reaches s.me .rmw ga n l →
      s.lets s.me l.kind l.bytes = true → (∀ p ∈ l.bytes, (s.vbyte p).p = false) →
      let v := leNat (l.bytes.map s.byte)
      let x := (s.val f.b.toNat).toNat % 2 ^ (8 * n)
      let sv := (BitVec.ofNat (8 * n) v).toInt
      let sx := (BitVec.ofNat (8 * n) x).toInt
      let aop := f.imm.toNat % 16
      let gives := fun (i : Instr) (new : Nat) =>
        (∃ t, exec i s = .next t ∧ s.Sets t f.d.toNat ⟨BitVec.ofNat 64 v, false⟩ ∧ s.WentOn t ∧ s.KeepsCompute t
          ∧ leNat (l.bytes.map t.byte) = new ∧ s.KeepsBytes t l.bytes)
        ∧ ∀ s₀, (∀ j ∈ (s₀.crew s.me).loads, j.store = none) → s₀.RunsAgain s.me false i s →
            exec (.atomicPerform s.me) s₀ = exec i s
      (s.ready [f.a.toNat, f.b.toNat] [f.d.toNat] = true →
        (aop = 0 → gives (.amo f) ((v + x) % 2 ^ (8 * n)))
        ∧ (aop = 1 → gives (.amo f) (v &&& x)) ∧ (aop = 2 → gives (.amo f) (v ||| x)) ∧ (aop = 3 → gives (.amo f) (v ^^^ x))
        ∧ (aop = 4 → gives (.amo f) (if sv ≤ sx then v else x)) ∧ (aop = 5 → gives (.amo f) (if sv ≤ sx then x else v))
        ∧ (aop = 6 → gives (.amo f) (min v x)) ∧ (aop = 7 → gives (.amo f) (max v x))
        ∧ (aop = 8 → n = 4 → gives (.amo f) ((Fmt.fp32.add RNE v x).bits % 2 ^ 32)) ∧ (aop = 9 → gives (.amo f) x))
      ∧ (s.ready [f.a.toNat, f.b.toNat, f.c.toNat] [f.d.toNat] = true →
        gives (.amocas f) (if v = x then (s.val f.c.toNat).toNat % 2 ^ (8 * n) else v)))
    ∧ (∀ dst, dst = gaDie s.myDie (s.val f.a.toNat).toNat → s.myCrew.req = none →
        let n := if f.imm.getLsbD 4 then 8 else 4
        let ga := (s.val f.a.toNat).toNat
        ga % n = 0 → isRemote s.me ga = true → s.drained s.me → (∃ pl, crewCheck s s.me true ga n = .ok pl) →
        pathDown s s.myDie dst = false → sending s s.myDie = true → s.affords s.myDie dst (flits n) →
        let sends := fun (i : Instr) (cas : Bool) (y : Word) =>
          ∃ t, exec i s = .next t ∧ t.seqr.pc = s.seqr.pc ∧ t.seqr.wait = some i ∧ s.SameRegs t ∧ s.KeepsBytes t []
            ∧ t.myCrew.req = some { op := .rmw cas (f.imm.toNat % 16) n (s.val f.b.toNat) y, ga := s.val f.a.toNat, src := s.myDie,
                                    dst := dst, ver := dieVersion s s.myDie, phase := .sent }
        (s.ready [f.a.toNat, f.b.toNat] [f.d.toNat] = true → sends (.amo f) false 0)
        ∧ (s.ready [f.a.toNat, f.b.toNat, f.c.toNat] [f.d.toNat] = true → sends (.amocas f) true (s.val f.c.toNat)))
    ∧ ∀ q r kd bytes, s.myCrew.req = some q → q.phase = .returned r none kd bytes →
        ∀ i ∈ [Instr.amo f, .amocas f], ∃ t, exec i s = .next t ∧ s.Sets t f.d.toNat r ∧ s.WentOn t
          ∧ s.OnlyCrew t { s.myCrew with req := none }

open Sys2Proof Sys2Proof.Machine in
/-- R201, R204, R259, R261, R263, R266, R267, R280: a reduction joins its batch. In HBM it leaves the core as a
contribution to its word's slice, or issues while an earlier access of the crew must come before it; at a bank port it is
performed at once. Its address on another die is checked there first. A slice accepts the first contribution that it may,
into its word's chain or a new one, and a chain that closes applies its contributions in order and writes the word once.
-/
def Obligations.Reductions : Prop :=
  (∀ (s : State) (f : T32c) (l : Located) (p : Nat), s.cur.xs = false → s.stepping = false →
    let n := if f.imm.getLsbD 4 then 8 else 4
    let ga := (s.val f.a.toNat).toNat
    let cc := f.c.toNat % 16
    let aop := f.imm.toNat % 16
    let ctr := (s.myCrew.counter cc).join
    let m : Member := ⟨s.me, cc, ctr.batch.id⟩
    s.ready [f.a.toNat, f.b.toNat] [] = true → (s.myCrew.counter cc).blocked = false → s.buffers s.me → l.within p n →
    let sent := fun (t : State) => exec (.red f) s = .next t ∧ s.SameRegs t ∧ s.WentOn t ∧ s.KeepsCompute t
      ∧ (t.myCrew.counter cc).joined = ctr.joined
    let num := s.myCrew.acc
    let owed : Owed := { member := some m, fail := none, lines := [2 ^ 64 + num] }
    let free := s.mayGo s.me num l
    let home := byteDie p
    let reaches :=
      (p < 2 ^ 45 → free → s.delivers s.me home (s.heldFlits s.me home + flits n) →
        ∃ t, sent t ∧ s.KeepsBytes t (s.heldBytes s.me)
          ∧ s.Contributed t [⟨p / 8, p % 8, aop, n, ⟨s.val f.b.toNat, false⟩, some m, num, l.kind == 1⟩]
          ∧ owed ∈ t.myCrew.owed ∧ t.myCrew.acc = num + 1 ∧ t.myCrew.req = none)
      ∧ (p < 2 ^ 45 → ¬free →
        ∃ t, sent t ∧ s.KeepsBytes t [] ∧ s.Contributed t [] ∧ owed ∈ t.myCrew.owed ∧ t.myCrew.req = none
          ∧ t.myCrew.acc = num + 1 ∧ t.myCrew.loads = s.myCrew.loads ++ [{
              member := some m, num := num,
              store := some { sq := 0, op := .red aop, left := [.at l], data := some ⟨s.val f.b.toNat, true, false⟩ } }])
      ∧ (2 ^ 45 ≤ p → free → pathDown s s.myDie home = false → s.delivers s.me home (s.heldFlits s.me home + flits n) →
          s.anyBad (wordBytes (p / 8)) = false → (∀ b ∈ wordBytes (p / 8), (s.seen s.me b).p = false) →
          ∃ t, sent t ∧ (∀ b, (t.seen s.me b).b = amoByte aop l (s.val f.b.toNat) (fun q => (s.seen s.me q).b) b)
            ∧ s.KeepsBytes t (l.bytes ++ s.heldBytes s.me))
    (s.myCrew.req = none → ga % n = 0 → isRemote s.me ga = false → (64 ≤ f.imm.toNat % 128 → s.drained s.me) →
      s.Reaches s.me .red ga n l → reaches)
    ∧ (s.myCrew.req = none → ga % n = 0 → isRemote s.me ga = true → (64 ≤ f.imm.toNat % 128 → s.drained s.me) →
      (∃ pl, crewCheck s s.me true ga n = .ok pl) → pathDown s s.myDie (gaDie s.myDie ga) = false → sending s s.myDie = true →
      s.affords s.myDie (gaDie s.myDie ga) 1 →
      ∃ t, exec (.red f) s = .next t ∧ t.seqr.pc = s.seqr.pc ∧ t.seqr.wait = some (.red f) ∧ s.SameRegs t ∧ s.KeepsBytes t []
        ∧ t.myCrew.req = some { op := .check n, ga := BitVec.ofNat 64 ga, src := s.myDie, dst := gaDie s.myDie ga,
                                ver := dieVersion s s.myDie, phase := .sent })
    ∧ ∀ q r kd, s.myCrew.req = some q → q.phase = .returned r none kd l.bytes → l.kind = (kd.map (·.kind)).getD 0 →
        l.cached = false → l.lev = 3 → reaches)
  ∧ (∀ (s : State) (slice i : Nat) (c : Contribution),
    let sl := get {} (s.die (slice / 32)).slices (slice % 32)
    let named := fun (ch : Chain) (w : Nat) => ∃ y ∈ ch.parts, y.word = w
    let may := fun (i : Nat) (c : Contribution) =>
      (∀ b, b < c.n → get 0 s.locks ((8 * c.word + c.lane + b) / 4) = 0)
        ∧ s.turnOf (2 * (c.member.map (·.crew)).getD 0) ((List.range c.n).map (8 * c.word + c.lane + ·)) = true
        ∧ (∀ x ∈ sl.wait.take i, x.word ≠ c.word ∧ x.member.map (·.crew) ≠ c.member.map (·.crew))
        ∧ ((∀ ch ∈ sl.chains, ¬named ch c.word) → sl.chains.length < 64)
        ∧ ∀ ch, chainOf sl c.word = some ch → ∀ y ∈ ch.parts, y.aop = c.aop ∧ y.n = c.n
    sl.wait[i]? = some c → may i c → (∀ j x, j < i → sl.wait[j]? = some x → ¬may j x) →
    ∃ t, exec (.contributionAccept slice) s = .next t ∧ t.crews = s.crews ∧ s.KeepsBytes t []
      ∧ (get {} (t.die (slice / 32)).slices (slice % 32)).wait = sl.wait.eraseIdx i
      ∧ ((∀ ch ∈ sl.chains, ¬named ch c.word) →
          (get {} (t.die (slice / 32)).slices (slice % 32)).chains = sl.chains ++ [⟨[c]⟩])
      ∧ ∀ chs ch chs', sl.chains = chs ++ ch :: chs' → named ch c.word → (∀ x ∈ chs ++ chs', ¬named x c.word) →
          (get {} (t.die (slice / 32)).slices (slice % 32)).chains = chs ++ ⟨ch.parts ++ [c]⟩ :: chs')
  ∧ ∀ (s : State) (slice i : Nat) (c : Contribution) (r : List Contribution),
    let sl := get {} (s.die (slice / 32)).slices (slice % 32)
    let ps := wordBytes c.word
    sl.chains[i]? = some ⟨c :: r⟩ → (∀ x ∈ c :: r, x.x.p = false ∧ x.lane + x.n ≤ 8 ∧ ∀ m, x.member = some m →
      (s.crew m.crew).a.run ≠ .exited ∧ pathDown s (crewDie m.crew) (byteDie (8 * c.word)) = false
        ∧ ∀ o ∈ (s.crew m.crew).owed, ∀ y, o.member = some y → y.crew = m.crew) → s.clean ps →
    ∃ t, exec (.chainClose slice i) s = .next t
      ∧ (get {} (t.die (slice / 32)).slices (slice % 32)).chains = sl.chains.eraseIdx i
      ∧ ps.map t.byte = (c :: r).foldl (fun bs x =>
          bs.take x.lane ++ leBytes x.n (atomicOp x.aop x.n (leNat ((bs.drop x.lane).take x.n)) x.x.v.toNat)
            ++ bs.drop (x.lane + x.n)) (ps.map s.byte)
      ∧ s.KeepsBytes t ps ∧ ∀ k, (t.crew k).a = (s.crew k).a ∧ (t.crew k).x = (s.crew k).x

open Sys2Proof Sys2Proof.Machine in
/-- R264, R265, R321, R322: vamo and vred issue with their index token and their data token, which stay until the last
element has left the core. A vamo then performs its active elements in increasing order, and what the words were joins the
token that it pushes; a vred sends its active elements one by one as contributions, or performs those at a bank port. -/
def Obligations.VectorAtomics : Prop :=
  (∀ (s : State) (f : T48c) (L : Nat → Located) (it dt : Tok), s.cur.xs = false → s.stepping = false →
    s.ready [f.a.toNat, f.b.toNat] [] = true →
    (s.myCrew.loads.filter (fun j => j.store.isSome && !j.scalar)).length + (s.myCrew.owed.filter (·.vec)).length < 8 →
    (f.ord = 2 → s.drained s.me) →
    let q := f.d.toNat / 8 % 4
    let n := s.myCrew.alen
    let w := 2 ^ f.w.toNat
    let g := max 1 s.seqr.share.g
    let ctr := (s.myCrew.counter f.cc.toNat).join
    let m : Member := ⟨s.me, f.cc.toNat, ctr.batch.id⟩
    let act := fun i => (it.elems.getD i {}).act && (dt.elems.getD i {}).act
    let A := fun i => (s.address f + (it.elems.getD i {}).v.toNat * (s.val f.b.toNat).toNat) % 2 ^ 64
    s.myCrew.iq[s.myCrew.claimedIq]? = some it → it.marker = false → it.n = n → it.elems.length = n →
    (s.myCrew.sqAt q)[s.myCrew.claimed q]? = some dt → dt.marker = false → dt.n = n → dt.wc = f.w.toNat → dt.elems.length ≤ n →
    (f.nb = false → dt.elems.length = n) →
    let may := fun (acc : Acc) => ∀ i, i < n → act i = true →
      (it.elems.getD i {}).p = false ∧ A i % w = 0 ∧ (f.nb = false → checkAccess s s.me acc (A i) w = (.ok (.mem (L i)), s))
    let spots := fun (acc : Acc) =>
      if f.nb then askSpots s s.me acc w ((List.range n).map (fun i => if act i then some (.ok (A i)) else none))
      else (List.range n).map (fun i => if act i then .at (L i) else .off)
    let job : Acc → StoreOp → Option Member → LoadJob := fun acc op mem => {
      q := f.d.toNat % 8, tok := { n := n, wc := f.w.toNat, gsz := 8 * g, spg := groupSlots g f.w.toNat }, member := mem,
      acq := f.ord == 1, num := s.myCrew.acc, store := some { sq := q, op := op, left := spots acc, iq := true } }
    let iq := s.myCrew.iq.modify s.myCrew.claimedIq Tok.readAll
    (may .rmw → (f.nb = true → (s.myCrew.counter f.cc.toNat).blocked = false) →
      ∃ t, exec (.vamo f) s = .next t ∧ s.SameRegs t ∧ s.WentOn t
        ∧ s.OnlyCrew t { s.myCrew with
            loads := s.myCrew.loads ++ [job .rmw (.amo f.c.toNat) (if f.nb then some m else none)], iq := iq,
            acc := s.myCrew.acc + 1, cc := if f.nb then ins s.myCrew.cc f.cc.toNat ctr else s.myCrew.cc })
    ∧ (may .red → (s.myCrew.counter f.cc.toNat).blocked = false →
      ∃ t, exec (.vred f) s = .next t ∧ s.SameRegs t ∧ s.WentOn t
        ∧ s.OnlyCrew t { s.myCrew with
            loads := s.myCrew.loads ++ [job .red (.red f.c.toNat) (some m)], iq := iq, acc := s.myCrew.acc + 1,
            cc := ins s.myCrew.cc f.cc.toNat ctr,
            owed := s.myCrew.owed ++ [{ member := some m, fail := none, lines := [2 ^ 64 + s.myCrew.acc] }] }))
  ∧ (∀ (s : State) (k : Nat) (pre post : List LoadJob) (j : LoadJob) (p : StorePart) (t : Tok) (r : List Tok) (aop : Nat),
    s.buffers k → (s.crew k).wcb = [] →
    let fine := fun (x : Spot × Elem) => x.2.act = true → x.2.p = false ∧ (∀ c, x.1 = .fault c → c.code ≠ 22) ∧ (∀ ga h, x.1 ≠ .ask ga h)
      ∧ ∀ l, x.1 = .at l → (∃ b n, l.within b n ∧ s.clean (wordBytes (b / 8))) ∧ s.mayGo k j.num l
        ∧ s.trades k (byteDie (l.bytes.headD 0)) (2 * t.gsz)
    let final := fun (g : List (Spot × Elem)) (s' : State) => (∀ b, s'.byte b = (amoRun aop g s.byte).1 b) ∧ s.KeepsOf s' k
    let w := 2 ^ t.wc
    (p.op = .amo aop → s.Storing k pre post j p t r t.gsz → (∀ x ∈ s.groupOf k w p t t.gsz, fine x) →
      let out := amoRun aop (s.groupOf k w p t t.gsz) s.byte
      ∃ s', exec (.atomicPerform k) s = .next s' ∧ final (s.groupOf k w p t t.gsz) s' ∧ ∃ j', j'.todo = j.todo ++ out.2 ∧ j'.store = none
        ∧ j'.q = j.q ∧ j'.tok = j.tok ∧ j'.begun = j.begun ∧ j'.member = j.member
        ∧ s.Performed s' k pre post j p t r t.gsz j'.todo [j'])
    ∧ ∀ m x, p.op = .red aop → j.member = some m → s.Storing k pre post j p t r 1 → s.groupOf k w p t 1 = [x] → fine x → 0 < t.gsz →
        ((∀ l, x.1 = .at l → l.bytes.headD 0 < 2 ^ 45) →
          ∃ s', exec (.vectorStorePerform k) s = .next s' ∧ s.KeepsBytes s' [] ∧ s.KeepsOf s' k
            ∧ s.Contributed s' ([x].filterMap (contributionOf aop (some m) j.num))
            ∧ s.Performed s' k pre post j p t r 1 j.todo [])
        ∧ ((∀ l, x.1 = .at l → 2 ^ 45 ≤ l.bytes.headD 0) →
          ∃ s', exec (.vectorStorePerform k) s = .next s' ∧ final [x] s' ∧ s.Performed s' k pre post j p t r 1 j.todo []))
  ∧ ∀ (s₀ s : State) (k : Nat) (f : T48c), (∀ j ∈ (s₀.crew k).loads, j.store = none) → s₀.RunsAgain k false (.vamo f) s →
      exec (.atomicPerform k) s₀ = exec (.vamo f) s

open Sys2Proof Sys2Proof.Machine in
/-- R269 to R271: mcas reads its slate from the crew's own scratchpad, with the stores that the crew's buffer holds, and
starts once they are performed; at the end the slate holds what R272 says, and d receives the status. R271 to R274: the
steps of an mcas. A home locks and reads its entries, or fails the mcas; the decision is success where every word held
what was expected; each locked home writes the new values if the mcas commits, and releases its words; a home that cannot
be reached is given up, and one cut off by a dark path releases its words by itself. -/
def Obligations.MultiWordCompareAndSwap : Prop :=
  (
    ∀ (s : State) (f : T32e), s.cur.xs = false → s.stepping = false →
        (∀ n : Nat, s.myCrew.mcas = none → s.ready [f.a.toNat] [f.d.toNat] = true → s.buffers s.me → redPending s s.me = false →
          s.myCrew.unperformed = false → 2 ≤ n → n ≤ 8 → (∀ ps, s.myCrew.pendingAt 0 ps = false) →
          let ga := (s.val f.a.toNat).toNat
          let off := ga % 2 ^ 20
          ownScratchpad s.me ga = true → ga / 2 ^ 20 % 2 ^ 25 = 0 → off % 64 = 0 → off + (32 + 32 * n) ≤ 8192 * (s.core s.myCore).s →
          (s.core s.myCore).owner = some s.myCrew.ctx →
          let base := 2 ^ 45 + s.myCore * 2 ^ 20 + off
          let ps := (List.range (32 + 32 * n)).map (base + ·)
          let num := fun o k => leNat ((List.range k).map (fun i => (s.seen s.me (base + o + i)).b))
          s.anyBad ps = false → (∀ p ∈ ps, (s.seen s.me p).p = false) → num 0 4 % 16 = n → slateBad (ps.map (s.seen s.me)) n = false →
          ∃ t m, exec (.mcas f) s = .next t ∧ t.seqr.pc = s.seqr.pc ∧ t.seqr.wait = some (.mcas f) ∧ s.SameRegs t
            ∧ (∀ p, t.byte p = (s.seen s.me p).b) ∧ s.KeepsCompute t ∧ t.myCrew.wcb = [] ∧ t.myCrew.mcas = some m ∧ m.slate = base
            ∧ m.d = f.d.toNat ∧ m.entries.length = n ∧ (m.dry = true ↔ num 0 4 / 2 ^ 8 % 2 = 1)
            ∧ (∀ e, e < n → ∃ x, m.entries[e]? = some x ∧ x.addr.toNat = num (32 + 32 * e) 8
                ∧ (x.wide = true ↔ num (32 + 32 * e + 24) 4 % 2 = 1)
                ∧ x.expect.toNat = num (32 + 32 * e + 8) (if x.wide then 8 else 4)
                ∧ x.new.toNat = num (32 + 32 * e + 16) (if x.wide then 8 else 4))
            ∧ (issuerFail s s.me [] m.entries = none →
                m.phase = .locking ∧ m.status = none ∧ ∀ h, h ∈ m.todo ↔ ∃ x ∈ m.entries, x.key = h)
            ∧ ∀ e st c r, issuerFail s s.me [] m.entries = some (e, st, c, r) →
                m.phase = .deciding ∧ m.status = some st ∧ m.bad = e ∧ m.fcause = c ∧ m.freason = r ∧ m.todo = [])
        ∧ (∀ m st, s.myCrew.mcas = some m → m.phase = .finishing → m.status = some st → st < 7 → m.bad < 8 → m.fcause < 2 ^ 8 →
          m.freason < 2 ^ 8 →
          let slate := (List.range (32 + 32 * m.entries.length)).map (m.slate + ·)
          s.clear slate = true →
          let result := st + (if st ≤ 1 then 0 else m.bad) * 2 ^ 8 + (if m.torn then 2 ^ 11 else 0) + m.fcause * 2 ^ 16 + m.freason * 2 ^ 24
          (∃ t, exec (.mcas f) s = .next t ∧ t.seqr.reg m.d = (if m.d = 0 then {} else ⟨BitVec.ofNat 64 st, false⟩)
            ∧ s.OtherRegs t m.d ∧ s.WentOn t ∧ t.myCrew.mcas = none ∧ t.num (m.slate + 4) 4 = result ∧ s.KeepsBytes t slate
            ∧ ∀ e x, m.entries[e]? = some x →
                t.num (m.slate + 32 + 32 * e + 28) 4 = (if x.read = true ∧ x.obs ≠ x.expect then 1 else 0) + (if x.wr then 2 else 0)
                ∧ (x.read = true → t.num (m.slate + 32 + 32 * e + 8) 8 = x.obs.toNat))
          ∧ ∀ s₀, s₀.RunsAgain s.me false (.mcas f) s → (s₀.crew s.me).mcas = some m →
              exec (.mcasFinish s.me) s₀ = exec (.mcas f) s))
  ∧ (
    ∀ (s : State) (k : Nat) (m : Mcas),
        ((s.crew k).mcas = some m →
          (∀ h rest, m.phase = .locking → m.todo = h :: rest →
            let d := h / 128
            let own := ((List.range m.entries.length).zip m.entries).filter (fun x => x.2.key == h)
            let becomes := fun (s₁ : State) (m' : Mcas) =>
              ∃ t, exec (.mcasHomeLock k) s = .next t ∧ (t.crew k).mcas = some m' ∧ s.KeepsBytes t [] ∧ t.locks = s₁.locks
            (cutOff s k h = true → ∃ m', becomes s m' ∧ m'.status = some 6 ∧ m'.phase = .deciding ∧ m'.todo = [] ∧ m'.locked = m.locked)
            ∧ (cutOff s k h = false → linkOpen s (crewDie k) d = true →
              (∀ e st c r s₁, homeCheck s k m.dry m.entries own = (some (.error (e, st, c, r)), s₁) → s.noRing →
                ∃ m', becomes s m' ∧ m'.status = some st ∧ m'.bad = e ∧ m'.fcause = c ∧ m'.freason = r ∧ m'.phase = .deciding
                  ∧ m'.todo = [] ∧ m'.locked = m.locked)
              ∧ ∀ bs s₁, homeCheck s k m.dry m.entries own = (some (.ok bs), s₁) → (∀ b ∈ bs, s.admits k b.2 = true ∧ s.clean b.2) →
                s.affords (crewDie k) d (flits (16 * own.length)) → s.affords d (crewDie k) (flits (8 * own.length)) →
                ∃ t m', exec (.mcasHomeLock k) s = .next t ∧ s.KeepsBytes t [] ∧ (t.crew k).mcas = some m'
                  ∧ (∀ b ∈ bs, ∀ p ∈ b.2, get 0 t.locks (p / 4) = k + 1)
                  ∧ m'.todo = rest ∧ m'.locked = m.locked ++ [h] ∧ m'.status = m.status
                  ∧ m'.phase = (if rest = [] then .deciding else .locking)
                  ∧ (∀ b ∈ bs, ∃ x, m'.entries[b.1]? = some x ∧ x.obs = BitVec.ofNat 64 (leNat (b.2.map s.byte)) ∧ x.read = true
                      ∧ x.obsP = false ∧ x.phys = b.2.headD 0 / 8 + 1)
                  ∧ ∀ (i : Nat) (e : McasEntry), m.entries[i]? = some e → e.key ≠ h → m'.entries[i]? = some e))
          ∧ (m.phase = .deciding →
            let decides := fun (st : Option Nat) (commit : Bool) =>
              ∃ t m', exec (.mcasDecision k) s = .next t ∧ s.KeepsBytes t [] ∧ (t.crew k).mcas = some m'
                ∧ m'.status = st ∧ m'.commit = commit ∧ m'.entries = m.entries ∧ m'.locked = m.locked
                ∧ m'.phase = (if m.locked = [] then .finishing else .unlocking)
            let held := ∀ e ∈ m.entries, e.obs = e.expect
            (m.status ≠ none → decides m.status m.commit)
            ∧ (m.status = none → (∃ h ∈ m.locked, cutOff s k h = true) → decides (some 6) m.commit)
            ∧ (m.status = none → (∀ h ∈ m.locked, cutOff s k h = false) →
                (held → decides (some 0) (!m.dry)) ∧ (¬held → decides (some 1) false)))
          ∧ (∀ h rest, m.phase = .unlocking → m.locked = h :: rest →
            let phase := if rest = [] then McasPhase.finishing else .unlocking
            (cutOff s k h = true →
              ∃ t m', exec (.mcasHomeUnlock k) s = .next t ∧ (t.crew k).mcas = some m' ∧ m'.locked = rest ∧ m'.phase = phase
                ∧ m'.torn = (m.torn || m.commit) ∧ m'.commit = m.commit ∧ s.KeepsBytes t []
                ∧ m'.status = (if m.commit = true ∧ m.status = some 0 then some 6 else m.status))
            ∧ (cutOff s k h = false → s.affords (crewDie k) (h / 128) (flits (8 * m.entries.length)) →
              s.affords (h / 128) (crewDie k) 1 → s.noWaiters (h / 128) →
              (∀ e ∈ m.entries, e.key = h → 0 < e.phys ∧ e.addr.toNat % e.size = 0) →
              (m.entries.Pairwise (fun a b => a.key = h → b.key = h → a.phys ≠ b.phys)) →
              let place := fun (e : McasEntry) => 8 * (e.phys - 1) + e.addr.toNat % 8
              let written := (m.entries.filter (·.key == h)).flatMap (fun e => (List.range e.size).map (place e + ·))
              ∃ t m', exec (.mcasHomeUnlock k) s = .next t ∧ (t.crew k).mcas = some m' ∧ m'.locked = rest ∧ m'.phase = phase
                ∧ m'.status = m.status ∧ m'.commit = m.commit
                ∧ (m.commit = true → s.KeepsBytes t written
                    ∧ ∀ e ∈ m.entries, e.key = h → t.num (place e) e.size = e.new.toNat % 2 ^ (8 * e.size))
                ∧ (m.commit = false → s.KeepsBytes t [])
                ∧ m'.entries = m.entries.map (fun (e : McasEntry) => if e.key = h ∧ m.commit = true then { e with wr := true } else e)
                ∧ ∀ w, (w, k + 1) ∈ s.locks → wordKey (w / 2) = h → get 0 t.locks w = 0)))
        ∧ ∀ pre post w, s.locks = pre ++ (w, k + 1) :: post →
            let far := fun (x : Nat) => pathDown s (byteDie (4 * x)) (crewDie k) = true
            let h := wordKey (w / 2)
            far w → (∀ x ∈ pre, x.2 = k + 1 → ¬far x.1) → s.noRing → s.noWaiters (h / 128) →
            ∃ t, exec (.mcasDarkRelease k) s = .next t ∧ s.KeepsBytes t []
              ∧ (∀ x, (x, k + 1) ∈ s.locks → far x → wordKey (x / 2) = h → get 0 t.locks x = 0)
              ∧ (t.crew k).mcas = (s.crew k).mcas.map (fun m => if m.locked.contains h then m.lose h else m)
              ∧ ∀ j, j ≠ k → t.crew j = s.crew j)

open Sys2Proof Sys2Proof.Machine in
/-- R77 to R80, R243, R247, R322: the block-format accesses. Both issue with the places of the bytes of their blocks, with
nb = 0 checked. A load widens each mantissa under the scale of its block of 32 as its group is pushed, and a poisoned byte
marks its elements and fails its member (log entry 15); a store performs its blocks one by one: the mantissas, from the
exponent that R79 gives, and the scale. -/
def Obligations.BlockFormatAccesses : Prop :=
  (∀ (s : State) (f : T48e), s.cur.xs = false → s.stepping = false → s.ready [f.a.toNat, f.b.toNat] [] = true →
    let n := s.myCrew.alen
    let m := f.mw.toNat + 2
    let a := (s.val f.a.toNat).toNat
    let b := (s.val f.b.toNat).toNat
    let g := max 1 s.seqr.share.g
    let wc := if f.bf then 1 else 2
    let place := fun j i => (if i < 4 * m then a + 4 * m * j + i else b + j) % 2 ^ 64
    let blocks := (n + 31) / 32
    let ctr := (s.myCrew.counter f.cc.toNat).join
    let member := if f.nb then some (⟨s.me, f.cc.toNat, ctr.batch.id⟩ : Member) else none
    let issues := fun (i : Instr) (job : LoadJob) => ∃ t, exec i s = .next t ∧ s.SameRegs t ∧ s.WentOn t
      ∧ s.OnlyCrew t { s.myCrew with loads := s.myCrew.loads ++ [job], acc := s.myCrew.acc + 1,
                                     cc := if f.nb then ins s.myCrew.cc f.cc.toNat ctr else s.myCrew.cc }
    let tok : Tok := { n := n, wc := wc, gsz := 8 * g, spg := groupSlots g wc }
    let each := fun {α : Type} (x : Nat → Nat → α) => (List.range blocks).flatMap (fun j => (List.range (4 * m + 1)).map (x j))
    let asks := fun (acc : Acc) => askSpots s s.me acc 1 (each (fun j i => some (.ok (place j i))))
    a % 4 = 0 → (f.nb = true → (s.myCrew.counter f.cc.toNat).blocked = false) →
    (∀ S : Nat → Nat → Site, (s.myCrew.loads.filter (·.load)).length < 8 →
      (f.nb = false → ∀ j i, j < blocks → i ≤ 4 * m → checkAccess s s.me .read (place j i) 1 = (.ok (S j i), s)) →
      issues (.vlqb f) {
        q := f.d.toNat, tok := tok, load := true, num := s.myCrew.acc, member := member, block := some (f.bf, m),
        spots := if f.nb then asks .read else each (fun j i => spotOf (some (.ok (S j i)))) })
    ∧ (∀ (k : Tok) (L : Nat → Nat → Located),
      (s.myCrew.loads.filter (fun j => j.store.isSome && !j.scalar)).length + (s.myCrew.owed.filter (·.vec)).length < 8 →
      (s.myCrew.sqAt f.d.toNat)[s.myCrew.claimed f.d.toNat]? = some k → k.marker = false → k.n = n → k.wc = wc →
      (f.nb = false → k.elems.length = n) →
      (f.nb = false → ∀ j i, j < blocks → i ≤ 4 * m → checkAccess s s.me .write (place j i) 1 = (.ok (.mem (L j i)), s)) →
      issues (.vsqb f) {
        tok := tok, member := member, num := s.myCrew.acc,
        store := some { sq := f.d.toNat, op := .block f.bf m, left := if f.nb then asks .write else each (fun j i => .at (L j i)) } }))
  ∧ (∀ (s : State) (k i : Nat) (j : LoadJob) (bf : Bool) (m : Nat) (B : Nat → Nat → VByte), (s.crew k).loads[i]? = some j →
    j.block = some (bf, m) → j.store = none → (∀ x ∈ (s.crew k).loads.take i, x.pushes = true → x.q ≠ j.q) → j.tok.marker = false →
    (s.crew k).state ≠ 6 → (s.crew k).lqSlots + j.tok.spg ≤ (s.crew k).slip →
    (s.crew k).lqSlots + (s.crew k).sqSlots + j.tok.spg ≤ 8 * (s.core (crewCore k)).q →
    (∀ x, j.member = some x → x.crew = k ∧ (s.crew k).a.run ≠ .exited) →
    let left := j.spots.length / (4 * m + 1)
    let blocks := min ((j.tok.gsz - j.todo.length + 31) / 32) left
    j.spots.length = left * (4 * m + 1) →
    (∀ b n, b < blocks → n ≤ 4 * m → ∃ x, j.spots[b * (4 * m + 1) + n]? = some x
      ∧ s.Fetches k j.num 1 x ⟨BitVec.ofNat 64 (B b n).b.toNat, true, (B b n).p⟩ none) →
    let fmt := if bf then Fmt.bf16 else Fmt.fp32
    let mark := fun b e => (B b (4 * m)).p || (List.range (4 * m)).any (fun x =>
      decide (m * e / 8 ≤ x ∧ x ≤ (m * e + m - 1) / 8) && (B b x).p)
    let made : List Elem := (List.range (min (32 * blocks) (j.tok.n - 32 * ((j.tok.n + 31) / 32 - left)))).map (fun e =>
      ⟨BitVec.ofNat 64 (widen fmt m (B (e / 32) (4 * m)).b.toNat
        (leNat ((List.range (4 * m)).map (fun n => (B (e / 32) n).b))) (e % 32)), true, mark (e / 32) (e % 32)⟩)
    let all := j.todo ++ made
    let es := all.take j.tok.gsz
    let poisoned := (List.range blocks).any (fun b => (List.range (4 * m + 1)).any (fun n => (B b n).p))
    let rest : LoadJob := { j with
      todo := all.drop j.tok.gsz, spots := j.spots.drop (blocks * (4 * m + 1)), begun := true,
      fail := j.fail <|> if poisoned then some 32 else none }
    ∃ t, exec (.loadTokenPush k i) s = .next t
      ∧ (j.begun = false → (t.crew k).lqAt j.q = (s.crew k).lqAt j.q ++ [{ j.tok with elems := es }])
      ∧ (∀ ts x, j.begun = true → (s.crew k).lqAt j.q = ts ++ [x] → (t.crew k).lqAt j.q = ts ++ [{ x with elems := x.elems ++ es }])
      ∧ (rest.todo ≠ [] ∨ rest.spots ≠ [] → (t.crew k).loads = (s.crew k).loads.set i rest)
      ∧ (rest.todo = [] → rest.spots = [] → (t.crew k).loads = (s.crew k).loads.eraseIdx i)
      ∧ (t.crew k).a = (s.crew k).a ∧ (t.crew k).x = (s.crew k).x ∧ s.KeepsBytes t [])
  ∧ (∀ (s : State) (k : Nat) (pre post : List LoadJob) (j : LoadJob) (p : StorePart) (t : Tok) (r : List Tok) (bf : Bool) (m b : Nat),
    s.buffers k → (s.crew k).loads = pre ++ j :: post → (∀ x ∈ pre, x.store = none) → j.store = some p → p.data = none →
    p.op = .block bf m → (s.crew k).sqAt p.sq = t :: r → (∀ x, j.member = some x → x.crew = k) →
    let spots := (p.left.take (4 * m + 1)).map (s.resolved k 1)
    (∀ x ∈ spots, (∀ c, x = .fault c → c.code ≠ 22) ∧ (∀ ga h, x ≠ .ask ga h)
      ∧ ∀ l, x = .at l → s.mayGo k j.num l ∧ ∀ p ∈ l.bytes, byteDie p = crewDie k) →
    b < (t.n + 31) / 32 → p.left.length = (4 * m + 1) * ((t.n + 31) / 32 - b) → min t.n (32 * b + 32) ≤ t.elems.length →
    let fmt := if bf then Fmt.bf16 else Fmt.fp32
    let block := packBlock m (((t.elems.take t.n).drop (32 * b)).take 32 |>.map (fun e =>
      if e.act then fmt.decode e.v.toNat else .num false 0 0))
    let cells := (spots.zip (block.1 ++ [block.2])).flatMap (fun x => match x.1 with
      | .at l => l.bytes.zip (leBytes l.bytes.length x.2.toNat)
      | _ => [])
    ∃ s', exec (.vectorStorePerform k) s = .next s' ∧ s.Stored s' k cells ∧ s.KeepsOf s' k
      ∧ s.Performed s' k pre post j p t r (4 * m + 1) j.todo [])
  ∧ ∀ (s₀ s : State) (k : Nat) (f : T48e), (∀ j ∈ (s₀.crew k).loads, j.store = none) → s₀.RunsAgain k false (.vsqb f) s →
      exec (.vectorStorePerform k) s₀ = exec (.vsqb f) s

open Sys2Proof Sys2Proof.Machine in
/-- R296, R297, R364 to R366: the copy commands, put and get read their card from the crew's own scratchpad and queue a
job in the core's copy unit, as a member of a batch. cardCheck is what R286, R296, R297 and R364 require of a card. R221,
R224, R282, R297, R298, R365, R366: a copy unit runs at most four jobs, each once no earlier overlapping job of its issuer
is left; a running job moves at most 256 bytes a packet, of its row's source to its row's destination (a cpyx reads the
index word of a row once), and after its last packet writes its signal word and leaves the unit. -/
def Obligations.CopyEngine : Prop :=
  (
    ∀ (s : State) (f : T32f), s.cur.xs = false → s.stepping = false → s.ready [f.a.toNat] [] = true →
        let ga := (s.val f.a.toNat).toNat
        let off := ga % 2 ^ 20
        ownScratchpad s.me ga = true → ga / 2 ^ 20 % 2 ^ 25 = 0 → off % 64 = 0 → off + 64 ≤ 8192 * (s.core s.myCore).s →
        let base := 2 ^ 45 + s.myCore * 2 ^ 20 + off
        let ps := (List.range 64).map (base + ·)
        (s.core s.myCore).owner = some s.myCrew.ctx →
        s.lets s.me 0 ps = true → s.anyBad ps = false → (∀ p ∈ ps, (s.seen s.me p).p = false) →
        (s.core s.myCore).jobs.length < 16 → (s.myCrew.counter f.cc.toNat).blocked = false →
        (f.mm = true → s.myCrew.follow = .empty) →
        let card := (List.range 8).map (fun i =>
          BitVec.ofNat 64 (leNat ((List.range 8).map (fun j => (s.seen s.me (base + (8 * i + j))).b))))
        let ctr := (s.myCrew.counter f.cc.toNat).join
        let queues := fun (i : Instr) (kind : Nat) => cardCheck s s.myDie (some s.myCore) kind card = none →
          ∃ t, exec i s = .next t
            ∧ (t.core s.myCore).jobs = (s.core s.myCore).jobs ++ [{
                kind := kind, card := card, crew := s.me, ctx := s.myCrew.ctx, member := some ⟨s.me, f.cc.toNat, ctr.batch.id⟩,
                node := none, mm := f.mm, seq := s.jseq }]
            ∧ t.jseq = s.jseq + 1 ∧ t.myCrew.counter f.cc.toNat = ctr
            ∧ t.myCrew.follow = (if f.mm then .awaiting else s.myCrew.follow)
            ∧ s.SameRegs t ∧ s.WentOn t ∧ s.KeepsBytes t [] ∧ s.KeepsCompute t
        queues (.cpy f) 0 ∧ queues (.cpy2 f) 1 ∧ queues (.cpyx f) 2 ∧ queues (.put f) 3 ∧ queues (.get f) 4)
  ∧ (
    ∀ (s : State) (core i : Nat) (j : Job), (s.core core).jobs[i]? = some j →
        let die := coreDie core
        let c := j.card
        (s.chip (dieChip die)).tripped = false →
        (j.running = false → ((s.core core).jobs.filter (·.running)).length < 4 → blocked s (j.footprint die) = false →
          (∀ x y, x < i → (s.core core).jobs[x]? = some y → y.running = true ∨ blocked s (y.footprint die) = true) →
          ∃ t, exec (.copyJobTake core) s = .next t ∧ (t.core core).jobs = (s.core core).jobs.set i { j with running := true }
            ∧ t.crews = s.crews ∧ s.KeepsBytes t [])
        ∧ (∀ (src : Nat) (ps qs : List Nat), j.running = true → j.row < jobRows j.kind c → j.kind ≤ 4 →
          (j.kind ≠ 2 → src = rowAddr (cardSrc c) j.row (if j.kind = 1 then cardSstride c else 0)) →
          (j.kind = 2 → j.src = some src ∨ j.src = none ∧ (src : Int) + cardLen c ≤ cardSrc c + cardFext c ∧ (cardSrc c : Int) ≤ src ∧
            ∃ xs, engineRange s j.id die (j.core core) j.ctx .read ((cardXaddr c + 4 * j.row) % 2 ^ 64) 4 = (.ok xs, s) ∧ s.clean xs
              ∧ (src : Int) = cardSrc c + leNat (xs.map s.byte) * cardSstride c) →
          let n := min 256 (cardLen c - j.off)
          let dst := rowAddr (cardDst c) j.row (if jobRows j.kind c = 1 then 0 else cardDstride c)
          engineRange s j.id die (j.core core) j.ctx .read ((src + j.off) % 2 ^ 64) n = (.ok ps, s) →
          engineRange s j.id die (j.core core) j.ctx .write ((dst + j.off) % 2 ^ 64) n = (.ok qs, s) →
          s.anyBad ps = false → (j.kind = 3 → s.affords die (addrDie die (cardDst c)) (flits n)) →
          (j.kind = 4 → s.affords die (addrDie die (cardSrc c)) 1 ∧ s.affords (addrDie die (cardSrc c)) die (flits n)) →
          ∃ t, exec (.jobPacketLand core i) s = .next t
            ∧ (∀ p, t.byte p = (lastTo (qs.zip (ps.map s.byte)) p).getD (s.byte p)) ∧ t.crews = s.crews
            ∧ (cardLen c ≤ j.off + n → (t.core core).jobs = (s.core core).jobs.set i { j with row := j.row + 1, off := 0, src := none })
            ∧ (j.off + n < cardLen c → (t.core core).jobs = (s.core core).jobs.set i { j with off := j.off + n, src := some src }))
        ∧ (j.running = true → jobRows j.kind c ≤ j.row → s.noRing →
          let leaves := fun (t : State) => exec (.jobSignalWrite core i) s = .next t
            ∧ (t.core core).jobs = (s.core core).jobs.eraseIdx i
            ∧ (∀ m, j.member = some m → j.node = none → (s.crew m.crew).doneAt = none →
                (t.crew m.crew).counter m.cc = ((s.crew m.crew).counter m.cc).memberDone m.id none)
            ∧ (j.mm = true → (s.crew j.crew).follow ≠ .empty → (t.crew j.crew).landed = some 0)
            ∧ ∀ nd slot n, j.member = none → j.node = some nd → liveNode s nd.1 nd.2 = some (slot, n) →
                ∃ x ∈ (t.die nd.1).old, x.handle = n.handle ∧ x.phase = 2 ∧ x.status = 0
          (cardSig c = false → ∃ t, leaves t ∧ s.KeepsBytes t [])
          ∧ ∀ ps, cardSig c = true → let add := (cardFlags c).testBit 1
            engineCheck s j.id die (j.core core) j.ctx (if add then .rmw else .write) (cardSaddr c) (cardSigBytes c) = (.ok ps, s) →
            s.affords die (addrDie die (cardSaddr c)) (flits (cardSigBytes c)) → (add = true → s.clean ps) →
            let v := if add then leNat (ps.map s.byte) + (cardVal c).toNat else (cardVal c).toNat
            ∃ t, leaves t ∧ ∀ p, t.byte p = (lastTo (ps.zip (leBytes ps.length v)) p).getD (s.byte p)))

open Sys2Proof Sys2Proof.Machine in
/-- R287 to R290, R295: binding and refreshing windows, and reading the edition of a subscription, whose observation makes
the windows bound to it refresh. R287, R290: a block of a bound window enters the core's cache with the bytes its home
holds, and may leave it. -/
def Obligations.ReadOnlyWindows : Prop :=
  (
    ∀ (s : State) (f : T32f), s.cur.xs = false → s.stepping = false →
        let w := f.imm.toNat % 16
        let n := f.imm.toNat
        let entry := s.reg s.myDie (0x600 + 4 * n)
        let edition := s.reg s.myDie (0x600 + 4 * n + 3)
        let owned := n < 64 ∧ entry.getLsbD 0 = true ∧ (entry.extractLsb' 1 8).toNat = s.myCrew.ctx
        let observes := fun (i : Instr) => ∃ t, exec i s = .next t ∧ s.Sets t f.a.toNat ⟨edition, false⟩ ∧ s.WentOn t
          ∧ s.OnlyCrew t { s.myCrew with win := t.myCrew.win }
          ∧ ∀ v x, (v, x) ∈ t.myCrew.win → x.bsub = true → x.sub = n → x.seen = edition
        (∀ pl, let base := (s.val f.a.toNat).toNat
          let len := (s.val f.b.toNat).toNat
          let sub := f.op.getLsbD 0
          let n := (s.val f.c.toNat).toNat
          base < 2 ^ 61 → base % 256 = 0 → len % 256 = 0 → 0 < len → len ≤ 2 ^ 48 - 256 →
          (2 ^ 60 ≤ base → base % 2 ^ 20 + len ≤ 2 ^ 20) → crewCheck s s.me false base 1 = .ok pl →
          s.ready (if sub then [f.a.toNat, f.b.toNat, f.c.toNat] else [f.a.toNat, f.b.toNat]) [] = true →
          (sub = true → n < 64 ∧ (s.reg s.myDie (0x600 + 4 * n)).getLsbD 0 = true
            ∧ ((s.reg s.myDie (0x600 + 4 * n)).extractLsb' 1 8).toNat = s.myCrew.ctx) →
          let seen := if sub then s.reg s.myDie (0x600 + 4 * n + 3) else 0
          ∃ t, exec (.rwmap f) s = .next t ∧ s.SameRegs t ∧ s.WentOn t ∧ s.OnlyCrew t { s.myCrew with win := t.myCrew.win }
            ∧ get {} t.myCrew.win w
              = ⟨BitVec.ofNat 64 (resolveSelf s.myDie base), len, if sub then n else 0, sub, true, seen, []⟩
            ∧ ∀ v, v ≠ w → get {} t.myCrew.win v = get {} s.myCrew.win v)
        ∧ (∃ t, exec (.rwinv f) s = .next t ∧ s.SameRegs t ∧ s.WentOn t ∧ s.OnlyCrew t { s.myCrew with win := t.myCrew.win }
            ∧ get {} t.myCrew.win w = { get {} s.myCrew.win w with blocks := [] }
            ∧ ∀ v, v ≠ w → get {} t.myCrew.win v = get {} s.myCrew.win v)
        ∧ (s.ready [] [f.a.toNat] = true → owned → observes (.edget f))
        ∧ (s.ready [f.b.toNat] [f.a.toNat] = true → owned → (s.val f.b.toNat).toNat ≤ edition.toNat → observes (.edwait f))
        ∧ (s.ready [] [f.a.toNat] = true → entry.getLsbD 0 = false → s.Raises (.edget f) { code := 27, reason := 3 } s.seqr.pc))
  ∧ (
    ∀ (s : State) (k w blk : Nat), let x := get {} (s.crew k).win w
        (∀ pl l, x.bound = true → 256 * blk < x.len → get [] x.blocks blk = [] →
          issuerCheck s (crewDie k) (some (crewCore k)) (fun _ => none) false (x.base.toNat + 256 * blk) 256 = .ok pl →
          pathDown s (crewDie k) (pl.die (crewDie k)) = false → linkOpen s (crewDie k) (pl.die (crewDie k)) = true →
          s.affords (crewDie k) (pl.die (crewDie k)) 1 → s.affords (pl.die (crewDie k)) (crewDie k) (flits 256) →
          locate s (some (crewCore k)) (s.crew k).ctx .read 256 pl = (.ok l, s) → s.admits k l.bytes = true → s.anyBad l.bytes = false →
          ∃ t, exec (.windowBlockFill k w blk) s = .next t ∧ s.KeepsBytes t []
            ∧ get [] (get {} (t.crew k).win w).blocks blk = l.bytes.map s.vbyte
            ∧ (t.crew k).a = (s.crew k).a ∧ ∀ j, j ≠ k → t.crew j = s.crew j)
        ∧ (get [] x.blocks blk ≠ [] →
          ∃ t, exec (.windowBlockEviction k w blk) s = .next t ∧ s.KeepsBytes t []
            ∧ get [] (get {} (t.crew k).win w).blocks blk = []
            ∧ (t.crew k).a = (s.crew k).a ∧ ∀ j, j ≠ k → t.crew j = s.crew j))

open Sys2Proof Sys2Proof.Machine in
/-- R292 to R294: pub queues a publication; the channel's engine counts its edition and reads its source once; a packet
writes the member's location, and the last one its edition. -/
def Obligations.Publications : Prop :=
  (∀ (s : State) (f : T32f) (pl pl' : Place), s.cur.xs = false → s.stepping = false →
    s.ready [f.a.toNat, f.b.toNat] [] = true →
    let a := (s.val f.a.toNat).toNat
    let b := (s.val f.b.toNat).toNat
    let entry := s.reg s.myDie (0xA00 + 2 * f.imm.toNat)
    let ctr := (s.myCrew.counter f.cc.toNat).join
    a < 2 ^ 61 → gaDie s.myDie a = s.myDie → entry.getLsbD 0 = true → (entry.extractLsb' 1 8).toNat = s.myCrew.ctx →
    1 ≤ b → b ≤ (entry.extractLsb' 16 32).toNat →
    issuerCheck s s.myDie (some s.myCore) (fun _ => none) false a 1 = .ok pl →
    issuerCheck s s.myDie (some s.myCore) (fun _ => none) false (a + (b - 1)) 1 = .ok pl' →
    (s.myCrew.counter f.cc.toNat).blocked = false →
    ∃ t, exec (.pub f) s = .next t
      ∧ t.pubs = s.pubs ++ [{ die := s.myDie, ch := f.imm.toNat, edition := 0, crew := s.me, ctx := s.myCrew.ctx,
                              member := some ⟨s.me, f.cc.toNat, ctr.batch.id⟩, src := s.val f.a.toNat, len := b, seq := s.jseq }]
      ∧ t.jseq = s.jseq + 1 ∧ t.myCrew.counter f.cc.toNat = ctr
      ∧ s.SameRegs t ∧ s.WentOn t ∧ s.KeepsBytes t [] ∧ s.KeepsCompute t)
  ∧ ∀ (s : State) (pre post : List Pub) (p : Pub) (ps : List Nat), s.pubs = pre ++ p :: post → s.noRing →
    (p.accepted = false → (∀ x ∈ pre, x.die = p.die → x.ch = p.ch → x.accepted = true) → p.ch < 256 →
      blocked s p.footprint = false → s.anyBad ps = false →
      engineRange s (engineId p.seq) p.die (some (crewCore p.crew)) p.ctx .read p.src.toNat p.len = (.ok ps, s) →
      let members := groupMembers s p.die (wfield (s.reg p.die (0xA00 + 2 * p.ch)) 9 6)
      let e := s.reg p.die (0xA00 + 2 * p.ch + 1) + 1
      ∃ t, exec (.publicationAccept p.die p.ch) s = .next t ∧ t.reg p.die (0xA00 + 2 * p.ch + 1) = e ∧ s.KeepsBytes t []
        ∧ (members = [] → t.pubs = pre ++ post)
        ∧ (members ≠ [] → t.crews = s.crews ∧ t.pubs = pre ++ { p with
            accepted := true, edition := e.toNat, data := ps.map s.vbyte, dests := members.map (fun d => (d, 0)) } :: post))
    ∧ ∀ mem n off, p.accepted = true → (∀ x ∈ pre, x.die = p.die → x.ch = p.ch → x.accepted = false) →
      p.dests.find? (fun d => d.1 == mem) = some (mem, off) →
      (mem ≠ p.die → routeValid s p.die mem = true ∧ pathDown s p.die mem = false ∧ pathDown s mem p.die = false) →
      linkOpen s p.die mem = true → findSub s mem p.die p.ch = some n →
      let entry := s.reg mem (0x600 + 4 * n)
      let llen := wfield (s.reg mem (0x600 + 4 * n + 2)) 0 32
      let cnt := min 256 (p.len - off)
      let keep := min cnt (llen - off)
      let rest := p.dests.filter (fun d => d.1 != mem)
      entry.getLsbD 23 = false → s.affords p.die mem (flits cnt) → partPoison s ps = none →
      (if keep = 0 then ps = [] else engineRange s (engineId p.seq) mem none (wfield entry 1 8) .write
          (((s.reg mem (0x600 + 4 * n + 1)).toNat + off) % 2 ^ 64) keep = (.ok ps, s)) →
      ∃ t, exec (.publicationPacketLand pre.length mem) s = .next t
        ∧ (∀ a, t.byte a = (lastTo (ps.zip (((p.data.drop off).take keep).map (·.b))) a).getD (s.byte a))
        ∧ (off + cnt < p.len → t.crews = s.crews ∧ t.pubs = pre
            ++ { p with dests := p.dests.map (fun d => if d.1 = mem then (mem, off + cnt) else d) } :: post)
        ∧ (p.len ≤ off + cnt → p.len ≤ llen → t.reg mem (0x600 + 4 * n + 3) = BitVec.ofNat 64 p.edition
            ∧ t.pubs = pre ++ (if rest = [] then [] else [{ p with dests := rest }]) ++ post)

open Sys2Proof Sys2Proof.Machine in
/-- R299 to R303: vcoll joins the die to the next collective of its group; contributions are combined at the owner of
their block in the order in which they arrive; results, or the sources of allgather and broadcast, land at the members, at
most 256 bytes a packet; a member learns that a block has failed. collCheck is what R286 and R299 require of the operands.
-/
def Obligations.Collectives : Prop :=
  (∀ (s : State) (f : T32f), s.cur.xs = false → s.stepping = false → s.noRing →
    s.ready [f.a.toNat, f.b.toNat, f.c.toNat] [] = true →
    let g := f.imm.toNat
    let w := s.val f.c.toNat
    let num := get 0 (s.die s.myDie).cseq g
    let mask := groupMembers s s.myDie g
    let ctr := (s.myCrew.counter f.cc.toNat).join
    collCheck s s.myDie (some s.myCore) s.myCrew.ctx g (f.op.toNat % 8) (s.val f.a.toNat).toNat (s.val f.b.toNat).toNat
      (if f.op.getLsbD 3 then 2 else 4) w = none → f.op.toNat % 8 ≤ 4 →
    (s.myCrew.counter f.cc.toNat).blocked = false → collsOut s s.myDie g < 4 → (∀ d ∈ mask, pathDown s s.myDie d = false) →
    (∀ c ∈ s.colls, c.group = g → c.num = num → ∀ o e, s.myDie ∉ (c.elem o e).got) →
    ∃ t c, exec (.vcoll f) s = .next t ∧ c ∈ t.colls ∧ c.group = g ∧ c.num = num ∧ get 0 (t.die s.myDie).cseq g = num + 1
      ∧ c.at s.myDie = some {
          die := s.myDie, crew := s.me, ctx := s.myCrew.ctx, member := some ⟨s.me, f.cc.toNat, ctr.batch.id⟩, node := none,
          shape := (f.op.toNat % 8, f.t.toNat, f.op.getLsbD 3, (w.extractLsb' 0 25).toNat, (w.extractLsb' 32 8).toNat),
          mask := mask, src := s.val f.a.toNat, dst := s.val f.b.toNat, seq := s.jseq }
      ∧ s.SameRegs t ∧ s.WentOn t ∧ s.KeepsBytes t [])
  ∧ ∀ (s : State) (ci die : Nat) (c : Coll) (m o : CollMember), s.colls[ci]? = some c → c.at die = some m → s.noRing →
    (∀ e ps, let q := m.blockOf e
      let owner := m.mask.getD q 0
      let x := c.elem owner e
      c.at owner = some o → m.combines = true → e < m.n → m.complete = false → o.complete = false →
      (∀ y ∈ m.failed, y.1 ≠ q) → (∀ y ∈ o.failed, y.1 ≠ o.rank) → die ∉ x.got → pathDown s die owner = false →
      linkOpen s die owner = true → blocked s m.footprint = false → o.mask = m.mask → o.shape = m.shape → die ∈ o.mask →
      c.waits [] → s.affords die owner (flits m.width) → s.anyBad ps = false →
      engineRange s m.id die m.core m.ctx .read ((m.src.toNat + e * m.width) % 2 ^ 64) m.width = (.ok ps, s) →
      let raw := leNat (ps.map s.byte)
      let v := if m.half then (Fmt.bf16.convert .fp32 RNE raw).bits else raw
      ∃ t c', exec (.collectiveContributionArrive ci die e) s = .next t ∧ t.colls[ci]? = some c' ∧ s.KeepsBytes t []
        ∧ (c'.elem owner e).got = x.got ++ [die]
        ∧ (c'.elem owner e).p = (x.p || ps.any (fun p => (s.vbyte p).p))
        ∧ (c'.elem owner e).acc = BitVec.ofNat 32 (if x.got = [] then v
            else if m.comb = 0 then (Fmt.fp32.add RNE x.acc.toNat v).bits
            else if m.comb = 1 then (Fmt.fp32.pick false x.acc.toNat v).bits else (Fmt.fp32.pick true x.acc.toNat v).bits))
    ∧ (∀ q qs all, let src := m.mask.getD q 0
      let es := (List.range (m.lo (q + 1) - m.lo q)).map (fun i => c.elem src (m.lo q + i))
      let off := if m.kind = 1 ∨ m.kind = 3 then 0 else if m.kind = 2 then q * m.n else m.lo q
      let start := get 0 m.part q
      let bs := (all.drop start).take 256
      c.at src = some o → q < m.mask.length → m.complete = false → m.has q = false → m.receives q = true →
      blocked s m.footprint = false → pathDown s src die = false → pathDown s die src = false → linkOpen s src die = true →
      (m.combines = true → (∀ y ∈ o.failed, y.1 ≠ q) ∧ c.combined m q = true ∧ all = es.flatMap m.result) →
      (m.combines = false → o.mask = m.mask ∧ o.shape = m.shape ∧ die ∈ m.mask ∧ (∀ y ∈ o.failed, y.1 ≠ o.rank) ∧ blocked s o.footprint = false ∧
        (o.sent = some (all, 0) ∨ o.sent = none ∧ ∃ ps, s.clean ps ∧ all = ps.map s.vbyte ∧ s.leave o.id ps = s
          ∧ engineRange s o.id src o.core o.ctx .read o.src.toNat (o.n * o.width) = (.ok ps, s))) →
      (bs = [] → qs = []) → (bs ≠ [] → s.affords src die (flits bs.length) ∧
        engineRange s m.id die m.core m.ctx .write ((m.dst.toNat + off * m.width + start) % 2 ^ 64) bs.length = (.ok qs, s)) →
      c.waits [die] →
      ∃ t c' m', exec (.collectiveResultArrive ci die q) s = .next t ∧ t.colls[ci]? = some c' ∧ c'.at die = some m'
        ∧ m'.failed = m.failed ∧ m'.marks = m.marks
        ∧ (all.length ≤ start + bs.length → q ∈ m'.landed)
        ∧ (start + bs.length < all.length → m'.landed = m.landed ∧ get 0 m'.part q = start + bs.length)
        ∧ ∀ p, t.byte p = (lastTo (qs.zip (bs.map (·.b))) p).getD (s.byte p))
    ∧ (∀ q dark rep code, c.at rep = some o → m.complete = false → m.has q = false → rep ≠ die →
      m.mask.getD q 0 = rep → rep ∈ m.mask → (o.rank, dark, rep, code) ∈ o.failed → pathDown s rep die = false →
      s.affords rep die 1 → c.waits [die] →
      let turned := dark = die ∧ code = 22
      ∃ t c' m', exec (.failureNoticeReceive ci die q dark rep code) s = .next t ∧ t.colls[ci]? = some c' ∧ c'.at die = some m'
        ∧ (q, (if turned then rep else dark), (if turned then die else rep), code) ∈ m'.failed ∧ s.KeepsBytes t [])

open Sys2Proof Sys2Proof.Machine in
/-- R283, R284, R294, R303: a lane of an in-package path that goes dark leaves the path narrower, and every flit that is
not acknowledged stays kept, on a lane that remains; a path that goes dark, as an inter-chip path does with its one
wavelength, is marked in the route table with no lane in service, and the die's subscriptions to that peer are marked with
it; an access that is checked after the mark fails with DARKPATH. -/
def Obligations.DarkLanesAndPaths : Prop :=
  ∀ (s : State) (die peer : Nat), die ≠ peer → s.noRing →
    (∀ lane, dieChip die = dieChip peer → peer < 256 → lane < routeLanes s die peer →
      ∃ t, exec (.laneDark die peer lane) s = .next t ∧ routeLanes t die peer = routeLanes s die peer - 1
        ∧ (get {} (t.die die).paths peer).unack.map (·.1) = (get {} (s.die die).paths peer).unack.map (·.1)
        ∧ (1 < routeLanes s die peer → (∀ e ∈ (get {} (s.die die).paths peer).unack, e.2 < routeLanes s die peer) →
            ∀ e ∈ (get {} (t.die die).paths peer).unack, e.2 < routeLanes t die peer)
        ∧ t.crews = s.crews ∧ s.KeepsBytes t [])
    ∧ (peer < 256 → routeDark s die peer = false →
      ∃ t, exec (.pathDarkMark die peer) s = .next t ∧ routeDark t die peer = true ∧ routeLanes t die peer = 0 ∧ s.KeepsBytes t []
        ∧ (s.colls = [] → t.crews = s.crews)
        ∧ ∀ n, n < 64 → (s.reg die (0x600 + 4 * n)).getLsbD 0 = true → wfield (s.reg die (0x600 + 4 * n)) 9 8 = peer →
            (t.reg die (0x600 + 4 * n)).getLsbD 23 = true)
    ∧ (∀ k acc ga n va, crewDie k = die → routeDark s die peer = true → crewCheck s k acc.writes ga n = .ok (.hbm peer va) →
      checkAccess s k acc ga n = (.fault { code := 22, tval := BitVec.ofNat 64 ga }, s))

open Sys2Proof Sys2Proof.Machine in
/-- R160, R165 to R170, R177 to R179: enabling, disabling and masking a tile, waiting for it, and the commands tzero, mma,
tld and tst, which are accepted with the predicates of their tile, or wait, unchecked, while the core's queue is full
(R163). A tile that is not the crew's own raises TILEOFF; of two faults of one command the K count comes before the
operands (log entry 101). -/
def Obligations.TileInstructions : Prop :=
  ∀ (s : State) (f : T32f), s.cur.xs = false → s.stepping = false →
    let core := s.core s.myCore
    let n := f.t.toNat
    let tile := get {} core.tiles n
    let mine := tile.en = true ∧ tile.slot = s.me % 4
    let a := (s.val f.a.toNat).toNat
    let b := (s.val f.b.toNat).toNat
    let c := (s.val f.c.toNat).toNat
    let k := if c = 0 then 48 else c
    let some' := fun x => if tile.nr = 0 ∨ tile.nc = 0 then 0 else x
    let passes := fun ga align size => ∃ x, operandCheck s s.me ga align size = .ok x
    let blocks := (tile.nc + 31) / 32
    (mine → s.OnlyAdvances (.ten f))
    ∧ (tile.en = false → s.queueFree → ∃ t, exec (.ten f) s = .next t ∧ s.SameRegs t ∧ s.WentOn t ∧ s.KeepsBytes t []
        ∧ (t.core s.myCore).mq = core.mq ++ [⟨s.me, .ten f, [], 128, 128, none, s.jseq, s.myCrew.a.pc, 0, 0⟩]
        ∧ get {} (t.core s.myCore).tiles n = { tile with en := true, slot := s.me % 4, nr := 128, nc := 128 }
        ∧ ∀ x, x ≠ n → get {} (t.core s.myCore).tiles x = get {} core.tiles x)
    ∧ (mine → tilePending s s.myCore n = false →
        (∀ m ∈ members s.myCrew.viq, m.e.fin = false → m.f.tile.map (·.1) ≠ some n) →
        ∃ t, exec (.tdis f) s = .next t ∧ s.SameRegs t ∧ s.WentOn t ∧ s.KeepsBytes t []
          ∧ get {} (t.core s.myCore).tiles n = { tile with en := false, slot := 0 }
          ∧ ∀ x, x ≠ n → get {} (t.core s.myCore).tiles x = get {} core.tiles x)
    ∧ (mine → s.ready [f.a.toNat, f.b.toNat] [] = true → a ≤ 128 → b ≤ 128 →
        ∃ t, exec (.tmask f) s = .next t ∧ s.SameRegs t ∧ s.WentOn t ∧ s.KeepsBytes t []
          ∧ get {} (t.core s.myCore).tiles n = { tile with nr := a, nc := b }
          ∧ ∀ x, x ≠ n → get {} (t.core s.myCore).tiles x = get {} core.tiles x)
    ∧ (mine → s.ready [f.a.toNat, f.b.toNat] [] = true → 128 < a ∨ 128 < b →
        s.Raises (.tmask f) { code := 24, reason := 8 } s.seqr.pc)
    ∧ (mine → tilePending s s.myCore n = false → s.OnlyAdvances (.tsync f))
    ∧ (mine → s.Accepts (.tzero f) false (f.op.getLsbD 3) f.cc.toNat [] tile.nr tile.nc)
    ∧ (mine → s.ready [f.a.toNat, f.b.toNat, f.c.toNat] [] = true → k ≤ 48 →
        passes a 32 (some' ((tile.nr - 1) * 96 + 2 * k)) → passes b 32 (some' ((tile.nc - 1) * 96 + 2 * k)) →
        s.Accepts (.mma f) (f.op.getLsbD 2) (f.op.getLsbD 3) f.cc.toNat
          [s.val f.a.toNat, s.val f.b.toNat, s.val f.c.toNat] tile.nr tile.nc)
    ∧ (mine → s.ready [f.a.toNat, f.b.toNat, f.c.toNat] [] = true → 48 < k → f.op.getLsbD 2 = true ∨ s.queueFree →
        s.Raises (.mma f) { code := 24, reason := 8 } s.seqr.pc)
    ∧ (mine → s.ready [f.a.toNat, f.b.toNat] [] = true → b % 32 = 0 →
        passes a 32 (some' ((tile.nr - 1) * b + tile.nc * (if f.op.getLsbD 0 then 2 else 4))) →
        s.Accepts (.tld f) (f.op.getLsbD 2) (f.op.getLsbD 3) f.cc.toNat [s.val f.a.toNat, s.val f.b.toNat] tile.nr tile.nc)
    ∧ (mine → s.ready [f.a.toNat, f.b.toNat, f.c.toNat] [] = true → b % 32 = 0 →
        (f.op.toNat % 4 ≠ 2 →
          passes a 32 (some' ((tile.nr - 1) * b + tile.nc * (if f.op.toNat % 4 = 1 then 2 else 4)))) →
        (f.op.toNat % 4 = 2 → passes a 32 (some' ((tile.nr - 1) * b + 4 * (f.imm.toNat % 8 + 2) * blocks))
          ∧ passes c 1 (some' ((tile.nr - 1) * 4 + blocks))) →
        s.Accepts (.tst f) false (f.op.getLsbD 3) f.cc.toNat [s.val f.a.toNat, s.val f.b.toNat, s.val f.c.toNat] tile.nr tile.nc)
    ∧ (tile.en = false → (∀ i ∈ [Instr.tdis f, .tsync f], s.Raises i { code := 23, reason := 1 } s.seqr.pc)
        ∧ (s.queueFree → s.Raises (.tzero f) { code := 23, reason := 1 } s.seqr.pc))
    ∧ (tile.en = true → tile.slot ≠ s.me % 4 → (∀ i ∈ [Instr.tdis f, .tsync f], s.Raises i { code := 23, reason := 2 } s.seqr.pc)
        ∧ (s.queueFree → ∀ i ∈ [Instr.ten f, .tzero f], s.Raises i { code := 23, reason := 2 } s.seqr.pc))
    ∧ (¬s.queueFree → (tile.en = false → s.RunsLater (.ten f)) ∧ s.RunsLater (.tzero f)
        ∧ (s.ready [f.a.toNat, f.b.toNat, f.c.toNat] [] = true → s.RunsLater (.tst f)
            ∧ (f.op.getLsbD 2 = false → s.RunsLater (.mma f)))
        ∧ (s.ready [f.a.toNat, f.b.toNat] [] = true → f.op.getLsbD 2 = false → s.RunsLater (.tld f)))

open Sys2Proof Sys2Proof.Machine in
/-- R163, R171, R175 to R178, R180: a matrix command starts with its operands read, an mma completes block row by block
row, and a command that is complete has written what R168, R177 and R178 give and leaves the unit. That the operands are
read whole at the start, and that the command then carries the cause 13 of a poisoned one, is the model's choice (log
entries 88 and 31). -/
def Obligations.MatrixCommands : Prop :=
  ∀ (s : State) (core : Nat), let c := s.core core
    (∀ cmd r, c.mrun = none → c.mq = cmd :: r → (∀ g, cmd.instr ≠ .mmag g) → unclaimed s core cmd.first cmd = true →
      let ps := cmd.reads core cmd.first
      (s.chip (dieChip (coreDie core))).tripped = false → s.admitsEngine (engineId cmd.seq) ps = true → s.anyBad ps = false →
      ∃ t op, exec (.matrixCommandStart core) s = .next t ∧ t.crews = s.crews ∧ s.KeepsBytes t []
        ∧ t.core core = { c with
            mq := r, mrun := some ⟨cmd, cmd.first, 0, op, max cmd.cause (if ps.any (fun p => (s.vbyte p).p) then 13 else 0)⟩ }
        ∧ ∀ p ∈ ps, get {} op p = s.vbyte p)
    ∧ ∀ r, c.mrun = some r →
      let nr := r.cmd.nr
      let nc := r.cmd.nc
      let arg := fun i => (r.cmd.args.getD i 0).toNat
      let at' := fun p => (get {} r.opnd p).b.toNat
      let base := fun i => operandBase r.cmd.crew (arg i)
      let inGrid := fun i j => i < nr ∧ j < nc
      let completes := fun (t : State) => exec (.matrixCommandComplete core) s = .next t ∧ (t.core core).mrun = none
        ∧ (t.core core).mq = c.mq
      let closes := fun (t : State) (cause : Nat) => ∀ m, r.cmd.member = some m → (s.crew m.crew).doneAt = none →
        (t.crew m.crew).counter m.cc
            = ((s.crew m.crew).counter m.cc).memberDone m.id (if cause = 0 then none else some cause)
      nr ≤ 128 → nc ≤ 128 → s.noRing →
      (∀ f, r.cmd.instr = .mma f → 0 < nc → 32 * r.row < nr → (∀ p, (get {} r.opnd p).p = false) →
        (∀ i j, (s.telem core r.tile i j).p = false) →
        let k := if arg 2 = 0 then 48 else arg 2
        let row := fun p => (List.range k).map (fun x => (at' (p + 2 * x) + 2 ^ 8 * at' (p + 2 * x + 1), false))
        let here := fun i j => inGrid i j ∧ 32 * r.row ≤ i ∧ i < 32 * r.row + 32
        ∃ t, exec (.mmaBlockRowComplete core) s = .next t ∧ t.crews = s.crews ∧ s.KeepsBytes t []
          ∧ (t.core core).mrun = some { r with row := r.row + 1 } ∧ (t.core core).mq = c.mq
          ∧ s.KeepsTiles t core r.tile here
          ∧ ∀ i j, here i j → t.telem core r.tile i j
              = ⟨BitVec.ofNat 32 (cellSteps (row (base 0 + 96 * i)) (row (base 1 + 96 * j)) ((k + 7) / 8)
                  (if f.op.getLsbD 0 then 0 else (s.telem core r.tile i j).v.toNat)), false⟩)
      ∧ (∀ f, r.cmd.instr = .mma f → nc = 0 ∨ nr ≤ 32 * r.row → ∃ t, completes t ∧ closes t r.cause
          ∧ s.KeepsBytes t [] ∧ (t.core core).tiles = c.tiles)
      ∧ (∀ f, r.cmd.instr = .tzero f ∨ r.cmd.instr = .ten f → ∃ t, completes t ∧ closes t r.cause
          ∧ s.KeepsBytes t [] ∧ (∀ i j, inGrid i j → t.telem core f.t.toNat i j = {}) ∧ s.KeepsTiles t core f.t.toNat inGrid)
      ∧ (∀ f, r.cmd.instr = .tld f → (∀ p, (get {} r.opnd p).p = false) → ∃ t, completes t ∧ closes t r.cause
          ∧ s.KeepsBytes t [] ∧ s.KeepsTiles t core f.t.toNat inGrid
          ∧ ∀ i j, inGrid i j → t.telem core f.t.toNat i j =
              (let p := base 0 + arg 1 * i + j * (if f.op.getLsbD 0 then 2 else 4)
               let lo := at' p + 2 ^ 8 * at' (p + 1)
               if f.op.getLsbD 0 then ⟨BitVec.ofNat 32 (Fmt.bf16.convert .fp32 RNE lo).bits, false⟩
               else ⟨BitVec.ofNat 32 (lo + 2 ^ 16 * at' (p + 2) + 2 ^ 24 * at' (p + 3)), false⟩))
      ∧ (∀ f, r.cmd.instr = .tst f → (∀ i j, (s.telem core f.t.toNat i j).p = false) → (∀ ps, s.admitsEngine (engineId r.cmd.seq) ps = true) →
          let form := f.op.toNat % 4
          let el := fun i j => (s.telem core f.t.toNat i j).v.toNat
          let w := if form = 1 then 2 else 4
          let word := fun i j => base 0 + arg 1 * i + j * w
          let stores := fun (t : State) => completes t ∧ closes t 0 ∧ (t.core core).tiles = c.tiles
          (form ≤ 1 → nr ≤ 1 ∨ nc * w ≤ arg 1 → ∃ t, stores t
            ∧ (∀ i j, inGrid i j → t.num (word i j) w = if form = 1 then (Fmt.fp32.convert .bf16 RNE (el i j)).bits else el i j)
            ∧ s.KeepsBytes t ((List.range nr).flatMap (fun i => (List.range (nc * w)).map (word i 0 + ·))))
          ∧ (form = 2 →
            let m := f.imm.toNat % 8 + 2
            let block := fun i b => packBlock m ((List.range (min 32 (nc - 32 * b))).map (fun j => Fmt.fp32.decode (el i (32 * b + j))))
            let cells := (List.range nr).flatMap (fun i => (List.range ((nc + 31) / 32)).flatMap (fun b =>
              ((block i b).1.zipIdx.map (fun x => (base 0 + arg 1 * i + 4 * m * b + x.2, x.1))) ++ [(base 2 + 4 * i + b, (block i b).2)]))
            ∃ t, stores t ∧ ∀ p, t.byte p = (lastTo cells p).getD (s.byte p)))

open Sys2Proof Sys2Proof.Machine in
/-- R181 to R184: mmag reads its descriptor and is accepted on every core of the gang, or again from the K step at which
pre-emption stopped it; a K step adds, in every tile of every gang core, the product of the panels that the descriptor
names, and the last one completes the gang; a gang whose crew is being pre-empted stops between steps once the crew's
access sequencer has stopped, and the crew keeps its next step and its cause (log entry 25). That the operands of a step
are read at its start is the model's choice (log entry 88). R191, R193: the armed command of a follow-on slot enters its
queues when the copy has landed. -/
def Obligations.GangInstruction : Prop :=
  (∀ (s : State) (f : T32f) (off : Nat), s.cur.xs = false → s.stepping = false → s.ready [f.a.toNat] [] = true →
    let ga := (s.val f.a.toNat).toNat
    operandCheck s s.me ga 16 16 = .ok (s.myCore, off) →
    let base := 2 ^ 45 + s.myCore * 2 ^ 20 + off
    let ps := (List.range 16).map (base + ·)
    s.lets s.me 0 ps = true → s.anyBad ps = false → (∀ p ∈ ps, (s.seen s.me p).p = false) →
    let args := s.val f.a.toNat :: (List.range 4).map (fun i =>
      BitVec.ofNat 64 (leNat ((List.range 4).map (fun j => (s.seen s.me (base + (4 * i + j))).b))))
    let g := gangOf args.tail
    let old := s.myCrew.gang.filter (fun x => x.pc == s.myCrew.a.pc)
    let dfr := f.op.getLsbD 2 && old.isNone
    let cmd : MatCmd := ⟨s.me, .mmag f, args, 0, 0, s.memberFor (f.op.getLsbD 3) f.cc.toNat, s.jseq, s.myCrew.a.pc,
      (old.map (·.gstep)).getD 0, (old.map (·.cause)).getD 0⟩
    gangCheck s s.me ga ((old.map (·.gstep)).getD 0) args.tail = none →
    (f.op.getLsbD 3 = true → (s.myCrew.counter f.cc.toNat).blocked = false) →
    let went := fun (t : State) => exec (.mmag f) s = .next t ∧ s.SameRegs t ∧ s.WentOn t ∧ s.KeepsBytes t []
      ∧ t.myCrew.gang = if old.isSome then none else s.myCrew.gang
    (dfr = false → (∀ n, n < g.gr * g.gc →
        (s.core (s.myCore + n)).mq.length + (if (s.core (s.myCore + n)).mrun.isSome then 1 else 0) < 8) →
      ∃ t, went t ∧ ∀ n, n < g.gr * g.gc → (t.core (s.myCore + n)).mq = (s.core (s.myCore + n)).mq ++ [cmd])
    ∧ (dfr = true → s.myCrew.follow = .awaiting → s.myCrew.landed = none ∨ s.myCrew.landed = some 0 →
      ∃ t, went t ∧ t.myCrew.follow = .armed cmd ∧ ∀ n, (t.core n).mq = (s.core n).mq))
  ∧ (∀ (s : State) (core : Nat) (head : MatCmd) (q : List MatCmd) (f : T32f),
    (s.core core).mq = head :: q → head.instr = .mmag f → crewCore head.crew = core → gangHeads s head head.gstep = true →
    (s.chip (dieChip (coreDie core))).tripped = false →
    (((s.crew head.crew).stop ≠ .preempt ∧ (s.crew head.crew).gang = none) ∨ (s.crew head.crew).a.run = .running →
      (∀ n x y, n ∈ head.cores → (s.core n).mq = x :: y →
        unclaimed s n 0 x = true ∧ s.admitsEngine (engineId x.seq) (x.reads n 0) = true ∧ s.clean (x.reads n 0)) →
      ∃ t, exec (.gangStepStart core) s = .next t ∧ t.crews = s.crews ∧ s.KeepsBytes t []
        ∧ ∀ n x y, n ∈ head.cores → (s.core n).mq = x :: y →
            ∃ op, t.core n = { s.core n with mq := y, mrun := some ⟨x, 0, 0, op, x.cause⟩ } ∧ ∀ p ∈ x.reads n 0, get {} op p = s.vbyte p)
    ∧ ((s.crew head.crew).stop = .preempt → (s.crew head.crew).a.run ≠ .running →
      ∃ t, exec (.gangStepStart core) s = .next t ∧ s.KeepsBytes t []
        ∧ ((s.crew head.crew).gang = none → (t.crew head.crew).gang = some { head with cause := gangCause s head })
        ∧ ∀ n, n ∈ head.cores → (t.core n).mq = (s.core n).mq.filter (fun x => x.seq ≠ head.seq)))
  ∧ (∀ (s : State) (core : Nat) (r : MatRun) (f : T32f), (s.core core).mrun = some r → r.cmd.instr = .mmag f → s.noRing →
    let g := gangOf (r.cmd.args.drop 1)
    let home := crewCore r.cmd.crew
    let p := core - home
    let st := r.cmd.gstep
    let k := min 48 (g.kt - 48 * st)
    let at' := fun p => (get {} r.opnd p).b.toNat
    let row := fun p => (List.range k).map (fun x => (at' (p + 2 * x) + 2 ^ 8 * at' (p + 2 * x + 1), false))
    let rows := if p / g.gc = g.gr - 1 then g.rl else 128
    let cols := if p % g.gc = g.gc - 1 ∧ r.tile = g.nt - 1 then g.cl else 128
    let spad := fun n off => 2 ^ 45 + (home + n) * 2 ^ 20 + off
    g.rl ≤ 128 → g.cl ≤ 128 →
    (0 < cols → 32 * r.row < rows → (∀ p, (get {} r.opnd p).p = false) → (∀ i j, (s.telem core r.tile i j).p = false) →
      let here := fun i j => i < rows ∧ j < cols ∧ 32 * r.row ≤ i ∧ i < 32 * r.row + 32
      ∃ t, exec (.mmaBlockRowComplete core) s = .next t ∧ t.crews = s.crews ∧ s.KeepsBytes t []
        ∧ (t.core core).mrun = some { r with row := r.row + 1 } ∧ (t.core core).mq = (s.core core).mq
        ∧ s.KeepsTiles t core r.tile here
        ∧ ∀ i j, here i j → t.telem core r.tile i j = ⟨BitVec.ofNat 32 (cellSteps
            (row (spad (p / g.gc * g.gc) (g.aoff + 12288 * st) + 96 * i))
            (row (spad (p % g.gc) (g.boff + 12288 * (g.nt * st + r.tile)) + 96 * j)) ((k + 7) / 8)
            (if g.z = true ∧ st = 0 then 0 else (s.telem core r.tile i j).v.toNat)), false⟩)
    ∧ (cols = 0 ∨ rows ≤ 32 * r.row →
      let went := fun (t : State) => exec (.matrixCommandComplete core) s = .next t ∧ s.KeepsBytes t []
        ∧ (t.core core).tiles = (s.core core).tiles
      let cmd := { r.cmd with cause := r.cause }
      let ps := cmd.reads core (r.tile + 1)
      let last := ∀ n, n ∈ cmd.cores → n ≠ core → (s.core n).mrun = none ∧ ∃ x y, (s.core n).mq = x :: y ∧ x.seq = cmd.seq ∧ x.gstep = st + 1
      (r.tile + 1 < g.nt → unclaimed s core (r.tile + 1) cmd = true → s.admitsEngine (engineId cmd.seq) ps = true → s.clean ps →
        ∃ t op, went t ∧ t.crews = s.crews ∧ t.core core = { s.core core with mrun := some ⟨cmd, r.tile + 1, 0, op, r.cause⟩ }
          ∧ ∀ p ∈ ps, get {} op p = s.vbyte p)
      ∧ (g.nt ≤ r.tile + 1 → st + 1 < (g.kt + 47) / 48 ∨ ¬last →
        ∃ t, went t ∧ t.crews = s.crews
          ∧ t.core core = { s.core core with mrun := none, mq := { cmd with gstep := st + 1 } :: (s.core core).mq })
      ∧ (g.nt ≤ r.tile + 1 → (g.kt + 47) / 48 ≤ st + 1 → core ∈ cmd.cores → last →
        ∃ t, went t ∧ (t.core core).mrun = none
          ∧ (∀ n, n ∈ cmd.cores → (t.core n).mq = (s.core n).mq.filter (fun x => x.seq ≠ cmd.seq))
          ∧ ∀ m, cmd.member = some m → (s.crew m.crew).doneAt = none → r.cause = 0 → (∀ n x, x ∈ (s.core n).mq → x.cause = 0) →
              (t.crew m.crew).counter m.cc = ((s.crew m.crew).counter m.cc).memberDone m.id none)))
  ∧ ∀ (s : State) (k : Nat) (cmd : MatCmd), (s.crew k).follow = .armed cmd →
    ((s.crew k).landed = some 0 → (∀ n ∈ cmd.cores, queueRoom s n = true) →
      ∃ t, exec (.followOnPlace k) s = .next t ∧ s.KeepsBytes t [] ∧ t.crew k = { s.crew k with follow := .empty, landed := none }
        ∧ ∀ n ∈ cmd.cores, (t.core n).mq = (s.core n).mq ++ [cmd])
    ∧ ∀ e, (s.crew k).landed = some (e + 1) → s.noRing →
      ∃ t, exec (.followOnPlace k) s = .next t ∧ t.cores = s.cores ∧ s.KeepsBytes t []
        ∧ (t.crew k).follow = .empty ∧ (t.crew k).landed = none
        ∧ ∀ m, cmd.member = some m → (s.crew m.crew).doneAt = none →
            (t.crew m.crew).counter m.cc = ((s.crew m.crew).counter m.cc).memberDone m.id (some (e + 1))

open Sys2Proof Sys2Proof.Machine in
/-- R146, R154 to R158: counting the experts of an index token, copying and clearing the counters, staging a bias bank,
and swapping the banks, each in its turn among the crews of the core: that an instruction takes its place when it is first
executed is the model's reading (log entry 93). -/
def Obligations.RoutingInstructions : Prop :=
  ∀ (s : State) (f : T32e), s.cur.xs = false → s.stepping = false →
    let core := s.core s.myCore
    let off := (s.val f.a.toNat).toNat
    let word := fun j => (List.range 4).map (fun b => 2 ^ 45 + s.myCore * 2 ^ 20 + (off + 4 * j + b))
    let inside := off % 64 = 0 ∧ off + 1024 ≤ 8192 * core.s
    let before := core.rwait.filter (routingWaits s)
    let turn := before = [] ∨ before.head? = some s.me
    (∀ k r, turn → s.ready [] [f.d.toNat] = true → s.myCrew.iq = k :: r → k.whole = true →
      (∀ e ∈ k.elems, e.act = true → e.p = false) →
      let hits := (k.elems.filter (fun e => e.act && decide (e.v.toNat < 256))).map (·.v.toNat)
      ∃ t, exec (.rtcnt f) s = .next t ∧ s.Sets t f.d.toNat ⟨BitVec.ofNat 64 hits.length, false⟩ ∧ s.WentOn t
        ∧ s.KeepsBytes t [] ∧ t.myCrew.iq = (if f.imm.getLsbD 0 then r else k :: r)
        ∧ ∀ j, get 0 core.rcnt j < 2 ^ 32 →
            get 0 (t.core s.myCore).rcnt j = min (get 0 core.rcnt j + hits.count j) (2 ^ 32 - 1))
    ∧ (turn → s.mayStore → s.myCrew.unperformed = false → s.ready [f.a.toNat] [f.d.toNat] = true → inside →
      ∃ t, exec (.rtsnap f) s = .next t
        ∧ s.Stored t s.me ((List.range 256).flatMap (fun j => (word j).zip (leBytes 4 (get 0 core.rcnt j))))
        ∧ s.Sets t f.d.toNat ⟨BitVec.ofNat 64 (((List.range 256).map (get 0 core.rcnt)).sum), false⟩ ∧ s.WentOn t
        ∧ (t.core s.myCore).rcnt = [])
    ∧ (turn → s.ready [f.a.toNat] [] = true → inside → bankInUse s s.myCore (!core.act) = false →
      let ps := (List.range 256).flatMap word
      s.lets s.me 0 ps = true →
      s.anyBad ps = false → (∀ p ∈ ps, (s.seen s.me p).p = false) →
      ∃ t, exec (.rtbias f) s = .next t ∧ s.SameRegs t ∧ s.WentOn t ∧ s.KeepsBytes t [] ∧ (t.core s.myCore).act = core.act
        ∧ ∀ j, j < 256 → get 0 (if core.act then (t.core s.myCore).bank0 else (t.core s.myCore).bank1) j
            = BitVec.ofNat 32 (leNat ((word j).map (fun p => (s.seen s.me p).b))))
    ∧ (turn → ∃ t, exec (.rtswap f) s = .next t ∧ s.SameRegs t ∧ s.WentOn t
        ∧ (s.setCore s.myCore { core with act := !core.act, rwait := before.filter (· ≠ s.me) }).OnlySeqr t)
    ∧ (¬turn → ∃ t, exec (.rtswap f) s = .next t ∧ t.seqr.pc = s.seqr.pc ∧ t.seqr.wait = some (.rtswap f) ∧ s.SameRegs t
        ∧ t.core s.myCore = { core with rwait := if s.me ∈ before then before else before ++ [s.me] } ∧ s.KeepsBytes t [])
    ∧ (Instr.rtswap f).opcode = some 0x163
    ∧ ((Instr.rtswap f).wellFormed = true ↔ f.d = 0 ∧ f.a = 0 ∧ f.b = 0 ∧ f.cc = 0 ∧ f.scope = 0 ∧ f.imm = 0)

open Sys2Proof Sys2Proof.Machine in
/-- R46, R50, R108 to R110: each of these instructions, read by the X stream, enters the VIQ with its place, type, share
and captured scalars, and its sequencer goes on: vadd, vsub, vmul, vmulh, vand, vor, vxor, vsll, vsrl, vsra, vmin, vmax,
vminu, vmaxu, vcmp, vsel, vmv, vbc, vid, viota, vicvt, vfadd, vfsub, vfmul, vfma, vfms, vfnma, vfdiv, vfsqrt, vfmin,
vfmax, vfsgn, vfcmp, vfcvt, vfclass, vfexp2, vflog2, vfrcp, vfrsq, vftanh, vfsigm, vferf, vcompress, vexpand, vslup,
vsldn, vrgat, vext, vins, vredsum, vredmax, vredmin, vfredsum, vfredmax, vfredmin, vscan, vfscan, vtrd, vtcd, vtwr, vrins,
vrcls, vrpick, viq and vqdrop. The members of a convoy enter together: rest are those that follow a leader (R46, log entry
111). Its effect on registers, masks and queues follows when its convoy issues. BADTYPE is raised whatever TILEOFF or
TRANGE would say, and TRANGE before TILEOFF: the model's choice (log entries 92 and 112). -/
def Obligations.VectorInstructionsEnter : Prop :=
  (∀ (s : State) (i : Instr) (f : VForm) (rest : List Instr), vform i = some f → s.cur.xs = true →
    joined f s = (some rest, s) → enterReady f rest s = true →
    s.ready f.captures [] = true →
    let c := s.myCrew
    let q := s.seqr
    let captured := fun r => if f.captures.contains r then s.val r else 0
    (f.badType q.vtype = false → tileTrap s f (captured (f.xs.getD 0)).toNat q.vl = none →
      missingToken c f q.vtype = none ∨ (c.stop = .none ∧ c.a.run = .running) →
      ∃ t e, exec i s = .next t ∧ s.SameRegs t ∧ t.seqr.pc = s.after.2 ∧ t.seqr.loops = s.after.1 ∧ t.seqr.wait = none
        ∧ t.seqr.vl = q.vl ∧ t.seqr.vtype = q.vtype ∧ t.seqr.busy = (f.xd.toList.filter (· != 0)) ++ q.busy
        ∧ s.OnlyCrew t { c with viq := c.viq ++ [e] }
        ∧ e.instr = i ∧ e.pc = q.pc ∧ e.st = s.cur.st ∧ e.join = (s.cur.c && q.elig) ∧ e.bad = (s.cur.c && (q.taken || q.iter || !q.elig))
        ∧ e.vl = q.vl ∧ e.vt = q.vtype ∧ e.sh = q.share ∧ e.rnull = (s.core s.myCore).rnull ∧ e.issued = false ∧ e.prog = 0
        ∧ ∀ r, get {} e.xs r = ⟨captured r, false⟩)
    ∧ (f.badType q.vtype = true → s.Raises i { code := 7 } s.seqr.pc)
    ∧ (∀ n, f.badType q.vtype = false → f.tile.map (·.1) = some n → let x := (captured (f.xs.getD 0)).toNat
        let tile := get {} (s.core s.myCore).tiles n
        (16384 < x + q.vl → s.Raises i { code := 8 } s.seqr.pc)
        ∧ (x + q.vl ≤ 16384 → tile.en = false → s.Raises i { code := 23, reason := 1 } s.seqr.pc)
        ∧ (x + q.vl ≤ 16384 → tile.en = true → tile.slot ≠ s.me % 4 → s.Raises i { code := 23, reason := 2 } s.seqr.pc)))
  ∧ (∀ (f : T32d), ∀ i ∈ [Instr.vadd f, .vsub f, .vmul f, .vmulh f, .vand f, .vor f, .vxor f, .vsll f,
      .vsrl f, .vsra f, .vmin f, .vmax f, .vminu f, .vmaxu f, .vsel f, .vmv f, .vbc f, .vid f, .viota f, .vfadd f, .vfsub f,
      .vfmul f, .vfdiv f, .vfsqrt f, .vfmin f, .vfmax f, .vfsgn f, .vfexp2 f, .vflog2 f, .vfrcp f, .vfrsq f, .vftanh f,
      .vfsigm f, .vferf f, .vexpand f, .vrgat f], (vform i).isSome = true)
  ∧ (∀ (f : T48b), ∀ i ∈ [Instr.vcmp f, .vicvt f, .vfma f, .vfms f, .vfnma f, .vfcmp f, .vfcvt f, .vfclass f, .vcompress f, .vslup f,
      .vsldn f, .vext f, .vins f, .vredsum f, .vredmax f, .vredmin f, .vfredsum f, .vfredmax f, .vfredmin f, .vscan f,
      .vfscan f, .vrins f, .vrcls f, .vrpick f], (vform i).isSome = true)
  ∧ ∀ (f : T32g), ∀ i ∈ [Instr.vtrd f, .vtcd f, .vtwr f, .viq f, .vqdrop f], (vform i).isSome = true

open Sys2Proof Sys2Proof.Machine in
/-- R47, R49, R50, R52, R308: the oldest convoy that has not issued issues when each member keeps the rules of R47, its
tokens are present with the lengths and widths of R233 and R234, nothing before it stands in its way, its pipes are free
and the queues have room. A member that breaks R47 traps CONVOY, and a token of the wrong length QLEN, with nothing done:
the entries of the convoy and behind it are held where they stand. -/
def Obligations.ConvoyIssues : Prop :=
  ∀ (s : State) (k : Nat) (conv : List VEntry) (c : Crew), s.crew k = c → let n := c.flight.length
    conv = convoyOf (c.viq.drop n) → conv ≠ [] → c.vheld = false → c.viqOn = true → convoyOpen s k = false →
    c.estep.testBit 0 = false ∨ n = 0 → (∀ e ∈ c.viq, (vform e.instr).isSome = true) →
    let ms := members conv
    let room := fun x => (s.crew k).pushRoom (s.core (crewCore k)).q x
    let trapped := fun (t : State) (code member queue : Nat) => exec (.viqHeadIssue k) s = .next t ∧ s.KeepsBytes t []
      ∧ (t.crew k).viq.length = c.viq.length ∧ (t.crew k).viq.take n = c.viq.take n ∧ (t.crew k).stop = .trap
      ∧ (∀ j e, c.viq[n + j]? = some e → (t.crew k).viq[n + j]? = some { e with
          held := e.holds || j == member
          goal := if j < conv.length ∧ j ≠ member ∧ !e.hoards then ((conv[member]?).map (·.prog)).getD 0 else 0 })
      ∧ (c.stop ≠ .trap → (t.crew k).trap.cause
          = ({ code := code, elem := some 0, queue := queue, member := member, hold := true } : Trap).word true)
    (convoyFault [] ms = none → headTokens c ms = true → checkTokens c c.flight ms = .fine →
      (s.core (crewCore k)).ckstall = false ∨ stallFault (agePends c) [] ms = none → earlierDone c ms = true →
      firstSlots ms = 0 ∨ room (firstSlots ms) = true → gatedFor s (crewCore k) ms = [] → pipesFree s k ms = true →
      ∃ t, exec (.viqHeadIssue k) s = .next t ∧ s.KeepsBytes t [] ∧ (∀ j, j ≠ k → t.crew j = s.crew j)
        ∧ (∀ m, t.core m = if m = crewCore k then { s.core m with vlast := crewSlot k } else s.core m)
        ∧ (t.crew k).viq.length = c.viq.length ∧ (t.crew k).viq.take n = c.viq.take n
        ∧ (t.crew k).viq.drop (n + conv.length) = c.viq.drop (n + conv.length)
        ∧ (t.crew k).a = c.a ∧ (t.crew k).x = c.x
        ∧ ∀ (j : Nat) (e : VEntry), conv[j]? = some e → ∃ e' : VEntry, (t.crew k).viq[n + j]? = some e' ∧ e'.issued = true
            ∧ e'.instr = e.instr ∧ e'.vl = e.vl ∧ e'.vt = e.vt ∧ e'.sh = e.sh ∧ e'.xs = e.xs ∧ e'.prog = e.prog)
    ∧ (∀ j, convoyFault [] ms = some j → ∃ t, trapped t 6 j 0)
    ∧ (∀ j q info, convoyFault [] ms = none → headTokens c ms = true → checkTokens c c.flight ms = .wrong j q info →
        ∃ t, trapped t 9 (j - n) q)

open Sys2Proof Sys2Proof.Machine in
/-- R111 to R116, R119: an element group of an element-wise instruction. Each selected element of the destination receives
the instruction's value, or the token that it pushes grows by the group; a compare writes its mask; vsel takes each
element from one of its sources; the other elements are unchanged. -/
def Obligations.ElementGroups : Prop :=
  ∀ (s : State) (k : Nat) (e : VEntry) (f : VForm) (r : List VEntry), s.Alone k e f r →
    let hi := e.groupEnd
    let here := fun i => e.prog ≤ i ∧ i < hi ∧ s.picks k f i = true
    let wc := e.vt.wc
    let arg := fun n i => ((f.sources e.vt)[n]?.map (fun o => (s.src k e o.1 o.2 i).1)).getD 0
    (∀ op, f.sem = .elem op →
      let v := fun i => op wc f.rm i (arg 0 i) (arg 1 i) (arg 2 i)
      ∃ t, s.AdvancedTo t k e r hi
        ∧ (∀ d, f.vd = some d → d < 64 → s.SetsElems t k e d here (fun i => (v i).bits))
        ∧ (∀ n, f.vd = some (0x50 + n) → n ≤ 4 → s.KeepsVectors t k ∧
            s.Grows t k n ((List.range (hi - e.prog)).map (fun i => if s.picks k f (e.prog + i) then
              ⟨BitVec.ofNat 64 (v (e.prog + i)).bits, true, false⟩ else ⟨0, false, false⟩)))
        ∧ (∀ m, m ≠ f.me ∨ f.e = false → get 0 (t.crew k).masks m = get 0 (s.crew k).masks m)
        ∧ (f.e = true → hi = e.vl → ∀ i, i < e.vl → ((get 0 (t.crew k).masks f.me).getLsbD i = true ↔
            i ∈ e.flags ∨ (here i ∧ (v i).exc = true))))
    ∧ (∀ op d, f.sem = .compare op → f.vd = some d → (f.e = true → f.me ≠ d) →
      ∃ t, s.AdvancedTo t k e r hi ∧ s.KeepsVectors t k
        ∧ ∀ i, i < 16384 → (get 0 (t.crew k).masks d).getLsbD i
            = if e.prog ≤ i ∧ i < hi ∧ s.picks k f i = true then (op wc (arg 0 i) (arg 1 i)).1
              else (get 0 (s.crew k).masks d).getLsbD i)
    ∧ (∀ d, f.sem = .select → f.vd = some d → d < 64 → ∃ t, s.AdvancedTo t k e r hi
        ∧ s.SetsElems t k e d (fun i => e.prog ≤ i ∧ i < hi) (fun i => if s.picks k f i then arg 0 i else arg 1 i))

open Sys2Proof Sys2Proof.Machine in
/-- R117, R118, R120 to R122, R124 to R129, R144: what each element-wise instruction computes for one element. The
floating-point instructions use the operations of R67 to R75 in the format of their width; vicvt and vfcvt read their
source at its own width, and each code of vfcvt needs the width code of its result. -/
def Obligations.VectorFunctions : Prop :=
  ∀ (wc rm n a b c : Nat), wc ≤ 3 → a < 2 ^ (8 * 2 ^ wc) → b < 2 ^ (8 * 2 ^ wc) →
    let w := 8 * 2 ^ wc
    let x := BitVec.ofNat w a
    let y := BitVec.ofNat w b
    let g := if wc = 1 then Fmt.bf16 else Fmt.fp32
    let gives := fun (i : Instr) (v : Nat) => ∃ f op, vform i = some f ∧ f.sem = .elem op ∧ (op wc rm n a b c).bits = v
    let tests := fun (i : Instr) (v : Bool) => ∃ f op, vform i = some f ∧ f.sem = .compare op ∧ (op wc a b).1 = v
    (∀ f : T32d,
      gives (.vadd f) (x + y).toNat ∧ gives (.vsub f) (x - y).toNat ∧ gives (.vmul f) (x * y).toNat
      ∧ gives (.vmulh f) (BitVec.ofInt w (x.toInt * y.toInt / 2 ^ w)).toNat
      ∧ gives (.vand f) (x &&& y).toNat ∧ gives (.vor f) (x ||| y).toNat ∧ gives (.vxor f) (x ^^^ y).toNat
      ∧ gives (.vsll f) (x <<< (b % w)).toNat ∧ gives (.vsrl f) (x >>> (b % w)).toNat
      ∧ gives (.vsra f) (x.sshiftRight (b % w)).toNat
      ∧ gives (.vmin f) (if x.slt y then a else b) ∧ gives (.vmax f) (if x.slt y then b else a)
      ∧ gives (.vminu f) (min a b) ∧ gives (.vmaxu f) (max a b) ∧ gives (.vmv f) a ∧ gives (.vid f) (n % 2 ^ w)
      ∧ gives (.vfadd f) (g.add rm a b).bits ∧ gives (.vfsub f) (g.sub rm a b).bits ∧ gives (.vfmul f) (g.mul rm a b).bits
      ∧ gives (.vfdiv f) (g.div rm a b).bits ∧ gives (.vfsqrt f) (g.sqrt rm a).bits
      ∧ gives (.vfmin f) (g.pick true a b).bits ∧ gives (.vfmax f) (g.pick false a b).bits
      ∧ (wc = 1 ∨ wc = 2 → gives (.vfsgn f) (a % 2 ^ (w - 1) + (if y.msb then 2 ^ (w - 1) else 0)))
      ∧ gives (.vfexp2 f) (g.special .exp2 a).bits ∧ gives (.vflog2 f) (g.special .log2 a).bits
      ∧ gives (.vfrcp f) (g.special .rcp a).bits ∧ gives (.vfrsq f) (g.special .rsq a).bits
      ∧ gives (.vftanh f) (g.special .tanh a).bits ∧ gives (.vfsigm f) (g.special .sigm a).bits
      ∧ gives (.vferf f) (g.special .erf a).bits)
    ∧ (∀ f : T48b,
      gives (.vfma f) (g.fma rm false false a b c).bits ∧ gives (.vfms f) (g.fma rm false true a b c).bits
      ∧ gives (.vfnma f) (g.fma rm true false a b c).bits ∧ gives (.vfclass f) (g.classify a)
      ∧ (f.fn = 0 → tests (.vcmp f) (a == b)) ∧ (f.fn = 1 → tests (.vcmp f) (a != b))
      ∧ (f.fn = 2 → tests (.vcmp f) (x.slt y)) ∧ (f.fn = 3 → tests (.vcmp f) (y.sle x))
      ∧ (f.fn = 4 → tests (.vcmp f) (x.ult y)) ∧ (f.fn = 5 → tests (.vcmp f) (y.ule x))
      ∧ (f.fn = 6 → tests (.vcmp f) (x.sle y)) ∧ (f.fn = 7 → tests (.vcmp f) (y.slt x))
      ∧ (f.fn = 8 → tests (.vcmp f) (x.ule y)) ∧ (f.fn = 9 → tests (.vcmp f) (y.ult x))
      ∧ tests (.vfcmp f) (g.compare f.fn.toNat a b).1
      ∧ (∀ src v, (f.fn.extractLsb' 0 2).toNat = src → v < 2 ^ (8 * 2 ^ src) →
          let z := BitVec.ofNat (8 * 2 ^ src) v
          let gives := fun (r : Nat) => ∃ f' op, vform (.vicvt f) = some f' ∧ f'.sem = .elem op ∧ f'.src = some src ∧ (op wc rm n v b c).bits = r
          (src < wc → f.fn.getLsbD 2 = true → gives (z.signExtend w).toNat)
          ∧ (src < wc → f.fn.getLsbD 2 = false → gives v) ∧ (src = wc → gives v)
          ∧ (wc < src → f.fn.getLsbD 3 = false → gives (v % 2 ^ w))
          ∧ (wc < src → f.fn.getLsbD 3 = true → f.fn.getLsbD 2 = true →
              gives (BitVec.ofInt w (max (-(2 ^ (w - 1))) (min (2 ^ (w - 1) - 1) z.toInt))).toNat)
          ∧ (wc < src → f.fn.getLsbD 3 = true → f.fn.getLsbD 2 = false → gives (min v (2 ^ w - 1))))
      ∧ ∀ v, let converts := fun (fn dst src : Nat) (r : FRes) => f.fn.toNat = fn → v < 2 ^ (8 * 2 ^ src) →
          ∃ f' op, vform (.vfcvt f) = some f' ∧ f'.sem = .elem op ∧ f'.rule = .only dst ∧ f'.src = some src ∧ op dst rm n v b c = r
        let int := fun (bits : Nat) => (BitVec.ofNat bits v).toInt
        converts 0 2 1 (Fmt.bf16.convert .fp32 RNE v) ∧ converts 1 1 2 (Fmt.fp32.convert .bf16 rm v)
        ∧ converts 2 2 2 (Fmt.fp32.toInteger rm true 32 v) ∧ converts 3 2 2 (Fmt.fp32.toInteger rm false 32 v)
        ∧ converts 4 2 2 (Fmt.fp32.ofInteger rm (int 32)) ∧ converts 5 2 2 (Fmt.fp32.ofInteger rm v)
        ∧ converts 6 1 1 (Fmt.bf16.toInteger rm true 16 v) ∧ converts 7 1 1 (Fmt.bf16.toInteger rm false 16 v)
        ∧ converts 8 1 1 (Fmt.bf16.ofInteger rm (int 16)) ∧ converts 9 1 1 (Fmt.bf16.ofInteger rm v)
        ∧ converts 10 3 2 (Fmt.fp32.toInteger rm true 64 v) ∧ converts 11 2 3 (Fmt.fp32.ofInteger rm (int 64))
        ∧ converts 12 0 2 (Fmt.fp32.toInteger rm true 8 v) ∧ converts 13 2 0 (Fmt.fp32.ofInteger rm (int 8)))

open Sys2Proof Sys2Proof.Machine in
/-- R120, R121, R132 to R137, R150 to R152, R186 to R188, R327, R328: the moves. Broadcast, iota, compress, expand,
slides, gather, extract and insert; the class of an expert index, and the ranked lists of vrins and vrpick; tile slices;
the index ramp of viq; dropping a token, group by group. That vext and vrpick do all their elements in one step is the
model's choice (log entry 23). -/
def Obligations.VectorMoves : Prop :=
  ∀ (s : State) (k : Nat) (e : VEntry) (f : VForm) (r : List VEntry), s.Alone k e f r →
    let wc := e.vt.wc
    let vl := e.vl
    let a := fun i => (s.src k e (f.va.getD 0) wc i).1
    let b := fun i => (s.src k e (f.vb.getD 0) wc i).1
    let x := (get {} e.xs (f.xs.getD 0)).v.toNat
    let hi := e.groupEnd
    let group := fun i => e.prog ≤ i ∧ i < hi ∧ s.picks k f i = true
    (∀ g, e.instr = .vtwr g → x + vl ≤ 16384 → wc = 2 ∨ wc = 1 →
      ∃ t, s.AdvancedTo t k e r hi ∧ s.KeepsVectors t k
        ∧ ∀ i j, i < 128 → j < 128 →
            let n := 128 * i + j - x
            t.telem (crewCore k) g.t.toNat i j = if x ≤ 128 * i + j ∧ group n
              then ⟨BitVec.ofNat 32 (if wc = 2 then a n else (Fmt.bf16.convert .fp32 RNE (a n)).bits), false⟩
              else s.telem (crewCore k) g.t.toNat i j)
    ∧ (∀ g, e.instr = .viq g → ∃ t, s.AdvancedTo t k e r hi ∧ s.KeepsVectors t k
        ∧ s.Grows t k 4 ((List.range (hi - e.prog)).map (fun i => if s.picks k f (e.prog + i) then
            ⟨BitVec.ofNat 64 ((x + (e.prog + i) * g.imm.toNat) % 2 ^ (8 * 2 ^ wc)), true, false⟩ else ⟨0, false, false⟩)))
    ∧ (∀ g q rest, e.instr = .vqdrop g → (s.crew k).lqAt g.q.toNat = q :: rest → e.part.toNat = q.n →
        ∃ t, s.AdvancedTo t k e r hi ∧ s.KeepsVectors t k ∧ (hi = q.n → (t.crew k).lqAt g.q.toNat = rest)
          ∧ (hi < q.n → ∃ q', (t.crew k).lqAt g.q.toNat = q' :: rest ∧ q'.n = q.n ∧ q'.elems = q.elems ∧ q.freed ≤ q'.freed))
    ∧ (∀ g, e.instr = .vext g → e.prog = 0 → g.x.toNat ≠ 0 → ∃ t, s.AdvancedTo t k e r vl ∧ s.KeepsVectors t k
        ∧ (t.crew k).x.reg g.x.toNat = ⟨if vl ≤ x ∨ s.picks k f x = false then 0 else if g.fn.getLsbD 0
            then (BitVec.ofNat (8 * 2 ^ wc) (a x)).signExtend 64 else BitVec.ofNat 64 (a x), false⟩)
    ∧ ∀ d, f.vd = some d → d < 64 →
      let writes := fun (n : Nat) (p : Nat → Prop) (v : Nat → Nat) => ∃ t, s.AdvancedTo t k e r n ∧ s.SetsElems t k e d p v
      let whole := fun (v : Nat → Nat) => writes hi group v
      (∀ g, e.instr = .vbc g → whole (fun _ =>
          if x < (if 0x40 ≤ g.va.toNat ∧ g.va.toNat < 0x50 then vl else vlmax e.sh.g e.vt.cls wc e.vt.grp) then a x else 0))
      ∧ (∀ g, e.instr = .viota g → e.part.toNat = s.rank k f e.prog → writes hi group (fun i => s.rank k f i))
      ∧ (∀ g, e.instr = .vexpand g → e.part.toNat = s.rank k f e.prog → writes hi group (fun i => a (s.rank k f i)))
      ∧ (∀ g, e.instr = .vslup g → whole (fun i => if x ≤ i then a (i - x) else if x ≤ i + vl then b (i + vl - x) else 0))
      ∧ (∀ g, e.instr = .vsldn g → whole (fun i => if i + x < vl then a (i + x) else if i + x - vl < vl then b (i + x - vl) else 0))
      ∧ (∀ g, e.instr = .vrgat g → whole (fun i => if b i < vl then a (b i) else 0))
      ∧ (∀ g, e.instr = .vrcls g → whole (fun i => expertClass e.rnull (a i)))
      ∧ (∀ g, e.instr = .vins g → writes hi
          (fun i => group i ∧ i = (get {} e.xs (g.vb.toNat - 0x60)).v.toNat) (fun _ => x))
      ∧ (∀ dc, f.vc = some dc → let n := f.k
          let step := 2 ^ e.vt.grp
          d + n * step ≤ dc ∨ dc + n * step ≤ d → d + n * step ≤ 64 → dc + n * step ≤ 64 → wc = 2 ∨ wc = 1 →
          (∀ q i, q < n → (s.velem (crewCore k) e wc (d + q * step) i).2 = false ∧ (s.velem (crewCore k) e wc (dc + q * step) i).2 = false) →
          let pair := fun (s : State) (q i : Nat) =>
            ((s.velem (crewCore k) e wc (d + q * step) i).1, (s.velem (crewCore k) e wc (dc + q * step) i).1)
          let keeps := fun (t : State) (p : Nat → Prop) => ∀ key,
            (∀ q i, q < n → p i → key ∉ elemKeys e.vt e.sh wc (d + q * step) i ∧ key ∉ elemKeys e.vt e.sh wc (dc + q * step) i) →
            get {} (t.core (crewCore k)).vregs key = get {} (s.core (crewCore k)).vregs key
          (∀ g, e.instr = .vrins g →
            let bank := if e.prog = 0 then (s.core (crewCore k)).act else e.bank
            let key := fun (p : Nat × Nat) => rankKey wc p.1 (biasOf (s.core (crewCore k)) bank p.2)
            ∃ t, s.AdvancedTo t k e r hi ∧ keeps t group
              ∧ (∀ i, group i → Inserted (fun p q => ranksAbove (key p) p.2 (key q) q.2) (a i, x % 2 ^ (8 * 2 ^ wc))
                  (fun q => pair s q i) (fun q => pair t q i) n)
              ∧ ∀ e' rest, (t.crew k).viq = e' :: rest → hi < vl → e'.bank = bank)
          ∧ (∀ g, e.instr = .vrpick g → e.prog = 0 → f.men = false →
            let key := fun (p : Nat × Nat) => rankKey wc p.1 none
            ∃ t, ∃ lists : Nat → Nat → Nat × Nat, s.AdvancedTo t k e r vl ∧ keeps t (· < vl)
              ∧ (∀ q, q < vl → lists 0 q = pair s 0 q ∧ pair t 0 q = lists vl q)
              ∧ ∀ i, i < vl → if (if wc = 1 then Fmt.bf16 else Fmt.fp32).decode (a i) |>.isNan then lists (i + 1) = lists i
                  else Inserted (fun p q => ranksAbove (key p) p.2 (key q) q.2) (a i, (x + i) % 2 ^ (8 * 2 ^ wc))
                    (lists i) (lists (i + 1)) vl))
      ∧ (∀ g, e.instr = .vtrd g ∨ e.instr = .vtcd g → x + vl ≤ 16384 → wc = 2 ∨ wc = 1 →
          let pos := fun i => if e.instr = .vtcd g then (x + i) % 128 * 128 + (x + i) / 128 else x + i
          (∀ i j, (s.telem (crewCore k) g.t.toNat i j).p = false) →
          writes hi group (fun i => let v := (s.telem (crewCore k) g.t.toNat 0 (pos i)).v.toNat
            if wc = 2 then v else (Fmt.fp32.convert .bf16 RNE v).bits))
      ∧ (∀ g, e.instr = .vcompress g → e.part.toNat = s.rank k f e.prog → ∃ t, s.AdvancedTo t k e r hi
          ∧ (∀ i, group i → t.velem (crewCore k) e wc d (s.rank k f i) = (a i, false))
          ∧ (hi = vl → (∀ j, s.rank k f vl ≤ j → j < vl → t.velem (crewCore k) e wc d j = (0, false))
              ∧ (g.x.toNat ≠ 0 → (t.crew k).x.reg g.x.toNat = ⟨BitVec.ofNat 64 (s.rank k f vl), false⟩)))

open Sys2Proof Sys2Proof.Machine in
/-- R83, R84, R137 to R143: a reduction combines the elements of each group in the tree of R83, elements that are not
selected counting as the identity, and then with the running value, and at the end writes its scalar register; a scan
gives each selected element the running value up to it. -/
def Obligations.ReductionsAndScans : Prop :=
  ∀ (s : State) (k : Nat) (e : VEntry) (f : VForm) (r : List VEntry), s.Alone k e f r → 0 < e.vl →
    let wc := e.vt.wc
    let w := 8 * 2 ^ wc
    let a := fun i => (s.src k e (f.va.getD 0) wc i).1
    let hi := e.groupEnd
    let here := (List.range (hi - e.prog)).map (e.prog + ·)
    let total := fun (n : Nat) => (((List.range n).filter (fun i => e.prog ≤ i ∧ s.picks k f i = true)).map a).sum
    (∀ op ident sx d, f.sem = .reduce op ident sx → f.xd = some d →
      let ys := here.map (fun i => if s.picks k f i then a i else ident wc) ++ List.replicate (8 * e.sh.g - here.length) (ident wc)
      let v : Word := BitVec.ofNat 64 (op wc f.rm e.part.toNat (treeOf (op wc f.rm) ys.length ys false).1).bits
      ∃ t, s.AdvancedTo t k e r hi ∧ s.KeepsVectors t k
        ∧ (hi < e.vl → ∀ e' rest, (t.crew k).viq = e' :: rest → e'.part = v)
        ∧ (hi = e.vl → d ≠ 0 → (t.crew k).x.reg d = ⟨if sx then (v.setWidth w).signExtend 64 else v, false⟩)
        ∧ (hi = e.vl → d ∉ (t.crew k).x.busy ∨ 2 ≤ (s.crew k).x.busy.count d))
    ∧ (∀ g op ident sx, e.instr = .vredsum g → f.sem = .reduce op ident sx →
        ∃ t, s.AdvancedTo t k e r hi ∧ (hi < e.vl → ∀ e' rest, (t.crew k).viq = e' :: rest →
            e'.part = BitVec.ofNat 64 ((e.part.toNat + total hi) % 2 ^ w))
          ∧ (hi = e.vl → g.x.toNat ≠ 0 → (t.crew k).x.reg g.x.toNat
              = ⟨(BitVec.ofNat w (e.part.toNat + total hi)).signExtend 64, false⟩))
    ∧ (∀ op ident d, f.sem = .scan op ident → f.vd = some d → d < 64 →
      let rs := prefixes (op wc f.rm) e.part.toNat none false (here.map (fun i => if s.picks k f i then a i else ident wc))
      ∃ t, s.AdvancedTo t k e r hi
        ∧ s.SetsElems t k e d (fun i => e.prog ≤ i ∧ i < hi ∧ s.picks k f i = true) (fun i => ((rs[i - e.prog]?).map (·.1)).getD 0))
    ∧ ∀ g d, e.instr = .vscan g → g.fn = 0 → f.vd = some d → d < 64 → ∃ t, s.AdvancedTo t k e r hi
        ∧ s.SetsElems t k e d (fun i => e.prog ≤ i ∧ i < hi ∧ s.picks k f i = true) (fun i => e.part.toNat + total (i + 1))

open Sys2Proof Sys2Proof.Machine in
/-- R130, R331: the mask instructions act on bits 0 to vl - 1 and leave the others; mpop counts, mfirst finds the lowest,
mset sets the lowest x bits; vbrq pushes the summary of a mask and writes it to x. -/
def Obligations.MaskInstructions : Prop :=
  (∀ (s : State) (f : T16b), s.cur.xs = true → s.stepping = false → s.seqr.vl ≤ 16384 →
    let m := fun n i => (get 0 s.myCrew.masks n).getLsbD i
    let idle := fun (ns : List Nat) => maskPending s.myCrew ns true = false
    let d := f.md.toNat
    let a := f.ma.toNat
    let b := f.mb.toNat
    let on := (List.range s.seqr.vl).filter (m a)
    let sets := fun (i : Instr) (v : Nat → Bool) => ∃ t, exec i s = .next t ∧ s.SameRegs t ∧ s.WentOn t
      ∧ s.OnlyCrew t { s.myCrew with masks := t.myCrew.masks, vpend := t.myCrew.vpend }
      ∧ (∀ i, i < 16384 → (get 0 t.myCrew.masks d).getLsbD i = if i < s.seqr.vl then v i else m d i)
      ∧ ∀ n, n ≠ d → get 0 t.myCrew.masks n = get 0 s.myCrew.masks n
    (idle [d, a, b] → sets (.mand f) (fun i => m a i && m b i) ∧ sets (.mor f) (fun i => m a i || m b i)
      ∧ sets (.mxor f) (fun i => m a i ^^ m b i))
    ∧ (idle [d, a] → sets (.mnot f) (fun i => !m a i))
    ∧ (idle [d] → s.ready [f.x.toNat] [] = true → sets (.mset f) (fun i => decide (i < (s.val f.x.toNat).toNat)))
    ∧ (idle [a] → s.ready [] [f.x.toNat] = true → s.Gives (.mpop f) f.x.toNat (BitVec.ofNat 64 on.length) 1
        ∧ s.Gives (.mfirst f) f.x.toNat ((on.head?.map (BitVec.ofNat 64)).getD (-1)) 1))
  ∧ ∀ (s : State) (f : T32g), s.cur.xs = true → s.stepping = false → s.ready [] [f.x.toNat] = true → s.myCrew.bq.length < 16 →
    maskPending s.myCrew [f.m.toNat] false = false →
    let n := ((List.range s.seqr.vl).filter (fun i => (get 0 s.myCrew.masks f.m.toNat).getLsbD i != f.mn)).length
    let v : Word := match f.imm.toNat % 4 with
      | 0 => if n = 0 then 0 else 1
      | 1 => if n = s.seqr.vl then 1 else 0
      | _ => BitVec.ofNat 64 n
    ∃ t, exec (.vbrq f) s = .next t ∧ s.Sets t f.x.toNat ⟨v, false⟩ ∧ s.WentOn t
      ∧ s.OnlyCrew t { s.myCrew with bq := s.myCrew.bq ++ [v] }

open Sys2Proof Sys2Proof.Machine in
/-- R383 to R386: sget reads a register of the selector map into d; sset writes one. An unassigned selector raises ILLOP
and one that the privilege does not allow PRIV; a write of a read-only register does nothing, and the X stream reads
registers of the access sequencer as zero and writes none. -/
def Obligations.SystemRegisters : Prop :=
  ∀ (s : State) (f : T32a), s.stepping = false →
    let n := f.imm.toNat
    let d := f.d.toNat
    let a := s.val f.a.toNat
    let c := s.myCrew
    let nat := fun (x : Nat) => BitVec.ofNat 64 x
    (selector (s.myDie % 8) n = none → s.Raises (.sget f) { code := 1 } s.seqr.pc ∧ s.Raises (.sset f) { code := 1 } s.seqr.pc)
    ∧ ∀ x, selector (s.myDie % 8) n = some x →
      (x.readSys = true → s.sysPriv s.me = false → s.Raises (.sget f) { code := 4 } s.seqr.pc)
      ∧ (x.writeSys = true → s.sysPriv s.me = false → s.Raises (.sset f) { code := 4 } s.seqr.pc)
      ∧ (x.readSys = false ∨ s.sysPriv s.me = true → s.ready [] [d] = true →
        (x.aseq = true → s.cur.xs = true → s.Gives (.sget f) d 0 2)
        ∧ (x.aseq = false ∨ s.cur.xs = false →
          (∃ t, exec (.sget f) s = .next t ∧ t.seqr.reg d = (if d = 0 then {} else ⟨(readSel n s).1, false⟩) ∧ s.OtherRegs t d
            ∧ s.WentOn t ∧ s.KeepsBytes t [])
          ∧ (∀ r ∈ [(0x010, placeWord s s.me), (0x011, c.wid), (0x020, nat s.seqr.vl),
              (0x021, nat (s.seqr.vtype.wc + s.seqr.vtype.grp * 2 ^ 2 + s.seqr.vtype.cls * 2 ^ 4)), (0x022, nat c.alen),
              (0x031, nat c.slip), (0x060, (s.core s.myCore).rnull), (0x0A2, c.chain.hwm), (0x0A3, c.chain.pos), (0x0A4, c.narg),
              (0x0A5, c.node), (0x0C0, nat (s.chip (s.me / 2048)).scseq), (0x100, c.trap.cause), (0x101, c.trap.cinfo),
              (0x102, c.trap.tval), (0x103, c.trap.epca), (0x104, c.trap.epcx), (0x105, c.trap.qstate), (0x106, c.trap.qsx),
              (0x107, c.trap.cause2), (0x108, nat c.trap.vstart), (0x112, c.tsel)], n = r.1 → s.Gives (.sget f) d r.2 2)
          ∧ ((0x500 ≤ n ∧ n ≤ 0xFFF) ∨ n ∈ [0x0A0, 0x110, 0x111, 0x148] → s.Gives (.sget f) d (s.reg s.myDie n) 2)))
      ∧ (x.writeSys = false ∨ s.sysPriv s.me = true →
        (x.ro = true ∨ (x.aseq = true ∧ s.cur.xs = true) → s.OnlyAdvances (.sset f))
        ∧ (x.ro = false → x.aseq = false ∨ s.cur.xs = false → s.ready [f.a.toNat] [] = true → (x.far = true → s.drained s.me) →
          let sets := fun (s' : State) => ∃ t, exec (.sset f) s = .next t ∧ s.SameRegs t ∧ s.WentOn t ∧ s'.OnlySeqr t
          let core := s.core s.myCore
          (n = 0x040 → sets (s.setCore s.myCore { core with ckstall := a.getLsbD 0 }))
          ∧ (n = 0x060 → sets (s.setCore s.myCore { core with rnull := (a.setWidth 32).setWidth 64 }))
          ∧ (n = 0x112 → sets (s.setCrew s.me { c with tsel := (a.setWidth 11).setWidth 64 }))
          ∧ (n ∈ [0x110, 0x111, 0x148] → sets (s.setReg s.myDie n a))
          ∧ (0xC00 ≤ n → n ≤ 0xFFF → n % 4 = 0 → sets (s.setReg s.myDie n ((a.setWidth 6).setWidth 64)))
          ∧ (0xC00 ≤ n → n ≤ 0xFFF → n % 4 = 1 → sets (s.setReg s.myDie n a))))

open Sys2Proof Sys2Proof.Machine in
/-- R42, R44, R382, R405, R406, R409, R412, R437, R438: the privileged instructions and the commands on a target. eret
resumes the target at its saved PCs; tlbinv, crsave and crload begin their work as members of a batch; idle waits for the
chip to draw its demand; fill sends a floor. What an ended crew has issued runs on (log entry 47). -/
def Obligations.PrivilegedInstructions : Prop :=
  (∀ (s : State) (f : T32e), s.cur.xs = false → s.sysPriv s.me = true → s.stepping = false →
    let k := targetOf s s.me
    let q := s.crew k
    let a := s.val f.a.toNat
    let b := s.val f.b.toNat
    let halted := q.state = 3 ∨ q.state = 4 ∨ q.state = 5
    let ctr := (s.myCrew.counter f.cc.toNat).join
    let member : Option Member := some ⟨s.me, f.cc.toNat, ctr.batch.id⟩
    let free := (s.myCrew.counter f.cc.toNat).blocked = false
    let went := fun (t : State) => s.SameRegs t ∧ s.WentOn t
    (halted → q.latch = none → k ≠ s.me → (q.lq.map (·.1)).Nodup →
      ∃ t, exec .eret s = .next t ∧ went t ∧ s.KeepsBytes t [] ∧ (t.crew k).state = 1 ∧ (t.crew k).stop = .none
        ∧ (t.crew k).viq = q.viq.map (fun e => { e with held := false, goal := 0 })
        ∧ (t.crew k).gang = q.gang.filter (fun g => g.pc == q.trap.epca)
        ∧ (t.crew k).a = { q.a with run := .running, pc := q.trap.epca, wait := none, taken := true, elig := false, lines := [] }
        ∧ (t.crew k).x = { q.x with run := .running, pc := q.trap.epcx, wait := none, taken := true, elig := false, lines := [] }
        ∧ ∀ n, (t.crew k).lqAt n = (q.lqAt n).filter (fun x => !x.marker))
    ∧ (¬halted → s.Raises .eret { code := 33, reason := 1 } s.seqr.pc)
    ∧ (halted → q.latch.isSome = true → s.Raises .eret { code := 33, reason := 7 } s.seqr.pc)
    ∧ (∀ kind, f.imm.toNat = kind → kind ≤ 2 → s.drained s.me → free →
        s.ready (if kind = 0 then [f.a.toNat, f.b.toNat] else if kind = 1 then [f.b.toNat] else []) [] = true →
        (kind = 0 → invAddr s a.toNat = none) →
        ∃ t x, exec (.tlbinv f) s = .next t ∧ went t ∧ s.KeepsBytes t [] ∧ t.invs = s.invs ++ [x] ∧ x.kind = kind
          ∧ (kind ≠ 2 → x.ctx = b.toNat % 2 ^ 8) ∧ (kind = 0 → x.va = a.toNat % 2 ^ 51) ∧ x.pdie = s.myDie ∧ x.member = member
          ∧ (∀ d ∈ scopeDies s s.myDie f.scope.toNat, d ∈ x.targets) ∧ t.myCrew.counter f.cc.toNat = ctr)
    ∧ (let tiles := f.imm.getLsbD 0
      let starts := fun (i : Instr) (load : Bool) => ∃ t, exec i s = .next t ∧ went t ∧ s.KeepsBytes t []
        ∧ t.saves.find? (fun e => e.1 == k)
            = some (k, ⟨load, a, if tiles then some b else none, s.myCrew.ctx, s.myDie, member, s.jseq⟩)
        ∧ t.myCrew.counter f.cc.toNat = ctr
      q.latch = none → free → (∀ e ∈ s.saves, e.1 ≠ k) →
      s.ready (if tiles then [f.a.toNat, f.b.toNat] else [f.a.toNat]) [] = true →
      (halted → (saveAddr s .write a 4096 (areaBytes (s.core (k / 4)).q (heldRange s k).g q.asked)).1 = .ok () →
        (tiles = true → (saveAddr s .write b 64 (64 + 67584 * (crewTiles s k).length)).1 = .ok ()) → starts (.crsave f) false)
      ∧ (q.state = 0 → (saveAddr s .read a 4096 64).1 = .ok () → (tiles = true → (saveAddr s .read b 64 64).1 = .ok ()) →
        starts (.crload f) true))
    ∧ (s.ready [f.a.toNat] [f.d.toNat] = true → let chip := s.me / 2048
      ∃ t, exec (.fill f) s = .next t ∧ s.Sets t f.d.toNat ⟨BitVec.ofNat 64 (min a.toNat 3600), false⟩ ∧ s.WentOn t
        ∧ (s.setChip chip { s.chip chip with floors := (s.chip chip).floors ++ [min a.toNat 3600] }).OnlySeqr t)
    ∧ (let p := s.reg (8 * (s.me / 2048)) 0x144
      (p.extractLsb' 24 24 = 0 → p.getLsbD 48 = false → s.OnlyAdvances .idle)
      ∧ (p.extractLsb' 24 24 ≠ 0 ∨ p.getLsbD 48 = true → s.myCrew.stop = .none →
        exec .idle s = .next (s.setSeqr { s.seqr with wait := some .idle }))))
  ∧ (∀ (s : State) (f : T32e), ∀ i ∈ [Instr.eret, .idle, .tlbinv f, .crsave f, .crload f, .fill f],
      (s.cur.xs = true → s.Raises i { code := 2 } s.seqr.pc)
      ∧ (s.cur.xs = false → s.sysPriv s.me = false → s.Raises i { code := 4 } s.seqr.pc))
  ∧ ∀ (s : State) (k : Nat) (v : Word), let c := s.crew k
    ((c.state = 1 → c.stop = .none →
        ∃ t, exec (.tctlPreempt k) s = .next t ∧ t.crew k = { c with state := 2, stop := .preempt } ∧ s.KeepsBytes t [])
    ∧ (c.state ≠ 0 → c.state ≠ 6 → ∃ t, exec (.tctlEnd k) s = .next t ∧ (t.crew k).state = 6 ∧ (t.crew k).a.run = .exited
        ∧ (t.crew k).x.run = .exited ∧ (t.crew k).viq = [] ∧ (t.crew k).lq = [] ∧ (t.crew k).cq = [] ∧ (t.crew k).bq = []
        ∧ (c.loads = [] → (t.crew k).sq = [] ∧ (t.crew k).iq = [] ∧ (t.crew k).loads = [])
        ∧ (∀ j ∈ c.loads, j.store = none → j.tok.marker = false → j ∈ (t.crew k).loads) ∧ (t.crew k).wcb = c.wcb ∧ (s.noRing → s.KeepsBytes t []))
    ∧ (c.state = 3 ∨ c.state = 4 ∨ c.state = 5 →
        (∃ t, exec (.targetEpcWrite k false v) s = .next t ∧ t.crew k = { c with trap := { c.trap with epca := v } } ∧ s.KeepsBytes t [])
        ∧ ∃ t, exec (.targetEpcWrite k true v) s = .next t ∧ t.crew k = { c with trap := { c.trap with epcx := v } } ∧ s.KeepsBytes t []))

open Sys2Proof Sys2Proof.Machine in
/-- R398 to R404, R409 to R411: how a crew stops. A trapped crew stops once nothing of it can go on, with its PCs saved,
and its record waits; a slice may be stopped at its limit; records go to the ring in order, with the ring's count; a
pre-empted crew stops with its buffer drained; an ended crew leaves its slot. Where a gang has been stopped, the access
sequencer stands at its mmag (log entry 25). -/
def Obligations.StopsAndRecords : Prop :=
  ∀ (s : State) (k : Nat), let c := s.crew k
    let d := crewDie k
    let apc := (c.gang.map (·.pc)).getD c.a.pc
    let stoppedAt := fun (t : State) => (t.crew k).trap.epca = apc ∧ (t.crew k).trap.epcx = c.x.pc
      ∧ (t.crew k).trap.cause = c.trap.cause ∧ (t.crew k).trap.tval = c.trap.tval
    let flushed := fun (t : State) => (t.crew k).wcb = [] ∧ ∀ p, t.byte p = (s.seen k p).b
    (c.state = 2 → c.stop = .trap → c.a.run ≠ .running → c.x.run ≠ .running → viqStuck s k = true → pushesDone s k = true →
      c.wcb = [] ∨ s.buffers k → ((s.reg d 0x110).extractLsb' 0 6) ≠ 0 →
      let room := (s.die d).traps.length < 64 ∧ ∀ j, crewDie j = d → (s.crew j).latch = none
      ∃ t r, exec (.runOnStop k) s = .next t ∧ (t.crew k).state = 4 ∧ stoppedAt t ∧ flushed t
        ∧ (room → (t.die d).traps = (s.die d).traps ++ [r] ∧ (t.crew k).latch = none)
        ∧ (¬room → (t.die d).traps = (s.die d).traps ∧ (t.crew k).latch = some r) ∧ r.seq = (s.die d).seqno
        ∧ r.words = [placeWord s k, c.trap.cause, c.trap.tval, apc, c.x.pc, c.node, BitVec.ofNat 64 r.seq, 0])
    ∧ (c.state = 2 → c.stop = .trap → c.a.run = .running ∨ c.x.run = .running → c.inside = false → convoyOpen s k = false →
      ∃ t, exec (.runOnLimit k) s = .next t ∧ (t.crew k).a = { c.a with run := if c.a.run = .running then .halted else c.a.run }
        ∧ (t.crew k).x = { c.x with run := if c.x.run = .running then .halted else c.x.run } ∧ s.KeepsBytes t [])
    ∧ (∀ r rest, (s.die d).traps = r :: rest → r.words.length = 8 →
      let n := ((s.reg d 0x110).extractLsb' 0 6).toNat
      let base := ringBase d (s.reg d 0x110)
      let wr := s.num base 8
      let dst := base + 64 + 64 * (wr % n)
      0 < n → wr - s.num (base + 8) 8 < n → s.num (base + 8) 8 ≤ wr → s.unheld (ringBytes base n wr) = true →
      ∃ t, exec (.trapRecordWrite d) s = .next t ∧ (t.die d).traps = rest
        ∧ (∀ i, i < 8 → t.num (dst + 8 * i) 8 = ((r.words)[i]?.map (·.toNat)).getD 0)
        ∧ t.num base 8 = (wr + 1) % 2 ^ 64
        ∧ s.KeepsBytes t ((List.range 64).map (dst + ·) ++ (List.range 8).map (base + ·)))
    ∧ (∀ r, c.latch = some r → (s.die d).traps.length < 64 → k ∈ s.crews.map (·.1) →
      (∀ j, crewDie j = d → j ≠ k → (s.crew j).latch = none) →
      ∃ t, exec (.latchTake d) s = .next t ∧ (t.die d).traps = (s.die d).traps ++ [r] ∧ (t.crew k).latch = none
        ∧ s.KeepsBytes t [])
    ∧ (c.state = 2 → c.stop = .preempt → c.a.run ≠ .running → c.x.run ≠ .running → c.inside = false → viqStuck s k = true →
      pushesDone s k = true → matrixStopped s k = true → c.wcb = [] ∨ s.buffers k →
      (∀ m ∈ (s.core (crewCore k)).mq, m.crew ≠ k) →
      ∃ t, exec (.preemptStop k) s = .next t ∧ (t.crew k).state = 3 ∧ (t.crew k).stop = .none ∧ flushed t
        ∧ (t.crew k).trap.epca = apc ∧ (t.crew k).trap.epcx = c.x.pc
        ∧ (t.crew k).a.pc = (t.crew k).trap.epca ∧ (t.crew k).gang = c.gang
        ∧ (t.crew k).a.regs = c.a.regs ∧ (t.crew k).x.regs = c.x.regs ∧ (t.crew k).lq = c.lq ∧ (t.crew k).viq = c.viq)
    ∧ (c.state = 6 → c.wcb = [] → settled s k = true → c.loads = [] → c.reads = [] → ranOut c = true → c.home = none →
      ∃ t, exec (.crewEndComplete k) s = .next t ∧ t.crew k = { latch := c.latch } ∧ s.KeepsBytes t [])

open Sys2Proof Sys2Proof.Machine in
/-- R347 to R350, R354 to R363: the task graph. tgpost puts a node in the pool with the next generation of the lowest free
slot; tgdone, tghwm and tgwait; a ready node is dispatched, its crews are placed and start, and a crew whose streams have
ended and that owes nothing leaves its slot. What a wait keeps, when a producer counts as placed, which slots a group can
take, and that a token of an X queue is named before one of an A queue, with its stream, are the model's reading (log
entries 41, 42, 43 and 46). -/
def Obligations.TaskGraph : Prop :=
  (∀ (s : State) (f : T32e), s.cur.xs = false → s.stepping = false →
    let a := (s.val f.a.toNat).toNat
    let d := f.d.toNat
    let went := fun (t : State) => s.SameRegs t ∧ s.WentOn t
    (∀ pl words, s.ready [f.a.toNat] [d] = true → s.drained s.me → ownScratchpad s.me a = true → a % 64 = 0 →
      crewCheck s s.me false a 256 = .ok pl → (s.core s.myCore).owner = some s.myCrew.ctx →
      let base := 2 ^ 45 + s.myCore * 2 ^ 20 + a % 2 ^ 20
      let ps := (List.range 256).map (base + ·)
      s.lets s.me 0 ps = true → s.anyBad ps = false → (∀ p ∈ ps, (s.seen s.me p).p = false) →
      words = (List.range 32).map (fun i =>
        BitVec.ofNat 64 (leNat ((List.range 8).map (fun j => (s.seen s.me (base + (8 * i + j))).b)))) →
      let r := resolveRegions s.myDie words
      let ctx := if recCtxen r then recCtx r else s.myCrew.ctx
      (ctx ≠ s.myCrew.ctx → s.sysPriv s.me = true) → recReason s s.myDie ctx r = none → poolRoom s s.myDie ctx = true →
      (f.imm.getLsbD 0 = true → (s.myCrew.counter f.cc.toNat).blocked = false) →
      (∃ t h slot node, exec (.tgpost f) s = .next t ∧ s.Sets t d ⟨BitVec.ofNat 64 h, false⟩ ∧ s.WentOn t ∧ s.KeepsBytes t []
        ∧ (slot, node) ∈ (t.die s.myDie).pool ∧ slot < 1024 ∧ (∀ e ∈ (s.die s.myDie).pool, e.1 ≠ slot)
        ∧ h = (get 0 (s.die s.myDie).gens slot % 63 + 1) * 2 ^ 10 + slot
        ∧ node.handle = h ∧ node.words = r ∧ node.ctx = ctx ∧ node.phase = 0 ∧ node.level = recPrio r
        ∧ node.member = s.memberFor (f.imm.getLsbD 0) f.cc.toNat)
      ∧ ∀ s₀, s₀.RunsAgain s.me false (.tgpost f) s → exec (.nodePost s.me) s₀ = exec (.tgpost f) s)
    ∧ (s.myCrew.done = true → s.OnlyAdvances (.tgdone f))
    ∧ (s.myCrew.done = false → s.drained s.me → ∃ t, exec (.tgdone f) s = .next t ∧ went t ∧ t.myCrew.done = true
        ∧ (s.myCrew.home.isSome = true → writesLeft s s.me s.jseq = true → t.myCrew.doneAt = some s.jseq ∧ t.dies = s.dies))
    ∧ (s.ready [f.a.toNat] [] = true → s.drained s.me → ∃ t, exec (.tghwm f) s = .next t ∧ went t
        ∧ s.OnlyCrew t { s.myCrew with hwm := BitVec.ofNat 64 (max s.myCrew.hwm.toNat a) })
    ∧ (s.ready [f.a.toNat] [d] = true →
      (∀ st, st ≤ 2 → s.myCrew.await = some (a % 2 ^ 16, some st) → ∃ t, exec (.tgwait f) s = .next t
        ∧ s.Sets t d ⟨BitVec.ofNat 64 st, false⟩ ∧ s.WentOn t ∧ s.OnlyCrew t { s.myCrew with await := none })
      ∧ (s.myCrew.await = none → (∀ e ∈ (s.die s.myDie).pool, e.2.handle ≠ a % 2 ^ 16) → ∃ t, exec (.tgwait f) s = .next t
        ∧ s.Sets t d ⟨3, false⟩ ∧ s.WentOn t ∧ s.OnlyCrew t s.myCrew)
      ∧ (∀ n, s.myCrew.await = none → liveNode s s.myDie (a % 2 ^ 16) = some n → n.2.ctx = s.myCrew.ctx → s.myCrew.stop = .none →
        ∃ t, exec (.tgwait f) s = .next t ∧ t.seqr.wait = some (.tgwait f) ∧ t.seqr.pc = s.seqr.pc
          ∧ t.myCrew.await = some (a % 2 ^ 16, none))))
  ∧ (∀ (s : State) (die core : Nat) (n : Node),
      let pool := (s.die die).pool.map (fun e => if e.2.handle = n.handle then (e.1, { e.2 with phase := 1 }) else e)
      (s.chip (dieChip die)).tripped = false →
      (readyNodes s die 0 = [n] → recType n.words = 0 →
        (findPlacement (s.modNode (die, n.handle) (fun x => { x with phase := 1 })) die n).isSome = true →
        ∃ t, exec (.nodeDispatch die 0 core) s = .next t ∧ (t.die die).pool = pool ∧ t.crews = s.crews ∧ s.KeepsBytes t [])
      ∧ (readyNodes s die 1 = [n] → recType n.words = 1 → coreDie core = die → partitionHas s n.ctx core = true →
        copyRoom s core = true →
        ∃ t j, exec (.nodeDispatch die 1 core) s = .next t ∧ (t.die die).pool = pool
          ∧ (t.core core).jobs = (s.core core).jobs ++ [j] ∧ j.card = (n.words.drop 20).take 8 ∧ j.node = some (die, n.handle)
          ∧ t.crews = s.crews ∧ s.KeepsBytes t []))
  ∧ (∀ (s : State) (die slot k : Nat) (n : Node), (s.die die).pool = [(slot, n)] → recType n.words = 0 → n.phase = 1 →
      n.halted = false → groupSize n.words = 1 → n.placed.length < widCount n.words →
      let w := widOf n.words n.placed.length
      groupFits s die n n.placed [(w, k)] s = true → (s.core (crewCore k)).node = some (die, n.handle) →
      (s.core (crewCore k)).owner = some n.ctx →
      ∃ t, exec (.crewPlacement die slot [k]) s = .next t ∧ s.KeepsBytes t []
        ∧ (t.crew k).state = 1 ∧ (t.crew k).ctx = n.ctx ∧ (t.crew k).wid = w ∧ (t.crew k).home = some (die, n.handle)
        ∧ (t.crew k).a.pc = n.words.getD 20 0 ∧ (t.crew k).x.pc = n.words.getD 21 0 ∧ (t.crew k).a.regs = []
        ∧ (t.crew k).x.regs = [] ∧ (t.crew k).narg = n.words.getD 31 0 ∧ (t.crew k).a.run = .off
        ∧ (t.die die).pool = [(slot, { n with placed := n.placed ++ [(w, k)] })])
  ∧ ∀ (s : State) (k : Nat), let c := s.crew k
    (c.state = 1 → c.a.run = .off → c.x.run = .off → (s.chip (crewChip k)).tripped = false →
      ∃ t, exec (.crewStart k) s = .next t ∧ s.KeepsBytes t []
        ∧ t.crew k = { c with a := { c.a with run := .running }, x := { c.x with run := .running } })
    ∧ (∀ n v p w, c.prod = some (p, w) → findNode s p = some n → n.frozen.find? (fun e => e.1 == w) = some v →
      ∃ t, exec (.highWaterArrive k) s = .next t ∧ s.KeepsBytes t []
        ∧ t.crew k = { c with chain := { c.chain with hwm := v.2, fin := true } })
    ∧ (c.state = 1 → c.a.run = .exited → c.x.run = .exited → residue c true = none → residue c false = none →
      quiet s k = true → c.home = none → ∃ t, exec (.crewRetire k) s = .next t ∧ t.crew k = { latch := c.latch } ∧ s.KeepsBytes t [])
    ∧ ∀ xs q, c.state = 1 → c.a.run = .exited → c.x.run = .exited → (xs = false → residue c true = none) → residue c xs = some q →
      ∃ t, exec (.crewRetire k) s = .next t ∧ (t.crew k).stop = .trap ∧ (t.crew k).a.run = .halted ∧ (t.crew k).x.run = .halted
        ∧ (c.stop ≠ .trap → (t.crew k).trap.cause = ({ code := 11, reason := 3, queue := q } : Trap).word xs) ∧ s.KeepsBytes t []

open Sys2Proof Sys2Proof.Machine in
/-- R278, R291, R300, R305, R336, R373, R387, R389, R390, R404, R426, R430, R441: writes of the tables of a die, each with
what it clears or keeps, and reads that clear. A write of the lane partition or of a partition entry is applied whole or
not at all. The clock that a read of the seconds samples, and that a lane group in use is one that a crew holds, are the
model's reading (log entries 57 and 73). -/
def Obligations.TableWrites : Prop :=
  ∀ (s : State) (d : Nat) (v : Word),
    let word := fun (w : Word) (p : Nat → Prop) (x : Nat → Bool) (o : Word) => ∀ i, i < 64 →
      (p i → w.getLsbD i = x i) ∧ (¬p i → w.getLsbD i = o.getLsbD i)
    let onlyDie := fun (t : State) => t.crews = s.crews ∧ t.cores = s.cores ∧ s.KeepsBytes t [] ∧ ∀ e, e ≠ d → t.die e = s.die e
    (let sh := fun (i : Nat) => (⟨(v.extractLsb' (8 * i) 3).toNat, (v.extractLsb' (8 * i + 3) 4).toNat⟩ : Share)
      let ok := ∀ i, i < 4 → (occupied s (4 * d + i) = true → (sh i).g ≠ 0) ∧ (occupied s (4 * d + i) = false → sh i = ⟨0, 0⟩)
        ∧ (sh i).b + (sh i).g ≤ 8 ∧ ∀ j m, j < 8 → m < 4 → m ≠ i → (sh i).b ≤ j → j < (sh i).b + (sh i).g →
          ¬((sh m).b ≤ j ∧ j < (sh m).b + (sh m).g) ∧ holds s (4 * d + m) j = false
      (ok → ∃ t, exec (.lpartWrite d v) s = .next t ∧ (∀ i, i < 4 → t.shareOf (4 * d + i) = sh i) ∧ t.crews = s.crews
        ∧ s.KeepsBytes t [])
      ∧ (¬ok → exec (.lpartWrite d v) s = .next s))
    ∧ (∀ p, p < 16 →
      let old := s.reg d (0xB00 + p)
      let ok := (∀ q, q < 16 → q ≠ p → v.getLsbD 0 = true → (s.reg d (0xB00 + q)).getLsbD 0 = true →
          ∀ i, 1 ≤ i → i < 17 → ¬(v.getLsbD i = true ∧ (s.reg d (0xB00 + q)).getLsbD i = true))
        ∧ ∀ cl, cl < 2 → old.getLsbD 0 = true → old.getLsbD (1 + 2 * (d % 8) + cl) = true → clusterBusy s d p cl = true →
          v.getLsbD 0 = true ∧ v.getLsbD (1 + 2 * (d % 8) + cl) = true
      (ok → ∃ t, exec (.partitionTableWrite d p v) s = .next t ∧ t.reg d (0xB00 + p) = (v.setWidth 17).setWidth 64 ∧ onlyDie t)
      ∧ (¬ok → exec (.partitionTableWrite d p v) s = .next s))
    ∧ (∀ n, n < 64 →
      (∃ t, exec (.groupEntryWrite d n v) s = .next t ∧ t.reg d (0x800 + 8 * n) = (v.setWidth 9).setWidth 64
        ∧ get 0 (t.die d).cseq n = 0 ∧ onlyDie t)
      ∧ (∃ t, exec (.publicationEntryWrite d n v) s = .next t ∧ t.reg d (0xA00 + 2 * n + 1) = 0 ∧ onlyDie t
        ∧ word (t.reg d (0xA00 + 2 * n)) (fun i => i < 15 ∨ (16 ≤ i ∧ i < 48)) v.getLsbD 0)
      ∧ (∃ t, exec (.subscriptionEntryWrite d n v) s = .next t
        ∧ word (t.reg d (0x600 + 4 * n)) (fun i => i < 23 ∨ i = 23)
            (fun i => if i = 23 then v.getLsbD 0 && pathDown s d (v.extractLsb' 9 8).toNat else v.getLsbD i) 0
        ∧ t.reg d (0x600 + 4 * n + 3) = 0 ∧ onlyDie t))
    ∧ (∀ q, q < 512 → ∃ t, exec (.qpEntryWrite d q v) s = .next t ∧ onlyDie t ∧ (∀ e ∈ (t.die d).msgs, e.1 ≠ q)
        ∧ word (t.reg d (0x2000 + 4 * q)) (fun i => i < 14 ∧ i ≠ 10) v.getLsbD 0)
    ∧ (∀ n, n < 1024 →
      (∃ t, exec (.keyEntryWrite d (4 * n) v) s = .next t ∧ onlyDie t ∧ word (t.reg d (0x1000 + 4 * n)) (fun i => ¬(40 ≤ i ∧ i < 56))
        (fun i => decide (i < 34) && v.getLsbD i) (s.reg d (0x1000 + 4 * n)))
      ∧ (∃ t, exec (.keyEntryWrite d (4 * n + 1) v) s = .next t ∧ onlyDie t ∧ t.reg d (0x1000 + 4 * n + 1) = v)
      ∧ ∃ t, exec (.keyEntryWrite d (4 * n + 2) v) s = .next t ∧ onlyDie t ∧ t.reg d (0x1000 + 4 * n + 2) = (v.setWidth 48).setWidth 64)
    ∧ (∀ peer, peer < 256 → ∃ t, exec (.routeEntryWrite d peer v) s = .next t ∧ t.crews = s.crews ∧ s.KeepsBytes t []
        ∧ word (t.reg d (0x500 + peer)) (fun i => i = 14 ∨ (16 ≤ i ∧ i < 48))
          (fun i => if i = 14 then v.getLsbD 14 && decide (peer ≠ d) else v.getLsbD i) (s.reg d (0x500 + peer)))
    ∧ (∃ t, exec (.sysTdropRead d) s = .next t ∧ t.reg d 0x115 = 0 ∧ onlyDie t)
    ∧ (∃ t, exec (.sysCfailRead d) s = .next t ∧ t.crew d = { s.crew d with cfail := 0 } ∧ t.dies = s.dies ∧ s.KeepsBytes t [])
    ∧ (∃ t, exec (.droopCounterRead d) s = .next t ∧ onlyDie t
        ∧ word (t.reg d 0x141) (fun i => 16 ≤ i) (fun _ => false) (s.reg d 0x141))
    ∧ (∀ p, (d % 8 = 0 ∨ d % 8 = 7) → p < 2 → ∃ t, exec (.portDropsRead d p) s = .next t ∧ t.reg d (0x2800 + 16 * p + 3) = 0
        ∧ onlyDie t)
    ∧ ∃ t n, exec (.ptpSecondsRead d) s = .next t ∧ (s.chip d).clock ≤ n ∧ (t.chip d).clock = n
        ∧ t.reg (8 * d) 0x146 = BitVec.ofNat 64 (n % 1000000000) ∧ t.crews = s.crews ∧ s.KeepsBytes t []

open Sys2Proof Sys2Proof.Machine in
/-- R377 to R382: a page walk reads one entry of each level's table and finds the leaf of its page; a walk that completes
puts the leaf in the last-level TLB, from which the oldest of 2,048 entries leaves (log entry 87); an invalidation drops
the entries it names at each of its target dies, and fails with DARKPATH at one that a dark path cuts off (log entry 49).
-/
def Obligations.TranslationSteps : Prop :=
  (∀ (s : State) (d ctx va lev : Nat) (e : Nat → Word), va < 2 ^ 51 → 1 ≤ lev → lev ≤ 3 →
    let root := s.reg d (0xC01 + 4 * ctx)
    let index := fun (l : Nat) => if l = 0 then va / 2 ^ 39 % 2 ^ 12 else if l = 1 then va / 2 ^ 30 % 2 ^ 9
      else if l = 2 then va / 2 ^ 21 % 2 ^ 9 else va / 2 ^ 16 % 2 ^ 5
    let table := fun (l : Nat) => if l = 0 then root.toNat else ((e (l - 1)).extractLsb' 8 44).toNat * 2 ^ 8
    let p := fun (l : Nat) => d * 2 ^ 37 + (table l + 8 * index l) % 2 ^ 37
    let page : TlbEntry := ⟨ctx, lev, va / (if lev = 1 then 2 ^ 30 else if lev = 2 then 2 ^ 21 else 2 ^ 16), e lev⟩
    (s.reg d (0xC00 + 4 * ctx)).getLsbD 0 = true → (∀ l, l ≤ lev → s.num (p l) 8 = (e l).toNat
      ∧ s.clear [p l, p l + 4] = true
      ∧ get false s.poison (p l / 8) = false ∧ get false s.bad (p l / 8) = false) →
    (∀ l, l < lev → (e l).extractLsb' 0 8 = 1 ∧ (e l).extractLsb' 52 12 = 0) → (e lev).extractLsb' 0 2 = 3 →
    (leafMalformed lev (e lev).toNat va = true → (walk s d ctx va).res = .error ⟨17, 0⟩)
      ∧ (leafMalformed lev (e lev).toNat va = false → (walk s d ctx va).res = .ok page
        ∧ (∀ i, page ∉ (s.die d).tlb → (s.die d).walks[i]? = some ⟨ctx, va⟩ →
          ∃ t, exec (.pageWalkComplete d i) s = .next t ∧ (t.die d).tlb = (page :: (s.die d).tlb).take 2048
            ∧ (t.die d).walks = (s.die d).walks.eraseIdx i
            ∧ (t.die d).misses = (s.die d).misses.filter (fun m => !page.hits m.ctx m.va)
            ∧ t.crews = s.crews ∧ s.KeepsBytes t [])))
  ∧ (∀ (s : State) (d ctx va : Nat), (s.reg d (0xC00 + 4 * ctx)).getLsbD 0 = false → (walk s d ctx va).res = .error ⟨16, 0⟩)
  ∧ (∀ (s : State) (d ctx va : Nat), va < 2 ^ 51 → ctx < 256 → (∀ e ∈ (s.die d).tlb, e.hits ctx va = false) →
    (s.die d).walks.length < 256 → (s.die d).misses = [] ∨ (s.die d).misses.head? = some ⟨ctx, va⟩ →
    (∀ w ∈ (s.die d).walks, ¬(w.ctx = ctx ∧ w.va / 2 ^ 16 = va / 2 ^ 16)) →
    ∃ t, exec (.pageWalkStart d ctx va) s = .next t ∧ (t.die d).walks = (s.die d).walks ++ [⟨ctx, va⟩]
      ∧ (t.die d).misses = (s.die d).misses.tail ∧ t.crews = s.crews ∧ s.KeepsBytes t [])
  ∧ ∀ (s : State) (i d : Nat) (x : Inv), s.invs[i]? = some x → d ∈ x.targets →
    let acks := fun (t : State) (y : Inv) => (y.fail = none ∨ s.noRing → s.KeepsBytes t [])
      ∧ ((∃ e ∈ x.targets, e ≠ d) → t.invs = s.invs.set i { y with targets := x.targets.filter (fun e => e != d) })
      ∧ ((∀ e ∈ x.targets, e = d) → t.invs = s.invs.eraseIdx i ∧ ∀ m, x.member = some m →
          (t.crew m.crew).counter m.cc = ((s.crew m.crew).counter m.cc).memberDone m.id y.fail)
    (pathDown s x.pdie d = false → linkOpen s x.pdie d = true → (∀ e ∈ x.dropped, e.1 ≠ d) →
      let es := ((s.die d).tlb ++ (s.cores.filter (fun c => coreDie c.1 == d)).flatMap (·.2.l1)).filter (x.hits d)
      ∃ t, exec (.tlbinvTargetDrop i d) s = .next t
        ∧ (t.die d).tlb = (s.die d).tlb.filter (fun e => !(match x.kind with
            | 0 => d == x.home && (e.ctx == x.ctx && e.page == x.va / 2 ^ leafShift e.lev)
            | 1 => e.ctx == x.ctx
            | _ => true))
        ∧ (∀ n e, coreDie n = d → e ∈ (t.core n).l1 → e ∈ (s.core n).l1 ∧ x.hits d e = false)
        ∧ (stillUsed s d es = false → acks t x)
        ∧ (stillUsed s d es = true → t.invs = s.invs.set i { x with dropped := ins x.dropped d es } ∧ s.KeepsBytes t []))
    ∧ (∀ e es, pathDown s x.pdie d = false → linkOpen s x.pdie d = true → x.dropped.find? (fun e => e.1 == d) = some (e, es) →
        stillUsed s d es = false →
        ∃ t, exec (.tlbinvTargetDrop i d) s = .next t ∧ acks t { x with dropped := del x.dropped d })
    ∧ (pathDown s x.pdie d = true → ∃ t, exec (.tlbinvTargetDrop i d) s = .next t
        ∧ acks t { x with dropped := del x.dropped d, fail := if x.fail = none then some 22 else x.fail })

open Sys2Proof Sys2Proof.Machine in
/-- R412 to R417: a save writes the header, the trap registers, the masks and the vector registers of R415 in its area and
frees the slot; a load puts the header's fields, the trap registers and the masks in an empty slot; a partition swap is
refused with its reason, or runs and ends with the cores' images held under its tag. The parts of the area without a
stated layout, the storage class that the area gives, what a load checks of reserved bits, and the order of a swap's
refusals are the model's choice (log entries 8, 50, 51 and 52). -/
def Obligations.SavesLoadsSwaps : Prop :=
  (∀ (s : State) (k : Nat) (j : SaveJob) (ps : List Nat), s.saves.find? (fun e => e.1 == k) = some (k, j) →
    (s.saves.map (·.1)).Nodup →
    let c := s.crew k
    (j.load = false → quiet s k = true → divided s k = true → j.tiles = none → ps.Nodup →
      let core := s.core (k / 4)
      let h := heldRange s k
      let n := 24576 + 2176 * core.q + 18432 * h.g * (1 + c.asked)
      ps.length = n → jobRange s j .write j.area n = (.ok ps, s) →
      ∃ t, exec (.contextSaveWrite k) s = .next t ∧ (t.crew k).state = 0 ∧ (∀ e ∈ t.saves, e.1 ≠ k)
        ∧ (let num := fun o i => leNat ((List.range i).map (fun x => t.byte (ps.getD (o + x) 0)))
          num 0 4 = 1 ∧ num 4 4 = n % 2 ^ 32 ∧ num 8 8 = c.ctx % 2 ^ 64 ∧ num 16 8 = (placeWord s k).toNat ∧ num 24 8 = c.node.toNat
          ∧ num 32 8 = c.wid.toNat ∧ num 64 8 = c.trap.cause.toNat ∧ num 80 8 = c.trap.tval.toNat ∧ num 88 8 = c.trap.epca.toNat
          ∧ num 96 8 = c.trap.epcx.toNat
          ∧ (∀ i, i < 16384 → t.byte (ps.getD (8192 + i) 0) = (get 0 c.masks (i / 2048)).extractLsb' (8 * (i % 2048)) 8)
          ∧ (SMap.wf {} core.vregs = true → ∀ r l b, r < 64 → l < 8 * h.g → b < 32 * (1 + c.asked) →
              t.byte (ps.getD (24576 + 2176 * core.q + (8 * h.g * r + l) * (32 * (1 + c.asked)) + b) 0)
                = (get {} core.vregs (vkey r (8 * h.b + l) b)).b))
        ∧ s.KeepsBytes t ps)
    ∧ (∀ hp, j.load = true → j.tiles = none → jobRange s j .read j.area 64 = (.ok hp, s) → s.anyBad hp = false →
      areaBad (hp.map s.vbyte) = false → jobRange s j .read j.area (areaNum (hp.map s.vbyte) 4 4) = (.ok ps, s) →
      s.anyBad ps = false → (∀ p ∈ ps, (s.vbyte p).p = false) → loadReason s k (ps.map s.vbyte) [] = none →
      let num := fun o i => areaNum (ps.map s.vbyte) o i
      ∃ t, exec (.contextLoadComplete k) s = .next t ∧ (t.crew k).state = 5 ∧ (∀ e ∈ t.saves, e.1 ≠ k)
        ∧ (t.crew k).ctx = num 8 8 ∧ (t.crew k).node.toNat = num 24 8 % 2 ^ 64 ∧ (t.crew k).wid.toNat = num 32 8 % 2 ^ 64
        ∧ (t.crew k).trap.cause = BitVec.ofNat 64 (num 64 8) ∧ (t.crew k).trap.epca = BitVec.ofNat 64 (num 88 8)
        ∧ (t.crew k).trap.epcx = BitVec.ofNat 64 (num 96 8)
        ∧ ∀ m, m < 8 → get 0 (t.crew k).masks m = BitVec.ofNat 16384 (num (0x2000 + 2048 * m) 2048)))
  ∧ ∀ (s : State) (d p : Nat), p < 16 →
    let cores := partCores s d p
    let st := fun (t : State) => ((t.reg d 0x138).extractLsb' 6 3).toNat
    let rsv := ((s.reg d 0x138).extractLsb' 10 6).toNat
    let halted := ∀ n ∈ cores, coreHalted s n = true
    let fits := shadowUsed s d + (cores.map (fun n => imageKib (s.core n))).sum ≤ 1024 * rsv
    let goes := fun (x : Nat) (swap : Option Nat) => ∃ t, exec (.pswapGo d p) s = .next t ∧ st t = x ∧ (t.die d).swap = swap
      ∧ t.crews = s.crews ∧ s.KeepsBytes t []
    ((s.die d).swap = none →
      (¬halted → goes 3 none) ∧ (halted → rsv = 0 → goes 5 none) ∧ (halted → 0 < rsv → ¬fits → goes 4 none)
      ∧ (halted → 0 < rsv → fits → goes 1 (some p))
      ∧ ∃ t, exec (.pswapClear d p) s = .next t ∧ get [] (t.die d).shadow p = [] ∧ t.crews = s.crews ∧ s.KeepsBytes t [])
    ∧ ((s.die d).swap = some p → get [] (s.die d).shadow p = [] → cores ≠ [] →
      (∀ n ∈ cores, ∀ k ∈ coreCrews n, pushesDone s k = true ∧ (s.crew k).reads = [] ∧ divided s k = true ∧ (s.crew k).wcb = []) →
      ∃ t, exec (.pswapDone d) s = .next t ∧ st t = 2 ∧ (t.die d).swap = none ∧ s.KeepsBytes t []
        ∧ get [] (t.die d).shadow p = cores.map (coreImage s)
        ∧ ∀ n ∈ cores, ∀ k ∈ coreCrews n, t.crew k = { latch := (s.crew k).latch })

open Sys2Proof Sys2Proof.Machine in
/-- R278, R423 to R427: the training of a path, and the phases of a circuit change from its request to the next network
version. A chip that has not booted trains no path (R394). When a path trains, what the losing chips show and a request
that is lost during the training after a time-out are the model's reading (log entries 66 and 67). -/
def Obligations.NetworkChanges : Prop :=
  ∀ (s : State) (c : Nat), let chip := s.chip c
    let d := 8 * c
    let st := fun (t : State) => ((t.reg d 0x132).extractLsb' 0 3).toNat
    let quiet := chip.change = none ∧ s.noRing
    (∀ die peer flight lanes ident, die ≠ peer → die < 256 → peer < 256 → lanes ≤ (if die / 8 = peer / 8 then 8 else 1) →
      mayTrain s die peer = true → (s.chip (die / 8)).booted = true → flight < 2 ^ 8 → s.noRing →
      let w := fun (t : State) => t.reg die (0x500 + peer)
      let mism := ident % 2 ^ 32 ≠ ((w s).extractLsb' 16 32).toNat
      ∃ t, exec (.linkTrainingComplete die peer flight lanes ident) s = .next t ∧ ((w t).extractLsb' 0 8).toNat = flight
        ∧ ((w t).extractLsb' 8 4).toNat = lanes ∧ ((w t).getLsbD 13 = true ↔ mism) ∧ ((w t).getLsbD 12 = true ↔ mism ∨ lanes = 0)
        ∧ (w t).extractLsb' 14 34 = (w s).extractLsb' 14 34 ∧ s.KeepsBytes t []
        ∧ (¬mism ∧ lanes ≠ 0 ∨ s.colls = [] → t.crews = s.crews)
        ∧ (mism ∨ lanes = 0 → ∀ n, n < 64 → (s.reg die (0x600 + 4 * n)).getLsbD 0 = true →
            wfield (s.reg die (0x600 + 4 * n)) 9 8 = peer → (t.reg die (0x600 + 4 * n)).getLsbD 23 = true))
    ∧ (∀ die peer flight lanes ident, (s.chip (die / 8)).booted = false →
      exec (.linkTrainingComplete die peer flight lanes ident) s = .next s)
    ∧ (∀ k v ps, k / 2048 = c → k / 256 % 8 = 0 → chip.change = none → chip.phase = 0 → st s = 0 ∨ 4 < st s →
      ownSpad s k v.toNat 64 1 = some ps → s.anyBad ps = false →
      ∃ t sig, exec (.circuitChangeRequest k v) s = .next t ∧ (t.chip c).change = some (k, sig)
        ∧ sig.toNat = leNat (((ps.map s.byte).drop 32).take 8) ∧ (t.chip c).request = (ps.map s.byte).take 32 ∧ (t.chip c).phase = 1
        ∧ t.reg d 0x132 = 1 ∧ t.crews = s.crews ∧ s.KeepsBytes t [])
    ∧ (∀ k v, 1 ≤ st s → st s ≤ 4 → k / 2048 = c → exec (.circuitChangeRequest k v) s = .next s)
    ∧ (∀ k v ps qs, chip.change.isSome = true → st s = 7 → k / 2048 = c → k / 256 % 8 = 0 → s.noRing →
      ownSpad s k v.toNat 64 1 = some ps → s.anyBad ps = false →
      ownSpad s k (leNat (((ps.map s.byte).drop 32).take 8)) 4 4 = some qs → s.unheld qs = true →
      ∃ t, exec (.circuitChangeRequest k v) s = .next t ∧ t.chip c = chip ∧ st t = 6 ∧ leNat (qs.map t.byte) = 6 ∧ s.KeepsBytes t qs)
    ∧ (quiet → ∀ ident, chip.phase = 1 → ident < ((s.reg d 0x130).extractLsb' 0 32).toNat →
      ∃ t, exec (.peerChangeRequestReceive c ident) s = .next t ∧ (t.chip c).phase = 0 ∧ st t = 6 ∧ t.crews = s.crews
        ∧ s.KeepsBytes t [])
    ∧ (chip.phase = 1 → s.chips = [(c, chip)] → chip.supplied = true → livePaths s ≠ [] →
      ∃ t, exec (.grantReceive c) s = .next t ∧ (t.chip c).phase = 2 ∧ st t = 2 ∧ t.crews = s.crews ∧ s.KeepsBytes t [])
    ∧ (quiet → chip.phase = 1 → ∃ t, exec (.grantTimeout c) s = .next t ∧ (t.chip c).phase = 0 ∧ st t = 7 ∧ t.crews = s.crews
        ∧ s.KeepsBytes t [])
    ∧ (∀ die peer q r, die / 8 = c → chip.phase = 2 → (die, peer) ∈ livePaths s → (get {} (s.die die).paths peer).unack = [] →
      (get {} (s.die die).paths peer).marker = false → pathBusy s die peer = false → changing s 2 = some q → r ∈ livePaths s →
      r ≠ (die, peer) → (get {} (s.die r.1).paths r.2).marker = false →
      ∃ t, exec (.drainMarkerArrive die peer) s = .next t ∧ (get {} (t.die die).paths peer).marker = true ∧ t.chips = s.chips
        ∧ t.crews = s.crews ∧ s.KeepsBytes t [])
    ∧ (chip.phase = 2 → chip.change.isSome = true → s.chips = [(c, chip)] → chip.supplied = true → livePaths s = [] →
      ∃ t, exec (.drainTimeout c) s = .next t ∧ (t.chip c).phase = 3 ∧ st t = 3 ∧ t.crews = s.crews ∧ s.KeepsBytes t [])
    ∧ (chip.phase = 3 → chip.change.isSome = true → s.chips = [(c, chip)] → chip.supplied = true →
      ∀ e ∈ [(Instr.mirrorNoticeReceive c, 4), (Instr.mirrorTimeout c, 7)], ∃ t, exec e.1 s = .next t ∧ (t.chip c).phase = 4
        ∧ st t = e.2 ∧ ((t.chip c).late = true ↔ e.2 = 7) ∧ t.crews = s.crews ∧ s.KeepsBytes t []
        ∧ ∀ die peer, peer < 256 → peer ≠ die → s.reg die (0x500 + peer) ≠ 0 → (get {} (t.die die).paths peer).retrain = true)
    ∧ (chip.phase = 4 → training s = true → exec (.trainingPhaseEnd c) s = .next s)
    ∧ (chip.phase = 4 → training s = false → chip.change = none →
      ∃ t, exec (.trainingPhaseEnd c) s = .next t ∧ (t.chip c).phase = 0
        ∧ (t.reg d 0x130).extractLsb' 32 16 = (s.reg d 0x130).extractLsb' 32 16 + 1
        ∧ (t.reg d 0x130).extractLsb' 0 32 = (s.reg d 0x130).extractLsb' 0 32 ∧ t.crews = s.crews ∧ s.KeepsBytes t [])
    ∧ (∀ k sig ps, chip.phase = 4 → training s = false → chip.change = some (k, sig) → s.noRing →
      ownSpad s k sig.toNat 4 4 = some ps → s.unheld ps = true →
      ∃ t, exec (.trainingPhaseEnd c) s = .next t ∧ (t.chip c).phase = 0 ∧ (t.chip c).change = none
        ∧ st t = (if chip.late then 7 else 5) ∧ s.KeepsBytes t ps ∧ leNat (ps.map t.byte) = if chip.late then 7 else 5)

open Sys2Proof Sys2Proof.Machine in
/-- R229, R387, R390 to R392, R394: the Ethernet ports. An RDMA request that passes the five steps of R391 is accepted and
moves the expected PSN on; a duplicate write is acknowledged again, a packet ahead of its turn gets a NAK, and one with an
opcode outside the list, or that its key does not permit, puts the queue pair in the error state; a frame outside the list
is dropped and counted, a packet marked by ECN gets a CNP, and while a packet must wait the port asks its peer to pause.
An accepted operation is performed at the homes of its bytes and answered to the peer. The kinds of NAK that the rules
leave to the transport, the order of the replies, what a pause holds back and when one is sent, and the CNP of a packet
that no queue pair takes are the model's choice (log entries 60, 62, 63 and 99). -/
def Obligations.RdmaOperations : Prop :=
  (∀ (s : State) (d q : Nat) (pkt : Rdma) (ps : List Nat), qpOf s d pkt = some q → pkt.ce = false → frameListed pkt.frame = true →
    let w := s.reg d (0x2000 + 4 * q)
    let ctx := (w.extractLsb' 2 8).toNat
    let mtu := qpMtu w
    let key := fun (t : State) => t.reg d (0x1000 + 4 * (pkt.rkey % 1024))
    let exp := fun (t : State) => ((t.reg d (0x2000 + 4 * q + 1)).extractLsb' 24 24).toNat
    let ahead := (pkt.psn % 2 ^ 24 + 2 ^ 24 - exp s) % 2 ^ 24
    let queues := fun (i : Instr) (op : NetOp) (t : State) => exec i s = .next t ∧ (t.die d).netOps = (s.die d).netOps ++ [op]
      ∧ t.crews = s.crews ∧ s.KeepsBytes t []
    let accepts := fun (i : Instr) (op : NetOp) (n : Nat) => ∃ t, queues i op t ∧ exp t = (exp s + n) % 2 ^ 24
      ∧ ((key t).extractLsb' 40 16).toNat = ((key s).extractLsb' 40 16).toNat + 1
    let room := ((key s).extractLsb' 40 16).toNat < 65535
    (pkt.seg ≤ 3 → ahead = 0 →
      let fits := fun (right : Nat) (acc : Acc) (len : Nat) => keyOk s d pkt.rkey ctx right pkt.va len = true
        ∧ netRange d ctx acc (len / 2 ^ 16 + 2) pkt.va len s = (.ok ps, s) ∧ ps.length = len
      (room → pkt.seg = 3 → (∀ e ∈ (s.die d).msgs, e.1 ≠ q) → pkt.data.length = pkt.len → pkt.len ≤ mtu → fits 2 .netWrite pkt.len →
        accepts (.rdmaWrite d pkt) ⟨q, pkt.rkey % 1024, pkt.psn, 0, 0, ps, pkt.data,
          min pkt.len ((pkt.va + pkt.len - 1) / 8 * 8 - pkt.va), 0, 0⟩ 1)
      ∧ (room → fits 1 .netRead pkt.len → accepts (.rdmaReadRequest d pkt) ⟨q, pkt.rkey % 1024, pkt.psn, mtu, 1, ps, [], 0, 0, 0⟩
          (max 1 ((pkt.len + mtu - 1) / mtu)))
      ∧ (¬room → pkt.port ∉ (s.die d).pausing → fits 1 .netRead pkt.len → ∃ t, exec (.rdmaReadRequest d pkt) s = .next t
          ∧ (t.die d).netOps = (s.die d).netOps ∧ exp t = exp s ∧ t.crews = s.crews ∧ s.KeepsBytes t []
          ∧ pkt.port ∈ (t.die d).pausing ∧ (t.die d).replies = (s.die d).replies
            ++ [⟨0, 10, ((s.reg d (0x2800 + 16 * pkt.port)).extractLsb' 2 3).toNat, [1], pkt.port, 0, 0⟩])
      ∧ (room → pkt.va % 8 = 0 → fits 3 .netRmw 8 →
          accepts (.compareAndSwap d pkt) ⟨q, pkt.rkey % 1024, pkt.psn, 0, 3, ps, [], 0, pkt.cmp, pkt.swap⟩ 1
          ∧ accepts (.fetchAndAdd d pkt) ⟨q, pkt.rkey % 1024, pkt.psn, 0, 2, ps, [], 0, pkt.swap, pkt.swap⟩ 1)
      ∧ (keyOk s d pkt.rkey ctx 1 pkt.va pkt.len = false → ∃ t, queues (.rdmaReadRequest d pkt) ⟨q, 0, pkt.psn, 0, 7, [], [], 0, 0, 0⟩ t
          ∧ (t.reg d (0x2000 + 4 * q)).getLsbD 10 = true ∧ exp t = exp s))
    ∧ (3 < pkt.seg → ∃ t, queues (.rdmaWrite d pkt) ⟨q, 0, pkt.psn, 0, 6, [], [], 0, 0, 0⟩ t
        ∧ (t.reg d (0x2000 + 4 * q)).getLsbD 10 = true ∧ exp t = exp s)
    ∧ (pkt.seg ≤ 3 → 2 ^ 23 ≤ ahead → ∃ t, queues (.rdmaWrite d pkt) ⟨q, 0, pkt.psn, 0, 4, [], [], 0, 0, 0⟩ t ∧ exp t = exp s)
    ∧ (pkt.seg ≤ 3 → 0 < ahead → ahead < 2 ^ 23 → ∀ i ∈ [Instr.rdmaWrite d pkt, .rdmaReadRequest d pkt, .compareAndSwap d pkt, .fetchAndAdd d pkt],
        ∃ t, queues i ⟨q, 0, exp s, 0, 5, [], [], 0, 0, 0⟩ t ∧ exp t = exp s))
  ∧ (∀ (s : State) (d : Nat) (pkt : Rdma), portOpen s d pkt.port = true →
      ∀ i ∈ [Instr.rdmaWrite d pkt, .rdmaReadRequest d pkt, .compareAndSwap d pkt, .fetchAndAdd d pkt],
    let drops := fun (t : State) => t.reg d (0x2800 + 16 * pkt.port + 3)
    (frameListed pkt.frame = false → ∃ t, exec i s = .next t ∧ drops t = drops s + 1 ∧ (t.die d).netOps = (s.die d).netOps
        ∧ t.crews = s.crews ∧ s.KeepsBytes t [])
    ∧ (frameListed pkt.frame = true → pkt.ce = true → pkt.port ∉ (s.die d).paused → qpOf s d pkt = none →
        let q := pkt.qpn - 0x100
        ∃ t, exec i s = .next t ∧ (t.die d).netOps = (s.die d).netOps ∧ t.crews = s.crews ∧ s.KeepsBytes t []
          ∧ (t.die d).replies = (s.die d).replies
            ++ [⟨q, 7, pkt.psn, [], pkt.port, pkt.src, ((s.reg d (0x2000 + 4 * q + 1)).extractLsb' 0 24).toNat⟩]))
  ∧ (∀ (s : State) (d : Nat) (op : NetOp) (r : List NetOp), (s.die d).netOps = op :: r →
    s.admitsEngine (netId d) op.bytes = true →
    (∀ p ∈ op.bytes, linkOpen s d (byteDie p) = true) → s.anyBad op.bytes = false → (∀ p ∈ op.bytes, (s.vbyte p).p = false) →
    let old := leNat (op.bytes.map s.byte)
    let runs := fun (t : State) (kind : Nat) (data : List Byte) => exec (.homeAccessPerform (65536 + d)) s = .next t
      ∧ (t.die d).netOps = r ∧ t.crews = s.crews
      ∧ (let w := fun (i : Nat) => s.reg d (0x2000 + 4 * op.qp + i)
        let port := ((w 0).extractLsb' 1 1).toNat
        let reply : Reply := ⟨op.qp, kind, op.psn, data, port, (w 2).toNat + (w 3).toNat * 2 ^ 64, ((w 1).extractLsb' 0 24).toNat⟩
        (port ∉ (s.die d).paused → (t.die d).replies = (s.die d).replies ++ [reply])
          ∧ (port ∈ (s.die d).paused → (t.die d).replies = (s.die d).replies ∧ (t.die d).held = (s.die d).held ++ [reply]))
    let stores := fun (t : State) (v : List Byte) => ∀ p, t.byte p = (lastTo (op.bytes.zip v) p).getD (s.byte p)
    (op.kind = 0 → ∃ t, runs t 0 [] ∧ stores t op.data)
    ∧ (op.kind = 1 → op.bytes.length ≤ op.mtu → 0 < op.mtu → op.psn < 2 ^ 24 →
        ∃ t, runs t 5 (op.bytes.map s.byte) ∧ s.KeepsBytes t [])
    ∧ (op.kind = 2 → op.bytes.length = 8 → ∃ t, runs t 6 (leBytes 8 old) ∧ stores t (leBytes 8 ((old + op.x.toNat) % 2 ^ 64)))
    ∧ (op.kind = 3 → op.bytes.length = 8 → ∃ t, runs t 6 (leBytes 8 old)
        ∧ stores t (leBytes 8 (if old = op.x.toNat then op.new.toNat else old))))
  ∧ ∀ (s : State) (d p : Nat), d % 8 = 0 ∨ d % 8 = 7 → p < 2 →
    let w := fun (t : State) => t.reg d (0x2800 + 16 * p)
    let drops := fun (t : State) => t.reg d (0x2800 + 16 * p + 3)
    let ip := fun (n : Nat) => (s.reg d (0x2800 + 16 * p + 1)).toNat + (s.reg d (0x2800 + 16 * p + 2)).toNat * 2 ^ 64 = n
    let mac := leBytes 6 ((w s).extractLsb' 16 48).toNat
    let replies := fun (i : Instr) (kind : Nat) => ∃ t, exec i s = .next t ∧ t.crews = s.crews ∧ s.KeepsBytes t []
      ∧ (t.die d).replies = (s.die d).replies ++ [⟨p, kind, 0, mac, p, 0, 0⟩]
    ((w s).getLsbD 0 = true → (w s).getLsbD 1 = true →
      (∀ a, a < 2 ^ 32 → ip (0xFFFF * 2 ^ 32 + a) → replies (.arpRequest d p a) 8)
      ∧ (∀ a, ip a → replies (.neighbourSolicitation d p a) 9)
      ∧ (∀ pause, ∃ t, exec (.priorityFlowControlFrame d p ((w s).extractLsb' 2 3).toNat pause) s = .next t
          ∧ (p ∈ (t.die d).paused ↔ pause = true) ∧ t.crews = s.crews ∧ s.KeepsBytes t []
          ∧ (pause = false → ∀ r ∈ (s.die d).held, r.port = p → r ∈ (t.die d).replies))
      ∧ ∃ t, exec (.ethernetFrameDrop d p) s = .next t ∧ drops t = drops s + 1 ∧ t.crews = s.crews ∧ s.KeepsBytes t [])
    ∧ ((s.chip (d / 8)).booted = false → exec (.portLinkTrained d p) s = .next s)
    ∧ ((s.chip (d / 8)).booted = true → ∃ t, exec (.portLinkTrained d p) s = .next t ∧ (w t).getLsbD 0 = true ∧ (w t).extractLsb' 1 63 = (w s).extractLsb' 1 63
        ∧ t.crews = s.crews ∧ s.KeepsBytes t [])
    ∧ ∃ t, exec (.portLinkLoss d p) s = .next t ∧ (w t).getLsbD 0 = false ∧ (w t).extractLsb' 1 63 = (w s).extractLsb' 1 63
        ∧ t.crews = s.crews ∧ s.KeepsBytes t []

open Sys2Proof Sys2Proof.Machine in
/-- R440 to R442: the PTP slave and telemetry. The slave follows the best of the masters that have announced themselves:
the offset of its Sync is arrival less origin less the mean path delay, and sixteen good ones in a row lock the servo;
what another master sends moves nothing, and on chip ports 2 and 3 a message is dropped and counted. A telemetry record is
written once the eight dies have sampled what their sensors can measure. The mean path delay, the name of a master and the
comparison of data sets are the model's choice (log entry 58), as are the clock's values between steps (entry 57). -/
def Obligations.ClockAndTelemetry : Prop :=
  ∀ (s : State) (c : Nat), let chip := s.chip c
    let only := fun (t : State) => t.crews = s.crews ∧ t.cores = s.cores ∧ s.KeepsBytes t []
    let reg := fun (t : State) => t.reg (8 * c) 0x147
    (∀ p dom src, p < 2 → ptpMine s c p dom = true →
      let learns := fun (i : Instr) (off : Int) => ∃ t, exec i s = .next t ∧ only t
        ∧ (t.chip c).good = (if off.natAbs < 100 then min 16 (chip.good + 1) else 0)
        ∧ ((reg t).getLsbD 10 = true ↔ (t.chip c).good = 16)
        ∧ (reg t).extractLsb' 16 32 = BitVec.ofInt 32 off ∧ (reg t).extractLsb' 0 10 = (reg s).extractLsb' 0 10
      (bestMaster chip.masters = some src →
        (∀ t2 t1, learns (.sync c p ⟨dom, src⟩ t2 t1 false) ((t2 : Int) - t1 - chip.delay))
        ∧ (∀ t2 t1, ∃ t, exec (.sync c p ⟨dom, src⟩ t2 t1 true) s = .next t ∧ only t ∧ t.chip c = { chip with t2 := t2, t1 := t1 }
            ∧ t.dies = s.dies)
        ∧ (∀ t1, learns (.followUp c p ⟨dom, src⟩ t1) ((chip.t2 : Int) - t1 - chip.delay))
        ∧ ∀ t4, ∃ t, exec (.delayResp c p ⟨dom, src⟩ t4) s = .next t ∧ only t ∧ t.dies = s.dies
            ∧ t.chip c = { chip with delay := (((chip.t2 : Int) - chip.t1) + ((t4 : Int) - chip.t3)) / 2 })
      ∧ (bestMaster chip.masters ≠ some src → ∀ t2 t1 two,
          ∀ i ∈ [Instr.sync c p ⟨dom, src⟩ t2 t1 two, .followUp c p ⟨dom, src⟩ t1, .delayResp c p ⟨dom, src⟩ t2], exec i s = .next s)
      ∧ ∀ data, ∃ t, exec (.announce c p ⟨dom, src⟩ data) s = .next t ∧ only t ∧ t.dies = s.dies
          ∧ t.chip c = { chip with masters := ins chip.masters src data })
    ∧ (∀ m r a b, chip.masters = r ++ (m, a) :: b → (∀ e ∈ r, better a e.2 = true) → (∀ e ∈ b, better e.2 a = false) →
        bestMaster chip.masters = some m)
    ∧ (∀ p dom src t2 t1 two data, p < 2 → portOpen s (8 * c + 7) p = true →
        let drops := fun (t : State) => t.reg (8 * c + 7) (0x2800 + 16 * p + 3)
        ∀ i ∈ [Instr.sync c (p + 2) ⟨dom, src⟩ t2 t1 two, .followUp c (p + 2) ⟨dom, src⟩ t1, .delayResp c (p + 2) ⟨dom, src⟩ t2,
            .announce c (p + 2) ⟨dom, src⟩ data],
          ∃ t, exec i s = .next t ∧ drops t = drops s + 1 ∧ t.chips = s.chips ∧ only t)
    ∧ (∀ t3, (reg s).getLsbD 0 = true → ∃ t, exec (.delayReq c t3) s = .next t ∧ only t ∧ t.chip c = { chip with t3 := t3 })
    ∧ (∀ sec ns, ns % 100000 = 0 → ns < 1000000000 → chip.sample = none →
        ∃ t, exec (.telemetrySampleCommand c sec ns) s = .next t ∧ only t ∧ t.dies = s.dies
          ∧ t.chip c = { chip with sample := some (sec, ns), sampled := [], clock := sec * 1000000000 + ns, winSum := 0, winN := 0,
                                   avg := if chip.winN = 0 then chip.pdrawn else chip.winSum / chip.winN })
    ∧ (∀ i power x, i < 8 → chip.sample = some x → (∀ e ∈ chip.sampled, e.1 ≠ i) → plausible chip (min 65535 power) = true →
        ∃ t, exec (.diePowerSample (8 * c + i) power) s = .next t ∧ only t
          ∧ t.chip c = { chip with sampled := chip.sampled ++ [(i, min 65535 power)] })
    ∧ ∀ sec ns (p : Nat → Nat), chip.sample = some (sec, ns) → chip.sampled = (List.range 8).map (fun i => (i, p i)) →
      (∀ i, i < 8 → p i < 2 ^ 16) → sec < 2 ^ 64 → ns < 2 ^ 32 →
      let d := 8 * c
      let n := ((s.reg d 0x148).extractLsb' 0 6).toNat
      let base := ringBase d (s.reg d 0x148)
      let wr := s.num base 8
      let dst := base + 64 + 64 * (wr % n)
      0 < n → wr - s.num (base + 8) 8 < n → s.unheld (ringBytes base n wr) = true →
      (∀ e ∈ (s.die d).ringWait, e.1 ≠ 0x148) →
      ∃ t, exec (.telemetryRecordWrite c) s = .next t ∧ t.crews = s.crews ∧ (t.chip c).sample = none
        ∧ t.num dst 4 = (s.die d).seqno % 2 ^ 32 ∧ t.num (dst + 8) 8 = sec ∧ t.num (dst + 16) 4 = ns
        ∧ (∀ i, i < 8 → t.num (dst + 20 + 2 * i) 2 = p i) ∧ t.num base 8 = (wr + 1) % 2 ^ 64
        ∧ s.KeepsBytes t ((List.range 64).map (dst + ·) ++ (List.range 8).map (base + ·))

open Sys2Proof Sys2Proof.Machine in
/-- R430 to R432, R434 to R437, R439, R444: power. Each interval moves the target towards the demand by at most the ramps;
ballast, and then filler of dies with an idle matrix unit, make up what the demand leaves, and a shortfall keeps its own
target, which falls on at Rd. A chip that runs at 3,600 W holds each consumer within its line, and comes to it only with
every consumer within its line (R3). Floors, droops, lane groups and islands; a trip ends every crew of its chip. Units
and rounding, the target of a shortfall, the division at 3,600 W, the cores of a droop, when a lane group is gated and the
clock in force during a change are the model's choice (log entries 54 to 56, 59, 76, 77 and 105). -/
def Obligations.PowerSteps : Prop :=
  ∀ (s : State) (c : Nat), let chip := s.chip c
    let only := fun (t : State) => t.crews = s.crews ∧ s.KeepsBytes t []
    (∀ (w : Demand) fillable, chip.tripped = false → s.reg (8 * c) 0x111 = 0 →
      let D := w.matrix + w.vector + w.sram + w.hbm + w.optics + w.misc
      let r := s.reg (8 * c) 0x143
      let f := fun (lo : Nat) => (r.extractLsb' lo 12).toNat
      let top := chip.pdrawn + f 0
      let T := min 360000 (max (min (max (100 * D) (chip.pdrawn - f 12)) top) (min (100 * f 24) top))
      let E := if chip.shortN = 0 then T else min 360000 (max T (chip.target - f 12))
      let idle := ((List.range 8).filter (fun i => (List.range 64).any (fun n =>
        (s.core (512 * c + 64 * i + n)).mq.isEmpty && (s.core (512 * c + 64 * i + n)).mrun.isNone))).length
      let bound := fun (bit x : Nat) => if r.getLsbD bit then x else 0
      let gap := fun (work : Nat) => min E (min top (max chip.pdrawn (100 * f 24))) - work
      let ballast := fun (work : Nat) => min (gap work) (bound 37 120000)
      let filler := fun (work room : Nat) =>
        min (gap work - ballast work) (min (bound 36 (100 * min (1650 * idle / 8) fillable)) room)
      let share := fun (x : Nat) => if 100 * D ≤ T then 100 * x else x * T / D
      let lines := [(w.matrix, 1650), (w.vector, 350), (w.sram, 300), (w.hbm, 560), (w.optics, 480), (w.misc, 110)]
      let held := (lines.map (fun e => min (100 * e.2) (share e.1))).sum
      ∃ t, exec (.limiterInterval c w fillable) s = .next t ∧ only t
        ∧ (let P := (t.chip c).pdrawn
          let p := t.reg (8 * c) 0x144
          let draws := fun (work b l : Nat) => P = work + b + l ∧ (p.extractLsb' 24 12).toNat = l / 100
            ∧ (p.extractLsb' 36 12).toNat = b / 100 ∧ (p.getLsbD 48 = true ↔ work < 100 * D)
            ∧ ∀ i, i < 8 → (t.die (8 * c + i)).ballast = (b / 100 + 7 - i) / 8
          P ≤ 360000 ∧ P ≤ top ∧ (p.extractLsb' 12 12).toNat = min 4095 D ∧ (∀ i, i < 8 → (t.die (8 * c + i)).ballast ≤ 150)
          ∧ (chip.pdrawn < 360000 → E < 360000 →
              draws (min (100 * D) T) (ballast (min (100 * D) T)) (filler (min (100 * D) T) 165000))
          ∧ (360000 ≤ chip.pdrawn → draws held (ballast held) (filler held (165000 - min 165000 (share w.matrix))))
          ∧ (chip.pdrawn < 360000 → P = 360000 → ∀ e ∈ lines, share e.1 ≤ 100 * e.2)
          ∧ (p.getLsbD 49 = true ↔ P + 1 < E ∧ (100 * D < T ∨ 360000 ≤ chip.pdrawn))))
    ∧ (∀ v : Word, let ok := fun (lo : Nat) => 1 ≤ (v.extractLsb' lo 12).toNat ∧ (v.extractLsb' lo 12).toNat ≤ 4000
      (ok 0 → ok 12 → (v.extractLsb' 24 12).toNat ≤ 3600 → ∃ t, exec (.rampWrite c v) s = .next t ∧ only t
          ∧ t.reg (8 * c) 0x143 = (v.setWidth 38).setWidth 64)
      ∧ (¬(ok 0 ∧ ok 12 ∧ (v.extractLsb' 24 12).toNat ≤ 3600) → exec (.rampWrite c v) s = .next s))
    ∧ (∀ f r, chip.floors = f :: r → f ≤ 3600 → ∃ t, exec (.floorArrive c) s = .next t ∧ only t ∧ (t.chip c).floors = r
        ∧ ((t.reg (8 * c) 0x143).extractLsb' 24 12).toNat = f)
    ∧ (∀ d island, island < 40 → let n := fun (t : State) => ((t.reg d 0x141).extractLsb' 16 32).toNat
        ∃ t, exec (.droopDetect d island) s = .next t ∧ only t ∧ n t = min (n s + 1) (2 ^ 32 - 1)
          ∧ ((s.reg d 0x141).getLsbD 0 = false → (t.die d).droop = (s.die d).droop)
          ∧ ∀ h, (s.reg d 0x141).getLsbD 0 = true → island < 32 → (s.core (64 * d + 2 * island)).sig = h →
              (s.core (64 * d + 2 * island + 1)).sig = h → (s.die d).droop = [] → h < 2 ^ 16 → h ≠ 0 →
              get (0, 0) (t.die d).droop ((h % 256) ^^^ (h / 256)) = (h, 2))
    ∧ (∀ n h conf, h < 2 ^ 16 → let d := n / 64
        let r := s.reg d 0x141
        get (0, 0) (s.die d).droop ((h % 256) ^^^ (h / 256)) = (h, conf) →
        ∃ t, exec (.signatureWindowEnd n h) s = .next t ∧ only t ∧ (t.core n).sig = h
          ∧ (r.getLsbD 0 = true → (r.extractLsb' 12 2).toNat ≤ conf → (r.extractLsb' 8 4).toNat ≠ 0 →
              (t.core n).thrott = (r.extractLsb' 8 4).toNat)
          ∧ (conf < (r.extractLsb' 12 2).toNat → (t.core n).thrott = (s.core n).thrott))
    ∧ (∀ n, ∃ t, exec (.throttleEnd n) s = .next t ∧ only t ∧ t.core n = { s.core n with thrott := 0 })
    ∧ (∀ d, ((s.die d).droop.map (·.1)).Nodup → ∃ t, exec (.droopTableClear d) s = .next t ∧ only t
        ∧ ∀ i, (get (0, 0) (t.die d).droop i).2 = 0 ∧ (get (0, 0) (t.die d).droop i).1 = (get (0, 0) (s.die d).droop i).1)
    ∧ (∀ n lg, lg < 8 → (s.core n).lgate < 256 →
      ((s.core n).lgate.testBit lg = false → groupInUse s n lg = false →
        ∃ t, exec (.laneGroupGate n lg) s = .next t ∧ only t ∧ ∀ i, (t.core n).lgate.testBit i = ((s.core n).lgate.testBit i || i == lg))
      ∧ (lg ∈ wantedGroups s n → ∃ t, exec (.laneGroupWake n lg) s = .next t ∧ only t
          ∧ ∀ i, i < 8 → (t.core n).lgate.testBit i = ((s.core n).lgate.testBit i && i != lg)))
    ∧ (∀ d island (v : Word), island < 39 → let w := fun (t : State) => t.reg d (0x150 + island)
        let f := (v.extractLsb' 0 7).toNat
        (16 ≤ f ∧ f ≤ 64 → ∃ t, exec (.vfChangeRequest d island v) s = .next t ∧ only t ∧ ((w t).extractLsb' 0 7).toNat = f
            ∧ (w t).getLsbD 26 = true ∧ ((w t).extractLsb' 7 7).toNat = min ((w s).extractLsb' 7 7).toNat f
            ∧ (w t).extractLsb' 14 12 = (w s).extractLsb' 14 12)
        ∧ (¬(16 ≤ f ∧ f ≤ 64) → exec (.vfChangeRequest d island v) s = .next s)
        ∧ ∀ mv, (w s).getLsbD 26 = true → mv < 2 ^ 12 → ∃ t, exec (.vfChangeComplete d island mv) s = .next t ∧ only t
            ∧ (w t).getLsbD 26 = false ∧ ((w t).extractLsb' 14 12).toNat = mv ∧ (w t).extractLsb' 7 7 = (w s).extractLsb' 0 7)
    ∧ (∀ d on, ∃ t, exec (.junctionCap d on) s = .next t ∧ only t ∧ t.die d = { s.die d with capped := on })
    ∧ (chip.tripped = false → s.noRing → ∃ t, exec (.thermalTrip c) s = .next t ∧ (t.chip c).tripped = true
        ∧ (∀ k, k / 2048 = c → (s.crew k).state ≠ 0 → (t.crew k).state = 6 ∧ ((s.crew k).state ≠ 6 → (t.crew k).a.run = .exited
            ∧ (t.crew k).x.run = .exited))
        ∧ ((t.reg (8 * c) 0x144).extractLsb' 24 24 = 0) ∧ (t.reg (8 * c) 0x144).getLsbD 49 = false
        ∧ (∀ i, i < 8 → (t.die (8 * c + i)).ballast = 0 ∧ (t.die (8 * c + i)).filler = 0) ∧ s.KeepsBytes t [])

open Sys2Proof Sys2Proof.Machine in
/-- R394 to R396, R419, R433: cold reset and loss of supply, attestation, and soft errors: a scrub read of HBM corrects
and logs one wrong bit and marks a word with more, and a word of a bank array is logged when it is first read. That memory
reads as zero after a cold reset is the model's choice (log entry 4), as are the slot that boots, which slot is the new
one and the carve of the supervisor's core (entries 64 and 65), what an attestation checks first (entry 69), how soft
errors are numbered and placed (entry 70), and the reading of RFC 8554 in hssVerify (entry 100). -/
def Obligations.ChipEvents : Prop :=
  ∀ (s : State) (c : Nat), let chip := s.chip c
    let others := fun (t : State) => (∀ k, k / 2048 ≠ c → t.crew k = s.crew k) ∧ ∀ p, byteDie p / 8 ≠ c → t.byte p = s.byte p
    (∀ fw, c < 32 → fw.self = c →
      let ok := fun (x : Slot) => sha256 x.key = fw.rom ∧ hssVerify x.key (leBytes 8 x.ver ++ x.images.flatten) x.sig = true
        ∧ chip.minVer ≤ x.ver
      let k := 2048 * c
      ∃ t, exec (.coldReset c fw) s = .next t ∧ others t ∧ (t.chip c).supplied = true ∧ (t.chip c).leaf = max chip.leaf fw.leaf
        ∧ (∀ p, byteDie p / 8 = c → t.byte p = 0)
        ∧ (∀ x, (ok fw.slot0 ∧ x = fw.slot0) ∨ (¬ok fw.slot0 ∧ ok fw.slot1 ∧ x = fw.slot1) →
          (t.chip c).minVer = (if x = fw.slot0 then max chip.minVer fw.minVer else chip.minVer)
          ∧ (t.crew k).state = 1 ∧ (t.crew k).ctx = 0 ∧ (t.crew k).a.run = .running ∧ (t.crew k).x.run = .running
          ∧ (t.crew k).a.pc = fw.supervisor.1 ∧ (t.crew k).x.pc = fw.supervisor.2 ∧ t.sysPriv k = true
          ∧ (∃ h e, (t.crew k).home = some (8 * c, h) ∧ liveNode t (8 * c) h = some e ∧ recType e.2.words = 0 ∧ e.2.placed = [(0, k)])
          ∧ (t.core (512 * c)).s = 104 ∧ (t.core (512 * c)).q = 16 ∧ (t.core (512 * c)).c = 0
          ∧ (∀ j, k < j → j < k + 2048 → t.crew j = {})
          ∧ (∀ i, i < 16 → t.reg (8 * c) (0x190 + i) = (measurements x).getD i 0)
          ∧ ∀ i, i < 8 → t.reg (8 * c + i) 0xC00 = 3 ∧ t.reg (8 * c + i) 0xC01 = fw.root.getD i 0
            ∧ t.reg (8 * c + i) 0xB00 = 0x1FFFF)
        ∧ (¬ok fw.slot0 → ¬ok fw.slot1 → (t.chip c).minVer = chip.minVer ∧ (t.chip c).booted = false
          ∧ (∀ j, j / 2048 = c → t.crew j = {}) ∧ ∀ i, i < 8 → t.die (8 * c + i) = {}))
    ∧ (∃ t, exec (.lossOfSupply c) s = .next t ∧ others t ∧ (t.chip c).supplied = false ∧ (t.chip c).leaf = chip.leaf
        ∧ (∀ k, k / 2048 = c → t.crew k = {}) ∧ ∀ p, byteDie p / 8 = c → t.byte p = 0)
    ∧ (∀ k v, k / 2048 = c →
      (chip.attest = none → ∃ t, exec (.attestationRequest k v) s = .next t ∧ t.chip c = { chip with attest := some (k, v, (s.crew k).ctx) }
        ∧ t.crews = s.crews ∧ s.KeepsBytes t [])
      ∧ (chip.attest.isSome = true → exec (.attestationRequest k v) s = .next s))
    ∧ (∀ k v ctx ps qs ds, chip.attest = some (k, v, ctx) → ownSpad s k v.toNat 64 64 = some ps → s.admitsEngine (securityId c) ps = true → s.clean ps →
      let num := fun o n => leNat (((ps.map s.byte).drop o).take n)
      ownSpad s k (num 40 8) 4 4 = some qs → s.unheld qs = true →
      (2 ^ 30 ≤ chip.leaf → ∃ t, exec (.attestationComplete c) s = .next t ∧ (t.chip c).attest = none
        ∧ (t.chip c).leaf = chip.leaf ∧ leNat (qs.map t.byte) = 1 ∧ s.KeepsBytes t qs)
      ∧ (chip.leaf < 2 ^ 30 → num 48 16 = 0 →
        engineRange s (securityId c) (crewDie k) (some (crewCore k)) ctx .write (num 32 8) 5588 = (.ok ds, s) → ds.Nodup →
        ds.length = 5588 → (∀ p ∈ qs, p ∉ ds) →
        ∃ t, exec (.attestationComplete c) s = .next t ∧ (t.chip c).attest = none ∧ (t.chip c).leaf = chip.leaf + 1
          ∧ leNat (qs.map t.byte) = 0 ∧ s.KeepsBytes t (ds ++ qs)
          ∧ (let out := fun o n => leNat ((List.range n).map (fun i => t.byte (ds.getD (o + i) 0)))
            let be := fun o => leNat ((List.range 4).map (fun i => t.byte (ds.getD (o + 3 - i) 0)))
            out 0 4 = 1 ∧ out 4 4 = 5588 ∧ out 40 4 = chip.leaf ∧ be 196 = chip.leaf / 2 ^ 15 ∧ be 2920 = chip.leaf % 2 ^ 15
            ∧ (∀ i, i < 32 → t.byte (ds.getD (8 + i) 0) = (ps.map s.byte).getD i 0)
            ∧ ∀ i, i < 16 → out (64 + 8 * i) 8 = (s.reg (8 * c) (0x190 + i)).toNat)))
    ∧ (∀ w n, 8 * w < 2 ^ 45 → s.reg (byteDie (8 * w)) 0x111 = 0 → get false s.bad w = false →
      ∃ t, exec (.hbmScrubRead w n) s = .next t ∧ t.crews = s.crews ∧ s.KeepsBytes t []
        ∧ (2 ≤ n → get false t.poison w = true ∧ get false t.bad w = false)
        ∧ (n ≤ 1 → get false t.poison w = get false s.poison w))
    ∧ (∀ w n, 8 * w < 2 ^ 45 → 0 < n → get false s.bad w = false → n = 1 ∨ get false s.poison w = false →
      let d := byteDie (8 * w)
      let len := ((s.reg d 0x111).extractLsb' 0 6).toNat
      let base := ringBase d (s.reg d 0x111)
      let wr := s.num base 8
      let dst := base + 64 + 64 * (wr % len)
      0 < len → wr - s.num (base + 8) 8 < len → s.unheld (ringBytes base len wr) = true →
      (∀ e ∈ (s.die d).ringWait, e.1 ≠ 0x111) →
      ∃ t, exec (.hbmScrubRead w n) s = .next t ∧ t.num dst 4 = (s.die d).seqno % 2 ^ 32 ∧ t.num (dst + 4) 1 = min n 2
        ∧ t.num (dst + 5) 1 = 0 ∧ t.num (dst + 6) 2 = 1 ∧ t.num (dst + 8) 8 = 8 * w % 2 ^ 37 ∧ t.num base 8 = (wr + 1) % 2 ^ 64
        ∧ s.KeepsBytes t ((List.range 64).map (dst + ·) ++ (List.range 8).map (base + ·)))
    ∧ ∀ w n, 2 ^ 45 ≤ 8 * w → 8 * w < 2 ^ 46 → get false s.poison w = false → s.reg (byteDie (8 * w)) 0x111 = 0 →
      ∃ t, exec (.hbmScrubRead w n) s = .next t ∧ t.crews = s.crews ∧ s.KeepsBytes t []
        ∧ get false t.bad w = (get false s.bad w || decide (2 ≤ n)) ∧ t.poison = s.poison
end

