-- ==== Sys2Proof/Laws/Exec.lean ====
section
/-!
SUPPORT. The arms of exec, one equation each.
-/
namespace Sys2Proof.Machine

variable (s : State)

theorem exec_nop : exec (.nop) s = execNop s := rfl
theorem exec_exit : exec (.exit) s = execExit s := rfl
theorem exec_yield : exec (.yield) s = execYield s := rfl
theorem exec_bkpt : exec (.bkpt) s = execBkpt s := rfl
theorem exec_lbrk : exec (.lbrk) s = execLbrk s := rfl
theorem exec_add (f : T16a) : exec (.add f) s = execAdd f s := rfl
theorem exec_sub (f : T16a) : exec (.sub f) s = execSub f s := rfl
theorem exec_mul (f : T16a) : exec (.mul f) s = execMul f s := rfl
theorem exec_mulh (f : T16a) : exec (.mulh f) s = execMulh f s := rfl
theorem exec_mulhu (f : T16a) : exec (.mulhu f) s = execMulhu f s := rfl
theorem exec_div (f : T16a) : exec (.div f) s = execDiv f s := rfl
theorem exec_divu (f : T16a) : exec (.divu f) s = execDivu f s := rfl
theorem exec_rem (f : T16a) : exec (.rem f) s = execRem f s := rfl
theorem exec_remu (f : T16a) : exec (.remu f) s = execRemu f s := rfl
theorem exec_and (f : T16a) : exec (.and f) s = execAnd f s := rfl
theorem exec_or (f : T16a) : exec (.or f) s = execOr f s := rfl
theorem exec_xor (f : T16a) : exec (.xor f) s = execXor f s := rfl
theorem exec_andn (f : T16a) : exec (.andn f) s = execAndn f s := rfl
theorem exec_sll (f : T16a) : exec (.sll f) s = execSll f s := rfl
theorem exec_srl (f : T16a) : exec (.srl f) s = execSrl f s := rfl
theorem exec_sra (f : T16a) : exec (.sra f) s = execSra f s := rfl
theorem exec_min (f : T16a) : exec (.min f) s = execMin f s := rfl
theorem exec_max (f : T16a) : exec (.max f) s = execMax f s := rfl
theorem exec_minu (f : T16a) : exec (.minu f) s = execMinu f s := rfl
theorem exec_maxu (f : T16a) : exec (.maxu f) s = execMaxu f s := rfl
theorem exec_slt (f : T16a) : exec (.slt f) s = execSlt f s := rfl
theorem exec_sltu (f : T16a) : exec (.sltu f) s = execSltu f s := rfl
theorem exec_seq (f : T16a) : exec (.seq f) s = execSeq f s := rfl
theorem exec_clz (f : T16a) : exec (.clz f) s = execClz f s := rfl
theorem exec_ctz (f : T16a) : exec (.ctz f) s = execCtz f s := rfl
theorem exec_popc (f : T16a) : exec (.popc f) s = execPopc f s := rfl
theorem exec_jr (f : T16a) : exec (.jr f) s = execJr f s := rfl
theorem exec_addi (f : T32a) : exec (.addi f) s = execAddi f s := rfl
theorem exec_andi (f : T32a) : exec (.andi f) s = execAndi f s := rfl
theorem exec_ori (f : T32a) : exec (.ori f) s = execOri f s := rfl
theorem exec_xori (f : T32a) : exec (.xori f) s = execXori f s := rfl
theorem exec_slli (f : T32a) : exec (.slli f) s = execSlli f s := rfl
theorem exec_srli (f : T32a) : exec (.srli f) s = execSrli f s := rfl
theorem exec_srai (f : T32a) : exec (.srai f) s = execSrai f s := rfl
theorem exec_sget (f : T32a) : exec (.sget f) s = execSget f s := rfl
theorem exec_sset (f : T32a) : exec (.sset f) s = execSset f s := rfl
theorem exec_trap (f : T32a) : exec (.trap f) s = execTrap f s := rfl
theorem exec_lidx (f : T32a) : exec (.lidx f) s = execLidx f s := rfl
theorem exec_sel (f : T32c) : exec (.sel f) s = execSel f s := rfl
theorem exec_bfx (f : T32c) : exec (.bfx f) s = execBfx f s := rfl
theorem exec_bfi (f : T32c) : exec (.bfi f) s = execBfi f s := rfl
theorem exec_bcc (f : T32b) : exec (.bcc f) s = execBcc f s := rfl
theorem exec_jmp (f : T32b) : exec (.jmp f) s = execJmp f s := rfl
theorem exec_jal (f : T32b) : exec (.jal f) s = execJal f s := rfl
theorem exec_loop (f : T32b) : exec (.loop f) s = execLoop f s := rfl
theorem exec_loopi (f : T48d) : exec (.loopi f) s = execLoopi f s := rfl
theorem exec_li (f : T48a) : exec (.li f) s = execLi f s := rfl
theorem exec_lih (f : T48a) : exec (.lih f) s = execLih f s := rfl
theorem exec_ld (f : T48c) : exec (.ld f) s = execLd f s := rfl
theorem exec_st (f : T48c) : exec (.st f) s = execSt f s := rfl
theorem exec_fence (f : T32e) : exec (.fence f) s = execFence f s := rfl
theorem exec_vlq (f : T48c) : exec (.vlq f) s = execVlq f s := rfl
theorem exec_vlqs (f : T48c) : exec (.vlqs f) s = execVlqs f s := rfl
theorem exec_vlqx (f : T48c) : exec (.vlqx f) s = execVlqx f s := rfl
theorem exec_vlqi (f : T48c) : exec (.vlqi f) s = execVlqi f s := rfl
theorem exec_vlqt (f : T48c) : exec (.vlqt f) s = execVlqt f s := rfl
theorem exec_vsq (f : T48c) : exec (.vsq f) s = execVsq f s := rfl
theorem exec_vsqs (f : T48c) : exec (.vsqs f) s = execVsqs f s := rfl
theorem exec_vsqx (f : T48c) : exec (.vsqx f) s = execVsqx f s := rfl
theorem exec_vsqi (f : T48c) : exec (.vsqi f) s = execVsqi f s := rfl
theorem exec_vlqb (f : T48e) : exec (.vlqb f) s = execVlqb f s := rfl
theorem exec_vsqb (f : T48e) : exec (.vsqb f) s = execVsqb f s := rfl
theorem exec_vsetl (f : T32e) : exec (.vsetl f) s = execVsetl f s := rfl
theorem exec_lpreq (f : T32e) : exec (.lpreq f) s = execLpreq f s := rfl
theorem exec_lprel (f : T32e) : exec (.lprel f) s = execLprel f s := rfl
theorem exec_cqpush (f : T32e) : exec (.cqpush f) s = execCqpush f s := rfl
theorem exec_bqb (f : T32e) : exec (.bqb f) s = execBqb f s := rfl
theorem exec_qslip (f : T32e) : exec (.qslip f) s = execQslip f s := rfl
theorem exec_qdrain (f : T32e) : exec (.qdrain f) s = execQdrain f s := rfl
theorem exec_cbatch (f : T32e) : exec (.cbatch f) s = execCbatch f s := rfl
theorem exec_cwait (f : T32e) : exec (.cwait f) s = execCwait f s := rfl
theorem exec_ccget (f : T32e) : exec (.ccget f) s = execCcget f s := rfl
theorem exec_waitw (f : T32e) : exec (.waitw f) s = execWaitw f s := rfl
theorem exec_bar (f : T32e) : exec (.bar f) s = execBar f s := rfl
theorem exec_amo (f : T32c) : exec (.amo f) s = execAmo f s := rfl
theorem exec_amocas (f : T32c) : exec (.amocas f) s = execAmocas f s := rfl
theorem exec_red (f : T32c) : exec (.red f) s = execRed f s := rfl
theorem exec_vamo (f : T48c) : exec (.vamo f) s = execVamo f s := rfl
theorem exec_vred (f : T48c) : exec (.vred f) s = execVred f s := rfl
theorem exec_mcas (f : T32e) : exec (.mcas f) s = execMcas f s := rfl
theorem exec_cpy (f : T32f) : exec (.cpy f) s = execCpy f s := rfl
theorem exec_cpy2 (f : T32f) : exec (.cpy2 f) s = execCpy2 f s := rfl
theorem exec_cpyx (f : T32f) : exec (.cpyx f) s = execCpyx f s := rfl
theorem exec_put (f : T32f) : exec (.put f) s = execPut f s := rfl
theorem exec_get (f : T32f) : exec (.get f) s = execGet f s := rfl
theorem exec_rwmap (f : T32f) : exec (.rwmap f) s = execRwmap f s := rfl
theorem exec_rwinv (f : T32f) : exec (.rwinv f) s = execRwinv f s := rfl
theorem exec_pub (f : T32f) : exec (.pub f) s = execPub f s := rfl
theorem exec_edwait (f : T32f) : exec (.edwait f) s = execEdwait f s := rfl
theorem exec_edget (f : T32f) : exec (.edget f) s = execEdget f s := rfl
theorem exec_vcoll (f : T32f) : exec (.vcoll f) s = execVcoll f s := rfl
theorem exec_ten (f : T32f) : exec (.ten f) s = execTen f s := rfl
theorem exec_tdis (f : T32f) : exec (.tdis f) s = execTdis f s := rfl
theorem exec_tzero (f : T32f) : exec (.tzero f) s = execTzero f s := rfl
theorem exec_tmask (f : T32f) : exec (.tmask f) s = execTmask f s := rfl
theorem exec_mma (f : T32f) : exec (.mma f) s = execMma f s := rfl
theorem exec_mmag (f : T32f) : exec (.mmag f) s = execMmag f s := rfl
theorem exec_tld (f : T32f) : exec (.tld f) s = execTld f s := rfl
theorem exec_tst (f : T32f) : exec (.tst f) s = execTst f s := rfl
theorem exec_tsync (f : T32f) : exec (.tsync f) s = execTsync f s := rfl
theorem exec_tgpost (f : T32e) : exec (.tgpost f) s = execTgpost f s := rfl
theorem exec_tgdone (f : T32e) : exec (.tgdone f) s = execTgdone f s := rfl
theorem exec_tghwm (f : T32e) : exec (.tghwm f) s = execTghwm f s := rfl
theorem exec_tgwait (f : T32e) : exec (.tgwait f) s = execTgwait f s := rfl
theorem exec_rtcnt (f : T32e) : exec (.rtcnt f) s = execRtcnt f s := rfl
theorem exec_rtsnap (f : T32e) : exec (.rtsnap f) s = execRtsnap f s := rfl
theorem exec_rtbias (f : T32e) : exec (.rtbias f) s = execRtbias f s := rfl
theorem exec_rtswap (f : T32e) : exec (.rtswap f) s = execRtswap f s := rfl
theorem exec_vtake (f : T32g) : exec (.vtake f) s = execVtake f s := rfl
theorem exec_vtakeq (f : T32g) : exec (.vtakeq f) s = execVtakeq f s := rfl
theorem exec_cqpop (f : T32g) : exec (.cqpop f) s = execCqpop f s := rfl
theorem exec_vbrq (f : T32g) : exec (.vbrq f) s = execVbrq f s := rfl
theorem exec_viq (f : T32g) : exec (.viq f) s = execViq f s := rfl
theorem exec_vqdrop (f : T32g) : exec (.vqdrop f) s = execVqdrop f s := rfl
theorem exec_vadd (f : T32d) : exec (.vadd f) s = execVadd f s := rfl
theorem exec_vsub (f : T32d) : exec (.vsub f) s = execVsub f s := rfl
theorem exec_vmul (f : T32d) : exec (.vmul f) s = execVmul f s := rfl
theorem exec_vmulh (f : T32d) : exec (.vmulh f) s = execVmulh f s := rfl
theorem exec_vand (f : T32d) : exec (.vand f) s = execVand f s := rfl
theorem exec_vor (f : T32d) : exec (.vor f) s = execVor f s := rfl
theorem exec_vxor (f : T32d) : exec (.vxor f) s = execVxor f s := rfl
theorem exec_vsll (f : T32d) : exec (.vsll f) s = execVsll f s := rfl
theorem exec_vsrl (f : T32d) : exec (.vsrl f) s = execVsrl f s := rfl
theorem exec_vsra (f : T32d) : exec (.vsra f) s = execVsra f s := rfl
theorem exec_vmin (f : T32d) : exec (.vmin f) s = execVmin f s := rfl
theorem exec_vmax (f : T32d) : exec (.vmax f) s = execVmax f s := rfl
theorem exec_vminu (f : T32d) : exec (.vminu f) s = execVminu f s := rfl
theorem exec_vmaxu (f : T32d) : exec (.vmaxu f) s = execVmaxu f s := rfl
theorem exec_vcmp (f : T48b) : exec (.vcmp f) s = execVcmp f s := rfl
theorem exec_vsel (f : T32d) : exec (.vsel f) s = execVsel f s := rfl
theorem exec_vmv (f : T32d) : exec (.vmv f) s = execVmv f s := rfl
theorem exec_vbc (f : T32d) : exec (.vbc f) s = execVbc f s := rfl
theorem exec_vid (f : T32d) : exec (.vid f) s = execVid f s := rfl
theorem exec_viota (f : T32d) : exec (.viota f) s = execViota f s := rfl
theorem exec_vicvt (f : T48b) : exec (.vicvt f) s = execVicvt f s := rfl
theorem exec_vfadd (f : T32d) : exec (.vfadd f) s = execVfadd f s := rfl
theorem exec_vfsub (f : T32d) : exec (.vfsub f) s = execVfsub f s := rfl
theorem exec_vfmul (f : T32d) : exec (.vfmul f) s = execVfmul f s := rfl
theorem exec_vfma (f : T48b) : exec (.vfma f) s = execVfma f s := rfl
theorem exec_vfms (f : T48b) : exec (.vfms f) s = execVfms f s := rfl
theorem exec_vfnma (f : T48b) : exec (.vfnma f) s = execVfnma f s := rfl
theorem exec_vfdiv (f : T32d) : exec (.vfdiv f) s = execVfdiv f s := rfl
theorem exec_vfsqrt (f : T32d) : exec (.vfsqrt f) s = execVfsqrt f s := rfl
theorem exec_vfmin (f : T32d) : exec (.vfmin f) s = execVfmin f s := rfl
theorem exec_vfmax (f : T32d) : exec (.vfmax f) s = execVfmax f s := rfl
theorem exec_vfsgn (f : T32d) : exec (.vfsgn f) s = execVfsgn f s := rfl
theorem exec_vfcmp (f : T48b) : exec (.vfcmp f) s = execVfcmp f s := rfl
theorem exec_vfcvt (f : T48b) : exec (.vfcvt f) s = execVfcvt f s := rfl
theorem exec_vfclass (f : T48b) : exec (.vfclass f) s = execVfclass f s := rfl
theorem exec_vfexp2 (f : T32d) : exec (.vfexp2 f) s = execVfexp2 f s := rfl
theorem exec_vflog2 (f : T32d) : exec (.vflog2 f) s = execVflog2 f s := rfl
theorem exec_vfrcp (f : T32d) : exec (.vfrcp f) s = execVfrcp f s := rfl
theorem exec_vfrsq (f : T32d) : exec (.vfrsq f) s = execVfrsq f s := rfl
theorem exec_vftanh (f : T32d) : exec (.vftanh f) s = execVftanh f s := rfl
theorem exec_vfsigm (f : T32d) : exec (.vfsigm f) s = execVfsigm f s := rfl
theorem exec_vferf (f : T32d) : exec (.vferf f) s = execVferf f s := rfl
theorem exec_vcompress (f : T48b) : exec (.vcompress f) s = execVcompress f s := rfl
theorem exec_vexpand (f : T32d) : exec (.vexpand f) s = execVexpand f s := rfl
theorem exec_vslup (f : T48b) : exec (.vslup f) s = execVslup f s := rfl
theorem exec_vsldn (f : T48b) : exec (.vsldn f) s = execVsldn f s := rfl
theorem exec_vrgat (f : T32d) : exec (.vrgat f) s = execVrgat f s := rfl
theorem exec_vext (f : T48b) : exec (.vext f) s = execVext f s := rfl
theorem exec_vins (f : T48b) : exec (.vins f) s = execVins f s := rfl
theorem exec_vredsum (f : T48b) : exec (.vredsum f) s = execVredsum f s := rfl
theorem exec_vredmax (f : T48b) : exec (.vredmax f) s = execVredmax f s := rfl
theorem exec_vredmin (f : T48b) : exec (.vredmin f) s = execVredmin f s := rfl
theorem exec_vfredsum (f : T48b) : exec (.vfredsum f) s = execVfredsum f s := rfl
theorem exec_vfredmax (f : T48b) : exec (.vfredmax f) s = execVfredmax f s := rfl
theorem exec_vfredmin (f : T48b) : exec (.vfredmin f) s = execVfredmin f s := rfl
theorem exec_vscan (f : T48b) : exec (.vscan f) s = execVscan f s := rfl
theorem exec_vfscan (f : T48b) : exec (.vfscan f) s = execVfscan f s := rfl
theorem exec_mand (f : T16b) : exec (.mand f) s = execMand f s := rfl
theorem exec_mor (f : T16b) : exec (.mor f) s = execMor f s := rfl
theorem exec_mxor (f : T16b) : exec (.mxor f) s = execMxor f s := rfl
theorem exec_mnot (f : T16b) : exec (.mnot f) s = execMnot f s := rfl
theorem exec_mpop (f : T16b) : exec (.mpop f) s = execMpop f s := rfl
theorem exec_mfirst (f : T16b) : exec (.mfirst f) s = execMfirst f s := rfl
theorem exec_mset (f : T16b) : exec (.mset f) s = execMset f s := rfl
theorem exec_vtrd (f : T32g) : exec (.vtrd f) s = execVtrd f s := rfl
theorem exec_vtcd (f : T32g) : exec (.vtcd f) s = execVtcd f s := rfl
theorem exec_vtwr (f : T32g) : exec (.vtwr f) s = execVtwr f s := rfl
theorem exec_vrins (f : T48b) : exec (.vrins f) s = execVrins f s := rfl
theorem exec_vrcls (f : T48b) : exec (.vrcls f) s = execVrcls f s := rfl
theorem exec_vrpick (f : T48b) : exec (.vrpick f) s = execVrpick f s := rfl
theorem exec_eret : exec (.eret) s = execEret s := rfl
theorem exec_idle : exec (.idle) s = execIdle s := rfl
theorem exec_tlbinv (f : T32e) : exec (.tlbinv f) s = execTlbinv f s := rfl
theorem exec_crsave (f : T32e) : exec (.crsave f) s = execCrsave f s := rfl
theorem exec_crload (f : T32e) : exec (.crload f) s = execCrload f s := rfl
theorem exec_fill (f : T32e) : exec (.fill f) s = execFill f s := rfl
theorem exec_vsetlGrant (k : Nat) : exec (.vsetlGrant k) s = execVsetlGrant k s := rfl
theorem exec_waitwReread (k : Nat) : exec (.waitwReread k) s = execWaitwReread k s := rfl
theorem exec_barrierRelease (k : Nat) : exec (.barrierRelease k) s = execBarrierRelease k s := rfl
theorem exec_divisionStart (core : Nat) (xs : Bool) : exec (.divisionStart core xs) s = execDivisionStart core xs s := rfl
theorem exec_divisionResult (core : Nat) (xs : Bool) : exec (.divisionResult core xs) s = execDivisionResult core xs s := rfl
theorem exec_viqHeadIssue (k : Nat) : exec (.viqHeadIssue k) s = execViqHeadIssue k s := rfl
theorem exec_elementGroupAdvance (k : Nat) : exec (.elementGroupAdvance k) s = execElementGroupAdvance k s := rfl
theorem exec_coreClassRaiseComplete (core : Nat) : exec (.coreClassRaiseComplete core) s = execCoreClassRaiseComplete core s := rfl
theorem exec_coreClassFallComplete (core : Nat) : exec (.coreClassFallComplete core) s = execCoreClassFallComplete core s := rfl
theorem exec_loadTokenPush (k : Nat) (n : Nat) : exec (.loadTokenPush k n) s = execLoadTokenPush k n s := rfl
theorem exec_vectorStorePerform (k : Nat) : exec (.vectorStorePerform k) s = execVectorStorePerform k s := rfl
theorem exec_wcbLineDrain (k : Nat) (n : Nat) : exec (.wcbLineDrain k n) s = execWcbLineDrain k n s := rfl
theorem exec_scTicketDraw (k : Nat) : exec (.scTicketDraw k) s = execScTicketDraw k s := rfl
theorem exec_homeAccessPerform (n : Nat) : exec (.homeAccessPerform n) s = execHomeAccessPerform n s := rfl
theorem exec_accessReplyReturn (n : Nat) : exec (.accessReplyReturn n) s = execAccessReplyReturn n s := rfl
theorem exec_readSpan (core : Nat) (blk : Nat) (first : Nat) (cnt : Nat) : exec (.readSpan core blk first cnt) s = execReadSpan core blk first cnt s := rfl
theorem exec_ownSpan (core : Nat) (blk : Nat) (first : Nat) (cnt : Nat) : exec (.ownSpan core blk first cnt) s = execOwnSpan core blk first cnt s := rfl
theorem exec_writeBackSpan (core : Nat) (blk : Nat) (first : Nat) (cnt : Nat) (keep : Bool) : exec (.writeBackSpan core blk first cnt keep) s = execWriteBackSpan core blk first cnt keep s := rfl
theorem exec_invalidateSpan (core : Nat) (blk : Nat) (first : Nat) (cnt : Nat) : exec (.invalidateSpan core blk first cnt) s = execInvalidateSpan core blk first cnt s := rfl
theorem exec_atomicPerform (k : Nat) : exec (.atomicPerform k) s = execAtomicPerform k s := rfl
theorem exec_contributionAccept (slice : Nat) : exec (.contributionAccept slice) s = execContributionAccept slice s := rfl
theorem exec_chainClose (slice : Nat) (n : Nat) : exec (.chainClose slice n) s = execChainClose slice n s := rfl
theorem exec_mcasHomeLock (k : Nat) : exec (.mcasHomeLock k) s = execMcasHomeLock k s := rfl
theorem exec_mcasDecision (k : Nat) : exec (.mcasDecision k) s = execMcasDecision k s := rfl
theorem exec_mcasHomeUnlock (k : Nat) : exec (.mcasHomeUnlock k) s = execMcasHomeUnlock k s := rfl
theorem exec_mcasFinish (k : Nat) : exec (.mcasFinish k) s = execMcasFinish k s := rfl
theorem exec_mcasDarkRelease (k : Nat) : exec (.mcasDarkRelease k) s = execMcasDarkRelease k s := rfl
theorem exec_packetReceive (n : Nat) : exec (.packetReceive n) s = execPacketReceive n s := rfl
theorem exec_versionNackReceive (n : Nat) : exec (.versionNackReceive n) s = execVersionNackReceive n s := rfl
theorem exec_packetResend (n : Nat) : exec (.packetResend n) s = execPacketResend n s := rfl
theorem exec_creditReturnReceive (die : Nat) (peer : Nat) (freed : Nat) : exec (.creditReturnReceive die peer freed) s = execCreditReturnReceive die peer freed s := rfl
theorem exec_flitAcknowledge (die : Nat) (peer : Nat) (seq : Nat) : exec (.flitAcknowledge die peer seq) s = execFlitAcknowledge die peer seq s := rfl
theorem exec_laneDark (die : Nat) (peer : Nat) (lane : Nat) : exec (.laneDark die peer lane) s = execLaneDark die peer lane s := rfl
theorem exec_pathDarkMark (die : Nat) (peer : Nat) : exec (.pathDarkMark die peer) s = execPathDarkMark die peer s := rfl
theorem exec_darkRequestTimeout (n : Nat) : exec (.darkRequestTimeout n) s = execDarkRequestTimeout n s := rfl
theorem exec_windowBlockFill (k : Nat) (w : Nat) (blk : Nat) : exec (.windowBlockFill k w blk) s = execWindowBlockFill k w blk s := rfl
theorem exec_windowBlockEviction (k : Nat) (w : Nat) (blk : Nat) : exec (.windowBlockEviction k w blk) s = execWindowBlockEviction k w blk s := rfl
theorem exec_publicationAccept (die : Nat) (ch : Nat) : exec (.publicationAccept die ch) s = execPublicationAccept die ch s := rfl
theorem exec_publicationPacketLand (p : Nat) (mem : Nat) : exec (.publicationPacketLand p mem) s = execPublicationPacketLand p mem s := rfl
theorem exec_copyJobTake (core : Nat) : exec (.copyJobTake core) s = execCopyJobTake core s := rfl
theorem exec_jobPacketLand (core : Nat) (j : Nat) : exec (.jobPacketLand core j) s = execJobPacketLand core j s := rfl
theorem exec_jobSignalWrite (core : Nat) (j : Nat) : exec (.jobSignalWrite core j) s = execJobSignalWrite core j s := rfl
theorem exec_followOnPlace (k : Nat) : exec (.followOnPlace k) s = execFollowOnPlace k s := rfl
theorem exec_collectiveContributionArrive (c : Nat) (die : Nat) (elem : Nat) : exec (.collectiveContributionArrive c die elem) s = execCollectiveContributionArrive c die elem s := rfl
theorem exec_collectiveResultArrive (c : Nat) (die : Nat) (blk : Nat) : exec (.collectiveResultArrive c die blk) s = execCollectiveResultArrive c die blk s := rfl
theorem exec_failureNoticeReceive (c : Nat) (die : Nat) (blk : Nat) (dark : Nat) (rep : Nat) (code : Nat) : exec (.failureNoticeReceive c die blk dark rep code) s = execFailureNoticeReceive c die blk dark rep code s := rfl
theorem exec_matrixCommandStart (core : Nat) : exec (.matrixCommandStart core) s = execMatrixCommandStart core s := rfl
theorem exec_mmaBlockRowComplete (core : Nat) : exec (.mmaBlockRowComplete core) s = execMmaBlockRowComplete core s := rfl
theorem exec_matrixCommandComplete (core : Nat) : exec (.matrixCommandComplete core) s = execMatrixCommandComplete core s := rfl
theorem exec_gangStepStart (core : Nat) : exec (.gangStepStart core) s = execGangStepStart core s := rfl
theorem exec_nodePost (k : Nat) : exec (.nodePost k) s = execNodePost k s := rfl
theorem exec_nodeDispatch (die : Nat) (cls : Nat) (core : Nat) : exec (.nodeDispatch die cls core) s = execNodeDispatch die cls core s := rfl
theorem exec_crewPlacement (die : Nat) (slot : Nat) (crews : List Nat) : exec (.crewPlacement die slot crews) s = execCrewPlacement die slot crews s := rfl
theorem exec_crewStart (k : Nat) : exec (.crewStart k) s = execCrewStart k s := rfl
theorem exec_highWaterArrive (k : Nat) : exec (.highWaterArrive k) s = execHighWaterArrive k s := rfl
theorem exec_crewRetire (k : Nat) : exec (.crewRetire k) s = execCrewRetire k s := rfl
theorem exec_pageWalkStart (die : Nat) (ctx : Nat) (va : Nat) : exec (.pageWalkStart die ctx va) s = execPageWalkStart die ctx va s := rfl
theorem exec_pageWalkComplete (die : Nat) (n : Nat) : exec (.pageWalkComplete die n) s = execPageWalkComplete die n s := rfl
theorem exec_tlbinvTargetDrop (n : Nat) (die : Nat) : exec (.tlbinvTargetDrop n die) s = execTlbinvTargetDrop n die s := rfl
theorem exec_runOnStop (k : Nat) : exec (.runOnStop k) s = execRunOnStop k s := rfl
theorem exec_runOnLimit (k : Nat) : exec (.runOnLimit k) s = execRunOnLimit k s := rfl
theorem exec_trapRecordWrite (die : Nat) : exec (.trapRecordWrite die) s = execTrapRecordWrite die s := rfl
theorem exec_latchTake (die : Nat) : exec (.latchTake die) s = execLatchTake die s := rfl
theorem exec_tctlPreempt (k : Nat) : exec (.tctlPreempt k) s = execTctlPreempt k s := rfl
theorem exec_preemptStop (k : Nat) : exec (.preemptStop k) s = execPreemptStop k s := rfl
theorem exec_tctlEnd (k : Nat) : exec (.tctlEnd k) s = execTctlEnd k s := rfl
theorem exec_crewEndComplete (k : Nat) : exec (.crewEndComplete k) s = execCrewEndComplete k s := rfl
theorem exec_targetEpcWrite (k : Nat) (xs : Bool) (v : Word) : exec (.targetEpcWrite k xs v) s = execTargetEpcWrite k xs v s := rfl
theorem exec_contextSaveWrite (k : Nat) : exec (.contextSaveWrite k) s = execContextSaveWrite k s := rfl
theorem exec_contextLoadComplete (k : Nat) : exec (.contextLoadComplete k) s = execContextLoadComplete k s := rfl
theorem exec_pswapGo (die : Nat) (p : Nat) : exec (.pswapGo die p) s = execPswapGo die p s := rfl
theorem exec_pswapClear (die : Nat) (p : Nat) : exec (.pswapClear die p) s = execPswapClear die p s := rfl
theorem exec_pswapDone (die : Nat) : exec (.pswapDone die) s = execPswapDone die s := rfl
theorem exec_lpartWrite (core : Nat) (v : Word) : exec (.lpartWrite core v) s = execLpartWrite core v s := rfl
theorem exec_partitionTableWrite (die : Nat) (p : Nat) (v : Word) : exec (.partitionTableWrite die p v) s = execPartitionTableWrite die p v s := rfl
theorem exec_groupEntryWrite (die : Nat) (g : Nat) (v : Word) : exec (.groupEntryWrite die g v) s = execGroupEntryWrite die g v s := rfl
theorem exec_publicationEntryWrite (die : Nat) (ch : Nat) (v : Word) : exec (.publicationEntryWrite die ch v) s = execPublicationEntryWrite die ch v s := rfl
theorem exec_subscriptionEntryWrite (die : Nat) (n : Nat) (v : Word) : exec (.subscriptionEntryWrite die n v) s = execSubscriptionEntryWrite die n v s := rfl
theorem exec_qpEntryWrite (die : Nat) (q : Nat) (v : Word) : exec (.qpEntryWrite die q v) s = execQpEntryWrite die q v s := rfl
theorem exec_keyEntryWrite (die : Nat) (sel : Nat) (v : Word) : exec (.keyEntryWrite die sel v) s = execKeyEntryWrite die sel v s := rfl
theorem exec_routeEntryWrite (die : Nat) (peer : Nat) (v : Word) : exec (.routeEntryWrite die peer v) s = execRouteEntryWrite die peer v s := rfl
theorem exec_linkTrainingComplete (die : Nat) (peer : Nat) (flight : Nat) (lanes : Nat) (ident : Nat) : exec (.linkTrainingComplete die peer flight lanes ident) s = execLinkTrainingComplete die peer flight lanes ident s := rfl
theorem exec_sysCfailRead (k : Nat) : exec (.sysCfailRead k) s = execSysCfailRead k s := rfl
theorem exec_sysTdropRead (die : Nat) : exec (.sysTdropRead die) s = execSysTdropRead die s := rfl
theorem exec_portDropsRead (die : Nat) (p : Nat) : exec (.portDropsRead die p) s = execPortDropsRead die p s := rfl
theorem exec_droopCounterRead (die : Nat) : exec (.droopCounterRead die) s = execDroopCounterRead die s := rfl
theorem exec_ptpSecondsRead (chip : Nat) : exec (.ptpSecondsRead chip) s = execPtpSecondsRead chip s := rfl
theorem exec_circuitChangeRequest (k : Nat) (v : Word) : exec (.circuitChangeRequest k v) s = execCircuitChangeRequest k v s := rfl
theorem exec_peerChangeRequestReceive (chip : Nat) (ident : Nat) : exec (.peerChangeRequestReceive chip ident) s = execPeerChangeRequestReceive chip ident s := rfl
theorem exec_grantReceive (chip : Nat) : exec (.grantReceive chip) s = execGrantReceive chip s := rfl
theorem exec_grantTimeout (chip : Nat) : exec (.grantTimeout chip) s = execGrantTimeout chip s := rfl
theorem exec_drainMarkerArrive (die : Nat) (peer : Nat) : exec (.drainMarkerArrive die peer) s = execDrainMarkerArrive die peer s := rfl
theorem exec_drainTimeout (chip : Nat) : exec (.drainTimeout chip) s = execDrainTimeout chip s := rfl
theorem exec_mirrorNoticeReceive (chip : Nat) : exec (.mirrorNoticeReceive chip) s = execMirrorNoticeReceive chip s := rfl
theorem exec_mirrorTimeout (chip : Nat) : exec (.mirrorTimeout chip) s = execMirrorTimeout chip s := rfl
theorem exec_trainingPhaseEnd (chip : Nat) : exec (.trainingPhaseEnd chip) s = execTrainingPhaseEnd chip s := rfl
theorem exec_coldReset (chip : Nat) (fw : Firmware) : exec (.coldReset chip fw) s = execColdReset chip fw s := rfl
theorem exec_attestationRequest (k : Nat) (v : Word) : exec (.attestationRequest k v) s = execAttestationRequest k v s := rfl
theorem exec_attestationComplete (chip : Nat) : exec (.attestationComplete chip) s = execAttestationComplete chip s := rfl
theorem exec_hbmScrubRead (word : Nat) (bad : Nat) : exec (.hbmScrubRead word bad) s = execHbmScrubRead word bad s := rfl
theorem exec_rdmaWrite (die : Nat) (pkt : Rdma) : exec (.rdmaWrite die pkt) s = execRdmaWrite die pkt s := rfl
theorem exec_rdmaReadRequest (die : Nat) (pkt : Rdma) : exec (.rdmaReadRequest die pkt) s = execRdmaReadRequest die pkt s := rfl
theorem exec_compareAndSwap (die : Nat) (pkt : Rdma) : exec (.compareAndSwap die pkt) s = execCompareAndSwap die pkt s := rfl
theorem exec_fetchAndAdd (die : Nat) (pkt : Rdma) : exec (.fetchAndAdd die pkt) s = execFetchAndAdd die pkt s := rfl
theorem exec_arpRequest (die : Nat) (p : Nat) (ip : Nat) : exec (.arpRequest die p ip) s = execArpRequest die p ip s := rfl
theorem exec_neighbourSolicitation (die : Nat) (p : Nat) (ip : Nat) : exec (.neighbourSolicitation die p ip) s = execNeighbourSolicitation die p ip s := rfl
theorem exec_priorityFlowControlFrame (die : Nat) (p : Nat) (pri : Nat) (pause : Bool) : exec (.priorityFlowControlFrame die p pri pause) s = execPriorityFlowControlFrame die p pri pause s := rfl
theorem exec_ethernetFrameDrop (die : Nat) (p : Nat) : exec (.ethernetFrameDrop die p) s = execEthernetFrameDrop die p s := rfl
theorem exec_sync (chip : Nat) (p : Nat) (sender : PtpSender) (t2 : Nat) (t1 : Nat) (twoStep : Bool) : exec (.sync chip p sender t2 t1 twoStep) s = execSync chip p sender t2 t1 twoStep s := rfl
theorem exec_followUp (chip : Nat) (p : Nat) (sender : PtpSender) (t1 : Nat) : exec (.followUp chip p sender t1) s = execFollowUp chip p sender t1 s := rfl
theorem exec_delayReq (chip : Nat) (t3 : Nat) : exec (.delayReq chip t3) s = execDelayReq chip t3 s := rfl
theorem exec_delayResp (chip : Nat) (p : Nat) (sender : PtpSender) (t4 : Nat) : exec (.delayResp chip p sender t4) s = execDelayResp chip p sender t4 s := rfl
theorem exec_announce (chip : Nat) (p : Nat) (sender : PtpSender) (dataset : List Nat) : exec (.announce chip p sender dataset) s = execAnnounce chip p sender dataset s := rfl
theorem exec_telemetrySampleCommand (chip : Nat) (sec : Nat) (ns : Nat) : exec (.telemetrySampleCommand chip sec ns) s = execTelemetrySampleCommand chip sec ns s := rfl
theorem exec_diePowerSample (die : Nat) (power : Nat) : exec (.diePowerSample die power) s = execDiePowerSample die power s := rfl
theorem exec_telemetryRecordWrite (chip : Nat) : exec (.telemetryRecordWrite chip) s = execTelemetryRecordWrite chip s := rfl
theorem exec_limiterInterval (chip : Nat) (demand : Demand) (fillable : Nat) : exec (.limiterInterval chip demand fillable) s = execLimiterInterval chip demand fillable s := rfl
theorem exec_floorArrive (chip : Nat) : exec (.floorArrive chip) s = execFloorArrive chip s := rfl
theorem exec_rampWrite (chip : Nat) (v : Word) : exec (.rampWrite chip v) s = execRampWrite chip v s := rfl
theorem exec_droopDetect (die : Nat) (island : Nat) : exec (.droopDetect die island) s = execDroopDetect die island s := rfl
theorem exec_signatureWindowEnd (core : Nat) (sig : Nat) : exec (.signatureWindowEnd core sig) s = execSignatureWindowEnd core sig s := rfl
theorem exec_throttleEnd (core : Nat) : exec (.throttleEnd core) s = execThrottleEnd core s := rfl
theorem exec_droopTableClear (die : Nat) : exec (.droopTableClear die) s = execDroopTableClear die s := rfl
theorem exec_laneGroupGate (core : Nat) (lg : Nat) : exec (.laneGroupGate core lg) s = execLaneGroupGate core lg s := rfl
theorem exec_laneGroupWake (core : Nat) (lg : Nat) : exec (.laneGroupWake core lg) s = execLaneGroupWake core lg s := rfl
theorem exec_vfChangeRequest (die : Nat) (island : Nat) (v : Word) : exec (.vfChangeRequest die island v) s = execVfChangeRequest die island v s := rfl
theorem exec_vfChangeComplete (die : Nat) (island : Nat) (mv : Nat) : exec (.vfChangeComplete die island mv) s = execVfChangeComplete die island mv s := rfl
theorem exec_junctionCap (die : Nat) (on : Bool) : exec (.junctionCap die on) s = execJunctionCap die on s := rfl
theorem exec_thermalTrip (chip : Nat) : exec (.thermalTrip chip) s = execThermalTrip chip s := rfl
theorem exec_portLinkTrained (die : Nat) (p : Nat) : exec (.portLinkTrained die p) s = execPortLinkTrained die p s := rfl
theorem exec_portLinkLoss (die : Nat) (p : Nat) : exec (.portLinkLoss die p) s = execPortLinkLoss die p s := rfl
theorem exec_lossOfSupply (chip : Nat) : exec (.lossOfSupply chip) s = execLossOfSupply chip s := rfl

end Sys2Proof.Machine
end

