-- ==== Sys2Proof/Laws/Maps.lean ====
section
/-!
SUPPORT. Lemmas of the sparse maps: what a read answers after an insertion, a removal or a write, and that a write keeps
the canonical form.
-/
namespace Sys2Proof.Machine

variable {α : Type}

@[simp] theorem get_nil (d : α) (n : Nat) : get d [] n = d := rfl

theorem get_cons (d : α) (k : Nat) (v : α) (r : SMap α) (n : Nat) :
    get d ((k, v) :: r) n = if k = n then v else get d r n := rfl

@[simp] theorem get_ins_self (d : α) (m : SMap α) (n : Nat) (v : α) : get d (ins m n v) n = v := by
  induction m with
  | nil => simp [ins, get]
  | cons e r ih =>
    obtain ⟨k, w⟩ := e
    unfold ins
    split
    · simp [get]
    · split
      · simp [get]
      · simp [get, *]

theorem get_ins_of_ne (d : α) (m : SMap α) {n n' : Nat} (v : α) (h : n' ≠ n) : get d (ins m n v) n' = get d m n' := by
  induction m with
  | nil => simp [ins, get, Ne.symm h]
  | cons e r ih =>
    obtain ⟨k, w⟩ := e
    unfold ins
    split
    · next hk => subst hk; simp [get, Ne.symm h]
    · split
      · simp [get, Ne.symm h]
      · simp [get, ih]

theorem get_ins (d : α) (m : SMap α) (n n' : Nat) (v : α) : get d (ins m n v) n' = if n' = n then v else get d m n' := by
  by_cases h : n' = n
  · subst h; simp
  · simp [h, get_ins_of_ne]

theorem get_filter (d : α) (m : SMap α) (p : Nat → Bool) (n : Nat) :
    get d (m.filter (fun e => p e.1)) n = if p n then get d m n else d := by
  induction m with
  | nil => simp
  | cons e r ih =>
    obtain ⟨k, w⟩ := e
    rw [List.filter_cons]
    by_cases hk : k = n
    · subst hk
      by_cases hp : p k <;> simp [hp, get, ih]
    · split
      · simp [get, hk, ih]
      · rw [ih]; simp [get, hk]

theorem get_del (d : α) (m : SMap α) (n n' : Nat) : get d (del m n) n' = if n' = n then d else get d m n' := by
  unfold del
  rw [get_filter d m (fun k => k != n) n']
  by_cases h : n' = n <;> simp [h]

section
variable [DecidableEq α]

theorem get_put (d : α) (m : SMap α) (n n' : Nat) (v : α) : get d (put d m n v) n' = if n' = n then v else get d m n' := by
  unfold put
  split
  · next h => rw [get_del, h]
  · rw [get_ins]

@[simp] theorem get_put_self (d : α) (m : SMap α) (n : Nat) (v : α) : get d (put d m n v) n = v := by simp [get_put]

theorem get_put_of_ne (d : α) (m : SMap α) {n n' : Nat} (v : α) (h : n' ≠ n) : get d (put d m n v) n' = get d m n' := by
  simp [get_put, h]

/-! ### The canonical form -/

/-- The canonical form, entry by entry: keys rise pairwise, and no value is the default. -/
theorem wf_iff (d : α) (m : SMap α) :
    SMap.wf d m = true ↔ m.Pairwise (fun a b => a.1 < b.1) ∧ ∀ e ∈ m, e.2 ≠ d := by
  induction m with
  | nil => simp [SMap.wf]
  | cons a r ih =>
    obtain ⟨k, v⟩ := a
    cases r with
    | nil => simp [SMap.wf]
    | cons b t =>
      obtain ⟨k', v'⟩ := b
      rw [SMap.wf, Bool.and_eq_true, Bool.and_eq_true, ih]
      simp only [decide_eq_true_eq, List.mem_cons, forall_eq_or_imp]
      constructor
      · rintro ⟨⟨hv, hk⟩, hp, hd⟩
        refine ⟨List.pairwise_cons.2 ⟨fun e he => ?_, hp⟩, hv, hd⟩
        rcases List.mem_cons.1 he with rfl | he
        · exact hk
        · exact hk.trans ((List.pairwise_cons.1 hp).1 e he)
      · rintro ⟨hp, hv, hd⟩
        have hp := List.pairwise_cons.1 hp
        exact ⟨⟨hv, hp.1 _ List.mem_cons_self⟩, hp.2, hd⟩

theorem wf_filter (d : α) (m : SMap α) (p : Nat × α → Bool) (h : SMap.wf d m = true) : SMap.wf d (m.filter p) = true := by
  rw [wf_iff] at h ⊢
  exact ⟨h.1.sublist List.filter_sublist, fun e he => h.2 e (List.mem_of_mem_filter he)⟩

omit [DecidableEq α] in
theorem mem_ins {m : SMap α} {n : Nat} {v : α} {e : Nat × α} (h : e ∈ ins m n v) : e = (n, v) ∨ e ∈ m := by
  induction m with
  | nil => simpa [ins] using h
  | cons a r ih =>
    obtain ⟨k, w⟩ := a
    unfold ins at h
    split at h
    · rcases List.mem_cons.1 h with h | h
      · exact .inl h
      · exact .inr (List.mem_cons_of_mem _ h)
    · split at h
      · rcases List.mem_cons.1 h with h | h
        · exact .inl h
        · exact .inr h
      · rcases List.mem_cons.1 h with h | h
        · exact .inr (h ▸ List.mem_cons_self)
        · exact (ih h).imp id (List.mem_cons_of_mem _)

theorem wf_ins (d : α) (m : SMap α) (n : Nat) (v : α) (hv : v ≠ d) (h : SMap.wf d m = true) :
    SMap.wf d (ins m n v) = true := by
  rw [wf_iff] at h ⊢
  refine ⟨?_, fun e he => (mem_ins he).elim (fun x => x ▸ hv) (h.2 e)⟩
  obtain ⟨hp, -⟩ := h
  clear hv
  induction m with
  | nil => simp [ins]
  | cons a r ih =>
    obtain ⟨k, w⟩ := a
    rw [List.pairwise_cons] at hp
    unfold ins
    split
    · next hk => subst hk; exact List.pairwise_cons.2 ⟨hp.1, hp.2⟩
    · split
      · next hk hn =>
        refine List.pairwise_cons.2 ⟨fun e he => ?_, List.pairwise_cons.2 hp⟩
        rcases List.mem_cons.1 he with rfl | he
        · exact hn
        · exact hn.trans (hp.1 e he)
      · next hk hn =>
        refine List.pairwise_cons.2 ⟨fun e he => ?_, ih hp.2⟩
        rcases mem_ins he with rfl | he
        · simp only; omega
        · exact hp.1 e he

theorem wf_put (d : α) (m : SMap α) (n : Nat) (v : α) (h : SMap.wf d m = true) : SMap.wf d (put d m n v) = true := by
  unfold put
  split
  · exact wf_filter d m _ h
  · next hv => exact wf_ins d m n v hv h

end

end Sys2Proof.Machine
end

