-- ==== Sys2Proof/Laws/State.lean ====
section
/-!
SUPPORT. One lemma for each field and each update of the state: what the update leaves as it was, and what a read of the
updated place answers.
-/
namespace Sys2Proof.Machine

variable (s : State)

/-! ### setCrew -/

@[simp] theorem State.setCrew_agenda (k : Nat) (c : Crew) : (s.setCrew k c).agenda = s.agenda := rfl
@[simp] theorem State.setCrew_cur (k : Nat) (c : Crew) : (s.setCrew k c).cur = s.cur := rfl
@[simp] theorem State.setCrew_cores (k : Nat) (c : Crew) : (s.setCrew k c).cores = s.cores := rfl
@[simp] theorem State.setCrew_dies (k : Nat) (c : Crew) : (s.setCrew k c).dies = s.dies := rfl
@[simp] theorem State.setCrew_chips (k : Nat) (c : Crew) : (s.setCrew k c).chips = s.chips := rfl
@[simp] theorem State.setCrew_mem (k : Nat) (c : Crew) : (s.setCrew k c).mem = s.mem := rfl
@[simp] theorem State.setCrew_poison (k : Nat) (c : Crew) : (s.setCrew k c).poison = s.poison := rfl
@[simp] theorem State.setCrew_bad (k : Nat) (c : Crew) : (s.setCrew k c).bad = s.bad := rfl
@[simp] theorem State.setCrew_locks (k : Nat) (c : Crew) : (s.setCrew k c).locks = s.locks := rfl
@[simp] theorem State.setCrew_fifo (k : Nat) (c : Crew) : (s.setCrew k c).fifo = s.fifo := rfl
@[simp] theorem State.setCrew_pubs (k : Nat) (c : Crew) : (s.setCrew k c).pubs = s.pubs := rfl
@[simp] theorem State.setCrew_colls (k : Nat) (c : Crew) : (s.setCrew k c).colls = s.colls := rfl
@[simp] theorem State.setCrew_invs (k : Nat) (c : Crew) : (s.setCrew k c).invs = s.invs := rfl
@[simp] theorem State.setCrew_saves (k : Nat) (c : Crew) : (s.setCrew k c).saves = s.saves := rfl
@[simp] theorem State.setCrew_images (k : Nat) (c : Crew) : (s.setCrew k c).images = s.images := rfl
@[simp] theorem State.setCrew_jseq (k : Nat) (c : Crew) : (s.setCrew k c).jseq = s.jseq := rfl
@[simp] theorem State.setCrew_free (k : Nat) (c : Crew) : (s.setCrew k c).free = s.free := rfl
@[simp] theorem State.setCrew_next (k : Nat) (c : Crew) : (s.setCrew k c).next = s.next := rfl

/-! ### setCore -/

@[simp] theorem State.setCore_agenda (n : Nat) (c : Core) : (s.setCore n c).agenda = s.agenda := rfl
@[simp] theorem State.setCore_cur (n : Nat) (c : Core) : (s.setCore n c).cur = s.cur := rfl
@[simp] theorem State.setCore_crews (n : Nat) (c : Core) : (s.setCore n c).crews = s.crews := rfl
@[simp] theorem State.setCore_dies (n : Nat) (c : Core) : (s.setCore n c).dies = s.dies := rfl
@[simp] theorem State.setCore_chips (n : Nat) (c : Core) : (s.setCore n c).chips = s.chips := rfl
@[simp] theorem State.setCore_mem (n : Nat) (c : Core) : (s.setCore n c).mem = s.mem := rfl
@[simp] theorem State.setCore_poison (n : Nat) (c : Core) : (s.setCore n c).poison = s.poison := rfl
@[simp] theorem State.setCore_bad (n : Nat) (c : Core) : (s.setCore n c).bad = s.bad := rfl
@[simp] theorem State.setCore_locks (n : Nat) (c : Core) : (s.setCore n c).locks = s.locks := rfl
@[simp] theorem State.setCore_fifo (n : Nat) (c : Core) : (s.setCore n c).fifo = s.fifo := rfl
@[simp] theorem State.setCore_pubs (n : Nat) (c : Core) : (s.setCore n c).pubs = s.pubs := rfl
@[simp] theorem State.setCore_colls (n : Nat) (c : Core) : (s.setCore n c).colls = s.colls := rfl
@[simp] theorem State.setCore_invs (n : Nat) (c : Core) : (s.setCore n c).invs = s.invs := rfl
@[simp] theorem State.setCore_saves (n : Nat) (c : Core) : (s.setCore n c).saves = s.saves := rfl
@[simp] theorem State.setCore_images (n : Nat) (c : Core) : (s.setCore n c).images = s.images := rfl
@[simp] theorem State.setCore_jseq (n : Nat) (c : Core) : (s.setCore n c).jseq = s.jseq := rfl
@[simp] theorem State.setCore_free (n : Nat) (c : Core) : (s.setCore n c).free = s.free := rfl
@[simp] theorem State.setCore_next (n : Nat) (c : Core) : (s.setCore n c).next = s.next := rfl

/-! ### setDie -/

@[simp] theorem State.setDie_agenda (d : Nat) (x : Die) : (s.setDie d x).agenda = s.agenda := rfl
@[simp] theorem State.setDie_cur (d : Nat) (x : Die) : (s.setDie d x).cur = s.cur := rfl
@[simp] theorem State.setDie_crews (d : Nat) (x : Die) : (s.setDie d x).crews = s.crews := rfl
@[simp] theorem State.setDie_cores (d : Nat) (x : Die) : (s.setDie d x).cores = s.cores := rfl
@[simp] theorem State.setDie_chips (d : Nat) (x : Die) : (s.setDie d x).chips = s.chips := rfl
@[simp] theorem State.setDie_mem (d : Nat) (x : Die) : (s.setDie d x).mem = s.mem := rfl
@[simp] theorem State.setDie_poison (d : Nat) (x : Die) : (s.setDie d x).poison = s.poison := rfl
@[simp] theorem State.setDie_bad (d : Nat) (x : Die) : (s.setDie d x).bad = s.bad := rfl
@[simp] theorem State.setDie_locks (d : Nat) (x : Die) : (s.setDie d x).locks = s.locks := rfl
@[simp] theorem State.setDie_fifo (d : Nat) (x : Die) : (s.setDie d x).fifo = s.fifo := rfl
@[simp] theorem State.setDie_pubs (d : Nat) (x : Die) : (s.setDie d x).pubs = s.pubs := rfl
@[simp] theorem State.setDie_colls (d : Nat) (x : Die) : (s.setDie d x).colls = s.colls := rfl
@[simp] theorem State.setDie_invs (d : Nat) (x : Die) : (s.setDie d x).invs = s.invs := rfl
@[simp] theorem State.setDie_saves (d : Nat) (x : Die) : (s.setDie d x).saves = s.saves := rfl
@[simp] theorem State.setDie_images (d : Nat) (x : Die) : (s.setDie d x).images = s.images := rfl
@[simp] theorem State.setDie_jseq (d : Nat) (x : Die) : (s.setDie d x).jseq = s.jseq := rfl
@[simp] theorem State.setDie_free (d : Nat) (x : Die) : (s.setDie d x).free = s.free := rfl
@[simp] theorem State.setDie_next (d : Nat) (x : Die) : (s.setDie d x).next = s.next := rfl

/-! ### setChip -/

@[simp] theorem State.setChip_agenda (c : Nat) (x : Chip) : (s.setChip c x).agenda = s.agenda := rfl
@[simp] theorem State.setChip_cur (c : Nat) (x : Chip) : (s.setChip c x).cur = s.cur := rfl
@[simp] theorem State.setChip_crews (c : Nat) (x : Chip) : (s.setChip c x).crews = s.crews := rfl
@[simp] theorem State.setChip_cores (c : Nat) (x : Chip) : (s.setChip c x).cores = s.cores := rfl
@[simp] theorem State.setChip_dies (c : Nat) (x : Chip) : (s.setChip c x).dies = s.dies := rfl
@[simp] theorem State.setChip_mem (c : Nat) (x : Chip) : (s.setChip c x).mem = s.mem := rfl
@[simp] theorem State.setChip_poison (c : Nat) (x : Chip) : (s.setChip c x).poison = s.poison := rfl
@[simp] theorem State.setChip_bad (c : Nat) (x : Chip) : (s.setChip c x).bad = s.bad := rfl
@[simp] theorem State.setChip_locks (c : Nat) (x : Chip) : (s.setChip c x).locks = s.locks := rfl
@[simp] theorem State.setChip_fifo (c : Nat) (x : Chip) : (s.setChip c x).fifo = s.fifo := rfl
@[simp] theorem State.setChip_pubs (c : Nat) (x : Chip) : (s.setChip c x).pubs = s.pubs := rfl
@[simp] theorem State.setChip_colls (c : Nat) (x : Chip) : (s.setChip c x).colls = s.colls := rfl
@[simp] theorem State.setChip_invs (c : Nat) (x : Chip) : (s.setChip c x).invs = s.invs := rfl
@[simp] theorem State.setChip_saves (c : Nat) (x : Chip) : (s.setChip c x).saves = s.saves := rfl
@[simp] theorem State.setChip_images (c : Nat) (x : Chip) : (s.setChip c x).images = s.images := rfl
@[simp] theorem State.setChip_jseq (c : Nat) (x : Chip) : (s.setChip c x).jseq = s.jseq := rfl
@[simp] theorem State.setChip_free (c : Nat) (x : Chip) : (s.setChip c x).free = s.free := rfl
@[simp] theorem State.setChip_next (c : Nat) (x : Chip) : (s.setChip c x).next = s.next := rfl

/-! ### modCrew -/

@[simp] theorem State.modCrew_agenda (k : Nat) (f : Crew → Crew) : (s.modCrew k f).agenda = s.agenda := rfl
@[simp] theorem State.modCrew_cur (k : Nat) (f : Crew → Crew) : (s.modCrew k f).cur = s.cur := rfl
@[simp] theorem State.modCrew_cores (k : Nat) (f : Crew → Crew) : (s.modCrew k f).cores = s.cores := rfl
@[simp] theorem State.modCrew_dies (k : Nat) (f : Crew → Crew) : (s.modCrew k f).dies = s.dies := rfl
@[simp] theorem State.modCrew_chips (k : Nat) (f : Crew → Crew) : (s.modCrew k f).chips = s.chips := rfl
@[simp] theorem State.modCrew_mem (k : Nat) (f : Crew → Crew) : (s.modCrew k f).mem = s.mem := rfl
@[simp] theorem State.modCrew_poison (k : Nat) (f : Crew → Crew) : (s.modCrew k f).poison = s.poison := rfl
@[simp] theorem State.modCrew_bad (k : Nat) (f : Crew → Crew) : (s.modCrew k f).bad = s.bad := rfl
@[simp] theorem State.modCrew_locks (k : Nat) (f : Crew → Crew) : (s.modCrew k f).locks = s.locks := rfl
@[simp] theorem State.modCrew_fifo (k : Nat) (f : Crew → Crew) : (s.modCrew k f).fifo = s.fifo := rfl
@[simp] theorem State.modCrew_pubs (k : Nat) (f : Crew → Crew) : (s.modCrew k f).pubs = s.pubs := rfl
@[simp] theorem State.modCrew_colls (k : Nat) (f : Crew → Crew) : (s.modCrew k f).colls = s.colls := rfl
@[simp] theorem State.modCrew_invs (k : Nat) (f : Crew → Crew) : (s.modCrew k f).invs = s.invs := rfl
@[simp] theorem State.modCrew_saves (k : Nat) (f : Crew → Crew) : (s.modCrew k f).saves = s.saves := rfl
@[simp] theorem State.modCrew_images (k : Nat) (f : Crew → Crew) : (s.modCrew k f).images = s.images := rfl
@[simp] theorem State.modCrew_jseq (k : Nat) (f : Crew → Crew) : (s.modCrew k f).jseq = s.jseq := rfl
@[simp] theorem State.modCrew_free (k : Nat) (f : Crew → Crew) : (s.modCrew k f).free = s.free := rfl
@[simp] theorem State.modCrew_next (k : Nat) (f : Crew → Crew) : (s.modCrew k f).next = s.next := rfl

/-! ### modCore -/

@[simp] theorem State.modCore_agenda (n : Nat) (f : Core → Core) : (s.modCore n f).agenda = s.agenda := rfl
@[simp] theorem State.modCore_cur (n : Nat) (f : Core → Core) : (s.modCore n f).cur = s.cur := rfl
@[simp] theorem State.modCore_crews (n : Nat) (f : Core → Core) : (s.modCore n f).crews = s.crews := rfl
@[simp] theorem State.modCore_dies (n : Nat) (f : Core → Core) : (s.modCore n f).dies = s.dies := rfl
@[simp] theorem State.modCore_chips (n : Nat) (f : Core → Core) : (s.modCore n f).chips = s.chips := rfl
@[simp] theorem State.modCore_mem (n : Nat) (f : Core → Core) : (s.modCore n f).mem = s.mem := rfl
@[simp] theorem State.modCore_poison (n : Nat) (f : Core → Core) : (s.modCore n f).poison = s.poison := rfl
@[simp] theorem State.modCore_bad (n : Nat) (f : Core → Core) : (s.modCore n f).bad = s.bad := rfl
@[simp] theorem State.modCore_locks (n : Nat) (f : Core → Core) : (s.modCore n f).locks = s.locks := rfl
@[simp] theorem State.modCore_fifo (n : Nat) (f : Core → Core) : (s.modCore n f).fifo = s.fifo := rfl
@[simp] theorem State.modCore_pubs (n : Nat) (f : Core → Core) : (s.modCore n f).pubs = s.pubs := rfl
@[simp] theorem State.modCore_colls (n : Nat) (f : Core → Core) : (s.modCore n f).colls = s.colls := rfl
@[simp] theorem State.modCore_invs (n : Nat) (f : Core → Core) : (s.modCore n f).invs = s.invs := rfl
@[simp] theorem State.modCore_saves (n : Nat) (f : Core → Core) : (s.modCore n f).saves = s.saves := rfl
@[simp] theorem State.modCore_images (n : Nat) (f : Core → Core) : (s.modCore n f).images = s.images := rfl
@[simp] theorem State.modCore_jseq (n : Nat) (f : Core → Core) : (s.modCore n f).jseq = s.jseq := rfl
@[simp] theorem State.modCore_free (n : Nat) (f : Core → Core) : (s.modCore n f).free = s.free := rfl
@[simp] theorem State.modCore_next (n : Nat) (f : Core → Core) : (s.modCore n f).next = s.next := rfl

/-! ### modDie -/

@[simp] theorem State.modDie_agenda (d : Nat) (f : Die → Die) : (s.modDie d f).agenda = s.agenda := rfl
@[simp] theorem State.modDie_cur (d : Nat) (f : Die → Die) : (s.modDie d f).cur = s.cur := rfl
@[simp] theorem State.modDie_crews (d : Nat) (f : Die → Die) : (s.modDie d f).crews = s.crews := rfl
@[simp] theorem State.modDie_cores (d : Nat) (f : Die → Die) : (s.modDie d f).cores = s.cores := rfl
@[simp] theorem State.modDie_chips (d : Nat) (f : Die → Die) : (s.modDie d f).chips = s.chips := rfl
@[simp] theorem State.modDie_mem (d : Nat) (f : Die → Die) : (s.modDie d f).mem = s.mem := rfl
@[simp] theorem State.modDie_poison (d : Nat) (f : Die → Die) : (s.modDie d f).poison = s.poison := rfl
@[simp] theorem State.modDie_bad (d : Nat) (f : Die → Die) : (s.modDie d f).bad = s.bad := rfl
@[simp] theorem State.modDie_locks (d : Nat) (f : Die → Die) : (s.modDie d f).locks = s.locks := rfl
@[simp] theorem State.modDie_fifo (d : Nat) (f : Die → Die) : (s.modDie d f).fifo = s.fifo := rfl
@[simp] theorem State.modDie_pubs (d : Nat) (f : Die → Die) : (s.modDie d f).pubs = s.pubs := rfl
@[simp] theorem State.modDie_colls (d : Nat) (f : Die → Die) : (s.modDie d f).colls = s.colls := rfl
@[simp] theorem State.modDie_invs (d : Nat) (f : Die → Die) : (s.modDie d f).invs = s.invs := rfl
@[simp] theorem State.modDie_saves (d : Nat) (f : Die → Die) : (s.modDie d f).saves = s.saves := rfl
@[simp] theorem State.modDie_images (d : Nat) (f : Die → Die) : (s.modDie d f).images = s.images := rfl
@[simp] theorem State.modDie_jseq (d : Nat) (f : Die → Die) : (s.modDie d f).jseq = s.jseq := rfl
@[simp] theorem State.modDie_free (d : Nat) (f : Die → Die) : (s.modDie d f).free = s.free := rfl
@[simp] theorem State.modDie_next (d : Nat) (f : Die → Die) : (s.modDie d f).next = s.next := rfl

/-! ### modChip -/

@[simp] theorem State.modChip_agenda (c : Nat) (f : Chip → Chip) : (s.modChip c f).agenda = s.agenda := rfl
@[simp] theorem State.modChip_cur (c : Nat) (f : Chip → Chip) : (s.modChip c f).cur = s.cur := rfl
@[simp] theorem State.modChip_crews (c : Nat) (f : Chip → Chip) : (s.modChip c f).crews = s.crews := rfl
@[simp] theorem State.modChip_cores (c : Nat) (f : Chip → Chip) : (s.modChip c f).cores = s.cores := rfl
@[simp] theorem State.modChip_dies (c : Nat) (f : Chip → Chip) : (s.modChip c f).dies = s.dies := rfl
@[simp] theorem State.modChip_mem (c : Nat) (f : Chip → Chip) : (s.modChip c f).mem = s.mem := rfl
@[simp] theorem State.modChip_poison (c : Nat) (f : Chip → Chip) : (s.modChip c f).poison = s.poison := rfl
@[simp] theorem State.modChip_bad (c : Nat) (f : Chip → Chip) : (s.modChip c f).bad = s.bad := rfl
@[simp] theorem State.modChip_locks (c : Nat) (f : Chip → Chip) : (s.modChip c f).locks = s.locks := rfl
@[simp] theorem State.modChip_fifo (c : Nat) (f : Chip → Chip) : (s.modChip c f).fifo = s.fifo := rfl
@[simp] theorem State.modChip_pubs (c : Nat) (f : Chip → Chip) : (s.modChip c f).pubs = s.pubs := rfl
@[simp] theorem State.modChip_colls (c : Nat) (f : Chip → Chip) : (s.modChip c f).colls = s.colls := rfl
@[simp] theorem State.modChip_invs (c : Nat) (f : Chip → Chip) : (s.modChip c f).invs = s.invs := rfl
@[simp] theorem State.modChip_saves (c : Nat) (f : Chip → Chip) : (s.modChip c f).saves = s.saves := rfl
@[simp] theorem State.modChip_images (c : Nat) (f : Chip → Chip) : (s.modChip c f).images = s.images := rfl
@[simp] theorem State.modChip_jseq (c : Nat) (f : Chip → Chip) : (s.modChip c f).jseq = s.jseq := rfl
@[simp] theorem State.modChip_free (c : Nat) (f : Chip → Chip) : (s.modChip c f).free = s.free := rfl
@[simp] theorem State.modChip_next (c : Nat) (f : Chip → Chip) : (s.modChip c f).next = s.next := rfl

/-! ### setReg -/

@[simp] theorem State.setReg_agenda (d sel : Nat) (v : Word) : (s.setReg d sel v).agenda = s.agenda := rfl
@[simp] theorem State.setReg_cur (d sel : Nat) (v : Word) : (s.setReg d sel v).cur = s.cur := rfl
@[simp] theorem State.setReg_crews (d sel : Nat) (v : Word) : (s.setReg d sel v).crews = s.crews := rfl
@[simp] theorem State.setReg_cores (d sel : Nat) (v : Word) : (s.setReg d sel v).cores = s.cores := rfl
@[simp] theorem State.setReg_chips (d sel : Nat) (v : Word) : (s.setReg d sel v).chips = s.chips := rfl
@[simp] theorem State.setReg_mem (d sel : Nat) (v : Word) : (s.setReg d sel v).mem = s.mem := rfl
@[simp] theorem State.setReg_poison (d sel : Nat) (v : Word) : (s.setReg d sel v).poison = s.poison := rfl
@[simp] theorem State.setReg_bad (d sel : Nat) (v : Word) : (s.setReg d sel v).bad = s.bad := rfl
@[simp] theorem State.setReg_locks (d sel : Nat) (v : Word) : (s.setReg d sel v).locks = s.locks := rfl
@[simp] theorem State.setReg_fifo (d sel : Nat) (v : Word) : (s.setReg d sel v).fifo = s.fifo := rfl
@[simp] theorem State.setReg_pubs (d sel : Nat) (v : Word) : (s.setReg d sel v).pubs = s.pubs := rfl
@[simp] theorem State.setReg_colls (d sel : Nat) (v : Word) : (s.setReg d sel v).colls = s.colls := rfl
@[simp] theorem State.setReg_invs (d sel : Nat) (v : Word) : (s.setReg d sel v).invs = s.invs := rfl
@[simp] theorem State.setReg_saves (d sel : Nat) (v : Word) : (s.setReg d sel v).saves = s.saves := rfl
@[simp] theorem State.setReg_images (d sel : Nat) (v : Word) : (s.setReg d sel v).images = s.images := rfl
@[simp] theorem State.setReg_jseq (d sel : Nat) (v : Word) : (s.setReg d sel v).jseq = s.jseq := rfl
@[simp] theorem State.setReg_free (d sel : Nat) (v : Word) : (s.setReg d sel v).free = s.free := rfl
@[simp] theorem State.setReg_next (d sel : Nat) (v : Word) : (s.setReg d sel v).next = s.next := rfl

/-! ### setByte -/

@[simp] theorem State.setByte_agenda (p : Nat) (b : Byte) : (s.setByte p b).agenda = s.agenda := rfl
@[simp] theorem State.setByte_cur (p : Nat) (b : Byte) : (s.setByte p b).cur = s.cur := rfl
@[simp] theorem State.setByte_crews (p : Nat) (b : Byte) : (s.setByte p b).crews = s.crews := rfl
@[simp] theorem State.setByte_cores (p : Nat) (b : Byte) : (s.setByte p b).cores = s.cores := rfl
@[simp] theorem State.setByte_dies (p : Nat) (b : Byte) : (s.setByte p b).dies = s.dies := rfl
@[simp] theorem State.setByte_chips (p : Nat) (b : Byte) : (s.setByte p b).chips = s.chips := rfl
@[simp] theorem State.setByte_poison (p : Nat) (b : Byte) : (s.setByte p b).poison = s.poison := rfl
@[simp] theorem State.setByte_bad (p : Nat) (b : Byte) : (s.setByte p b).bad = s.bad := rfl
@[simp] theorem State.setByte_locks (p : Nat) (b : Byte) : (s.setByte p b).locks = s.locks := rfl
@[simp] theorem State.setByte_fifo (p : Nat) (b : Byte) : (s.setByte p b).fifo = s.fifo := rfl
@[simp] theorem State.setByte_pubs (p : Nat) (b : Byte) : (s.setByte p b).pubs = s.pubs := rfl
@[simp] theorem State.setByte_colls (p : Nat) (b : Byte) : (s.setByte p b).colls = s.colls := rfl
@[simp] theorem State.setByte_invs (p : Nat) (b : Byte) : (s.setByte p b).invs = s.invs := rfl
@[simp] theorem State.setByte_saves (p : Nat) (b : Byte) : (s.setByte p b).saves = s.saves := rfl
@[simp] theorem State.setByte_images (p : Nat) (b : Byte) : (s.setByte p b).images = s.images := rfl
@[simp] theorem State.setByte_jseq (p : Nat) (b : Byte) : (s.setByte p b).jseq = s.jseq := rfl
@[simp] theorem State.setByte_free (p : Nat) (b : Byte) : (s.setByte p b).free = s.free := rfl
@[simp] theorem State.setByte_next (p : Nat) (b : Byte) : (s.setByte p b).next = s.next := rfl

/-! ### setSeqr -/

@[simp] theorem State.setSeqr_agenda (q : Seqr) : (s.setSeqr q).agenda = s.agenda := rfl
@[simp] theorem State.setSeqr_cur (q : Seqr) : (s.setSeqr q).cur = s.cur := rfl
@[simp] theorem State.setSeqr_cores (q : Seqr) : (s.setSeqr q).cores = s.cores := rfl
@[simp] theorem State.setSeqr_dies (q : Seqr) : (s.setSeqr q).dies = s.dies := rfl
@[simp] theorem State.setSeqr_chips (q : Seqr) : (s.setSeqr q).chips = s.chips := rfl
@[simp] theorem State.setSeqr_mem (q : Seqr) : (s.setSeqr q).mem = s.mem := rfl
@[simp] theorem State.setSeqr_poison (q : Seqr) : (s.setSeqr q).poison = s.poison := rfl
@[simp] theorem State.setSeqr_bad (q : Seqr) : (s.setSeqr q).bad = s.bad := rfl
@[simp] theorem State.setSeqr_locks (q : Seqr) : (s.setSeqr q).locks = s.locks := rfl
@[simp] theorem State.setSeqr_fifo (q : Seqr) : (s.setSeqr q).fifo = s.fifo := rfl
@[simp] theorem State.setSeqr_pubs (q : Seqr) : (s.setSeqr q).pubs = s.pubs := rfl
@[simp] theorem State.setSeqr_colls (q : Seqr) : (s.setSeqr q).colls = s.colls := rfl
@[simp] theorem State.setSeqr_invs (q : Seqr) : (s.setSeqr q).invs = s.invs := rfl
@[simp] theorem State.setSeqr_saves (q : Seqr) : (s.setSeqr q).saves = s.saves := rfl
@[simp] theorem State.setSeqr_images (q : Seqr) : (s.setSeqr q).images = s.images := rfl
@[simp] theorem State.setSeqr_jseq (q : Seqr) : (s.setSeqr q).jseq = s.jseq := rfl
@[simp] theorem State.setSeqr_free (q : Seqr) : (s.setSeqr q).free = s.free := rfl
@[simp] theorem State.setSeqr_next (q : Seqr) : (s.setSeqr q).next = s.next := rfl

/-! ### modSeqr -/

@[simp] theorem State.modSeqr_agenda (f : Seqr → Seqr) : (s.modSeqr f).agenda = s.agenda := rfl
@[simp] theorem State.modSeqr_cur (f : Seqr → Seqr) : (s.modSeqr f).cur = s.cur := rfl
@[simp] theorem State.modSeqr_cores (f : Seqr → Seqr) : (s.modSeqr f).cores = s.cores := rfl
@[simp] theorem State.modSeqr_dies (f : Seqr → Seqr) : (s.modSeqr f).dies = s.dies := rfl
@[simp] theorem State.modSeqr_chips (f : Seqr → Seqr) : (s.modSeqr f).chips = s.chips := rfl
@[simp] theorem State.modSeqr_mem (f : Seqr → Seqr) : (s.modSeqr f).mem = s.mem := rfl
@[simp] theorem State.modSeqr_poison (f : Seqr → Seqr) : (s.modSeqr f).poison = s.poison := rfl
@[simp] theorem State.modSeqr_bad (f : Seqr → Seqr) : (s.modSeqr f).bad = s.bad := rfl
@[simp] theorem State.modSeqr_locks (f : Seqr → Seqr) : (s.modSeqr f).locks = s.locks := rfl
@[simp] theorem State.modSeqr_fifo (f : Seqr → Seqr) : (s.modSeqr f).fifo = s.fifo := rfl
@[simp] theorem State.modSeqr_pubs (f : Seqr → Seqr) : (s.modSeqr f).pubs = s.pubs := rfl
@[simp] theorem State.modSeqr_colls (f : Seqr → Seqr) : (s.modSeqr f).colls = s.colls := rfl
@[simp] theorem State.modSeqr_invs (f : Seqr → Seqr) : (s.modSeqr f).invs = s.invs := rfl
@[simp] theorem State.modSeqr_saves (f : Seqr → Seqr) : (s.modSeqr f).saves = s.saves := rfl
@[simp] theorem State.modSeqr_images (f : Seqr → Seqr) : (s.modSeqr f).images = s.images := rfl
@[simp] theorem State.modSeqr_jseq (f : Seqr → Seqr) : (s.modSeqr f).jseq = s.jseq := rfl
@[simp] theorem State.modSeqr_free (f : Seqr → Seqr) : (s.modSeqr f).free = s.free := rfl
@[simp] theorem State.modSeqr_next (f : Seqr → Seqr) : (s.modSeqr f).next = s.next := rfl

/-! ### modMe -/

@[simp] theorem State.modMe_agenda (f : Crew → Crew) : (s.modMe f).agenda = s.agenda := rfl
@[simp] theorem State.modMe_cur (f : Crew → Crew) : (s.modMe f).cur = s.cur := rfl
@[simp] theorem State.modMe_cores (f : Crew → Crew) : (s.modMe f).cores = s.cores := rfl
@[simp] theorem State.modMe_dies (f : Crew → Crew) : (s.modMe f).dies = s.dies := rfl
@[simp] theorem State.modMe_chips (f : Crew → Crew) : (s.modMe f).chips = s.chips := rfl
@[simp] theorem State.modMe_mem (f : Crew → Crew) : (s.modMe f).mem = s.mem := rfl
@[simp] theorem State.modMe_poison (f : Crew → Crew) : (s.modMe f).poison = s.poison := rfl
@[simp] theorem State.modMe_bad (f : Crew → Crew) : (s.modMe f).bad = s.bad := rfl
@[simp] theorem State.modMe_locks (f : Crew → Crew) : (s.modMe f).locks = s.locks := rfl
@[simp] theorem State.modMe_fifo (f : Crew → Crew) : (s.modMe f).fifo = s.fifo := rfl
@[simp] theorem State.modMe_pubs (f : Crew → Crew) : (s.modMe f).pubs = s.pubs := rfl
@[simp] theorem State.modMe_colls (f : Crew → Crew) : (s.modMe f).colls = s.colls := rfl
@[simp] theorem State.modMe_invs (f : Crew → Crew) : (s.modMe f).invs = s.invs := rfl
@[simp] theorem State.modMe_saves (f : Crew → Crew) : (s.modMe f).saves = s.saves := rfl
@[simp] theorem State.modMe_images (f : Crew → Crew) : (s.modMe f).images = s.images := rfl
@[simp] theorem State.modMe_jseq (f : Crew → Crew) : (s.modMe f).jseq = s.jseq := rfl
@[simp] theorem State.modMe_free (f : Crew → Crew) : (s.modMe f).free = s.free := rfl
@[simp] theorem State.modMe_next (f : Crew → Crew) : (s.modMe f).next = s.next := rfl

/-! ### setR -/

@[simp] theorem State.setR_agenda (r : Nat) (v : Word) (L : Nat) : (s.setR r v L).agenda = s.agenda := rfl
@[simp] theorem State.setR_cur (r : Nat) (v : Word) (L : Nat) : (s.setR r v L).cur = s.cur := rfl
@[simp] theorem State.setR_cores (r : Nat) (v : Word) (L : Nat) : (s.setR r v L).cores = s.cores := rfl
@[simp] theorem State.setR_dies (r : Nat) (v : Word) (L : Nat) : (s.setR r v L).dies = s.dies := rfl
@[simp] theorem State.setR_chips (r : Nat) (v : Word) (L : Nat) : (s.setR r v L).chips = s.chips := rfl
@[simp] theorem State.setR_mem (r : Nat) (v : Word) (L : Nat) : (s.setR r v L).mem = s.mem := rfl
@[simp] theorem State.setR_poison (r : Nat) (v : Word) (L : Nat) : (s.setR r v L).poison = s.poison := rfl
@[simp] theorem State.setR_bad (r : Nat) (v : Word) (L : Nat) : (s.setR r v L).bad = s.bad := rfl
@[simp] theorem State.setR_locks (r : Nat) (v : Word) (L : Nat) : (s.setR r v L).locks = s.locks := rfl
@[simp] theorem State.setR_fifo (r : Nat) (v : Word) (L : Nat) : (s.setR r v L).fifo = s.fifo := rfl
@[simp] theorem State.setR_pubs (r : Nat) (v : Word) (L : Nat) : (s.setR r v L).pubs = s.pubs := rfl
@[simp] theorem State.setR_colls (r : Nat) (v : Word) (L : Nat) : (s.setR r v L).colls = s.colls := rfl
@[simp] theorem State.setR_invs (r : Nat) (v : Word) (L : Nat) : (s.setR r v L).invs = s.invs := rfl
@[simp] theorem State.setR_saves (r : Nat) (v : Word) (L : Nat) : (s.setR r v L).saves = s.saves := rfl
@[simp] theorem State.setR_images (r : Nat) (v : Word) (L : Nat) : (s.setR r v L).images = s.images := rfl
@[simp] theorem State.setR_jseq (r : Nat) (v : Word) (L : Nat) : (s.setR r v L).jseq = s.jseq := rfl
@[simp] theorem State.setR_free (r : Nat) (v : Word) (L : Nat) : (s.setR r v L).free = s.free := rfl
@[simp] theorem State.setR_next (r : Nat) (v : Word) (L : Nat) : (s.setR r v L).next = s.next := rfl

/-! ### setRP -/

@[simp] theorem State.setRP_agenda (r : Nat) (v : Scalar) (L : Nat) : (s.setRP r v L).agenda = s.agenda := rfl
@[simp] theorem State.setRP_cur (r : Nat) (v : Scalar) (L : Nat) : (s.setRP r v L).cur = s.cur := rfl
@[simp] theorem State.setRP_cores (r : Nat) (v : Scalar) (L : Nat) : (s.setRP r v L).cores = s.cores := rfl
@[simp] theorem State.setRP_dies (r : Nat) (v : Scalar) (L : Nat) : (s.setRP r v L).dies = s.dies := rfl
@[simp] theorem State.setRP_chips (r : Nat) (v : Scalar) (L : Nat) : (s.setRP r v L).chips = s.chips := rfl
@[simp] theorem State.setRP_mem (r : Nat) (v : Scalar) (L : Nat) : (s.setRP r v L).mem = s.mem := rfl
@[simp] theorem State.setRP_poison (r : Nat) (v : Scalar) (L : Nat) : (s.setRP r v L).poison = s.poison := rfl
@[simp] theorem State.setRP_bad (r : Nat) (v : Scalar) (L : Nat) : (s.setRP r v L).bad = s.bad := rfl
@[simp] theorem State.setRP_locks (r : Nat) (v : Scalar) (L : Nat) : (s.setRP r v L).locks = s.locks := rfl
@[simp] theorem State.setRP_fifo (r : Nat) (v : Scalar) (L : Nat) : (s.setRP r v L).fifo = s.fifo := rfl
@[simp] theorem State.setRP_pubs (r : Nat) (v : Scalar) (L : Nat) : (s.setRP r v L).pubs = s.pubs := rfl
@[simp] theorem State.setRP_colls (r : Nat) (v : Scalar) (L : Nat) : (s.setRP r v L).colls = s.colls := rfl
@[simp] theorem State.setRP_invs (r : Nat) (v : Scalar) (L : Nat) : (s.setRP r v L).invs = s.invs := rfl
@[simp] theorem State.setRP_saves (r : Nat) (v : Scalar) (L : Nat) : (s.setRP r v L).saves = s.saves := rfl
@[simp] theorem State.setRP_images (r : Nat) (v : Scalar) (L : Nat) : (s.setRP r v L).images = s.images := rfl
@[simp] theorem State.setRP_jseq (r : Nat) (v : Scalar) (L : Nat) : (s.setRP r v L).jseq = s.jseq := rfl
@[simp] theorem State.setRP_free (r : Nat) (v : Scalar) (L : Nat) : (s.setRP r v L).free = s.free := rfl
@[simp] theorem State.setRP_next (r : Nat) (v : Scalar) (L : Nat) : (s.setRP r v L).next = s.next := rfl

/-! ### Reads after updates -/

@[simp] theorem State.setCrew_core (k : Nat) (c : Crew) (j : Nat) : (s.setCrew k c).core j = s.core j := rfl
@[simp] theorem State.setCrew_die (k : Nat) (c : Crew) (j : Nat) : (s.setCrew k c).die j = s.die j := rfl
@[simp] theorem State.setCrew_chip (k : Nat) (c : Crew) (j : Nat) : (s.setCrew k c).chip j = s.chip j := rfl
@[simp] theorem State.setCrew_byte (k : Nat) (c : Crew) (j : Nat) : (s.setCrew k c).byte j = s.byte j := rfl
@[simp] theorem State.setCrew_me (k : Nat) (c : Crew) : (s.setCrew k c).me = s.me := rfl
@[simp] theorem State.setCrew_reg (k : Nat) (c : Crew) (j r' : Nat) : (s.setCrew k c).reg j r' = s.reg j r' := rfl
@[simp] theorem State.setCore_crew (n : Nat) (c : Core) (j : Nat) : (s.setCore n c).crew j = s.crew j := rfl
@[simp] theorem State.setCore_die (n : Nat) (c : Core) (j : Nat) : (s.setCore n c).die j = s.die j := rfl
@[simp] theorem State.setCore_chip (n : Nat) (c : Core) (j : Nat) : (s.setCore n c).chip j = s.chip j := rfl
@[simp] theorem State.setCore_byte (n : Nat) (c : Core) (j : Nat) : (s.setCore n c).byte j = s.byte j := rfl
@[simp] theorem State.setCore_me (n : Nat) (c : Core) : (s.setCore n c).me = s.me := rfl
@[simp] theorem State.setCore_reg (n : Nat) (c : Core) (j r' : Nat) : (s.setCore n c).reg j r' = s.reg j r' := rfl
@[simp] theorem State.setDie_crew (d : Nat) (x : Die) (j : Nat) : (s.setDie d x).crew j = s.crew j := rfl
@[simp] theorem State.setDie_core (d : Nat) (x : Die) (j : Nat) : (s.setDie d x).core j = s.core j := rfl
@[simp] theorem State.setDie_chip (d : Nat) (x : Die) (j : Nat) : (s.setDie d x).chip j = s.chip j := rfl
@[simp] theorem State.setDie_byte (d : Nat) (x : Die) (j : Nat) : (s.setDie d x).byte j = s.byte j := rfl
@[simp] theorem State.setDie_me (d : Nat) (x : Die) : (s.setDie d x).me = s.me := rfl
@[simp] theorem State.setChip_crew (c : Nat) (x : Chip) (j : Nat) : (s.setChip c x).crew j = s.crew j := rfl
@[simp] theorem State.setChip_core (c : Nat) (x : Chip) (j : Nat) : (s.setChip c x).core j = s.core j := rfl
@[simp] theorem State.setChip_die (c : Nat) (x : Chip) (j : Nat) : (s.setChip c x).die j = s.die j := rfl
@[simp] theorem State.setChip_byte (c : Nat) (x : Chip) (j : Nat) : (s.setChip c x).byte j = s.byte j := rfl
@[simp] theorem State.setChip_me (c : Nat) (x : Chip) : (s.setChip c x).me = s.me := rfl
@[simp] theorem State.setChip_reg (c : Nat) (x : Chip) (j r' : Nat) : (s.setChip c x).reg j r' = s.reg j r' := rfl
@[simp] theorem State.modCrew_core (k : Nat) (f : Crew → Crew) (j : Nat) : (s.modCrew k f).core j = s.core j := rfl
@[simp] theorem State.modCrew_die (k : Nat) (f : Crew → Crew) (j : Nat) : (s.modCrew k f).die j = s.die j := rfl
@[simp] theorem State.modCrew_chip (k : Nat) (f : Crew → Crew) (j : Nat) : (s.modCrew k f).chip j = s.chip j := rfl
@[simp] theorem State.modCrew_byte (k : Nat) (f : Crew → Crew) (j : Nat) : (s.modCrew k f).byte j = s.byte j := rfl
@[simp] theorem State.modCrew_me (k : Nat) (f : Crew → Crew) : (s.modCrew k f).me = s.me := rfl
@[simp] theorem State.modCrew_reg (k : Nat) (f : Crew → Crew) (j r' : Nat) : (s.modCrew k f).reg j r' = s.reg j r' := rfl
@[simp] theorem State.modCore_crew (n : Nat) (f : Core → Core) (j : Nat) : (s.modCore n f).crew j = s.crew j := rfl
@[simp] theorem State.modCore_die (n : Nat) (f : Core → Core) (j : Nat) : (s.modCore n f).die j = s.die j := rfl
@[simp] theorem State.modCore_chip (n : Nat) (f : Core → Core) (j : Nat) : (s.modCore n f).chip j = s.chip j := rfl
@[simp] theorem State.modCore_byte (n : Nat) (f : Core → Core) (j : Nat) : (s.modCore n f).byte j = s.byte j := rfl
@[simp] theorem State.modCore_me (n : Nat) (f : Core → Core) : (s.modCore n f).me = s.me := rfl
@[simp] theorem State.modCore_reg (n : Nat) (f : Core → Core) (j r' : Nat) : (s.modCore n f).reg j r' = s.reg j r' := rfl
@[simp] theorem State.modDie_crew (d : Nat) (f : Die → Die) (j : Nat) : (s.modDie d f).crew j = s.crew j := rfl
@[simp] theorem State.modDie_core (d : Nat) (f : Die → Die) (j : Nat) : (s.modDie d f).core j = s.core j := rfl
@[simp] theorem State.modDie_chip (d : Nat) (f : Die → Die) (j : Nat) : (s.modDie d f).chip j = s.chip j := rfl
@[simp] theorem State.modDie_byte (d : Nat) (f : Die → Die) (j : Nat) : (s.modDie d f).byte j = s.byte j := rfl
@[simp] theorem State.modDie_me (d : Nat) (f : Die → Die) : (s.modDie d f).me = s.me := rfl
@[simp] theorem State.modChip_crew (c : Nat) (f : Chip → Chip) (j : Nat) : (s.modChip c f).crew j = s.crew j := rfl
@[simp] theorem State.modChip_core (c : Nat) (f : Chip → Chip) (j : Nat) : (s.modChip c f).core j = s.core j := rfl
@[simp] theorem State.modChip_die (c : Nat) (f : Chip → Chip) (j : Nat) : (s.modChip c f).die j = s.die j := rfl
@[simp] theorem State.modChip_byte (c : Nat) (f : Chip → Chip) (j : Nat) : (s.modChip c f).byte j = s.byte j := rfl
@[simp] theorem State.modChip_me (c : Nat) (f : Chip → Chip) : (s.modChip c f).me = s.me := rfl
@[simp] theorem State.modChip_reg (c : Nat) (f : Chip → Chip) (j r' : Nat) : (s.modChip c f).reg j r' = s.reg j r' := rfl
@[simp] theorem State.setReg_crew (d sel : Nat) (v : Word) (j : Nat) : (s.setReg d sel v).crew j = s.crew j := rfl
@[simp] theorem State.setReg_core (d sel : Nat) (v : Word) (j : Nat) : (s.setReg d sel v).core j = s.core j := rfl
@[simp] theorem State.setReg_chip (d sel : Nat) (v : Word) (j : Nat) : (s.setReg d sel v).chip j = s.chip j := rfl
@[simp] theorem State.setReg_byte (d sel : Nat) (v : Word) (j : Nat) : (s.setReg d sel v).byte j = s.byte j := rfl
@[simp] theorem State.setReg_me (d sel : Nat) (v : Word) : (s.setReg d sel v).me = s.me := rfl
@[simp] theorem State.setByte_crew (p : Nat) (b : Byte) (j : Nat) : (s.setByte p b).crew j = s.crew j := rfl
@[simp] theorem State.setByte_core (p : Nat) (b : Byte) (j : Nat) : (s.setByte p b).core j = s.core j := rfl
@[simp] theorem State.setByte_die (p : Nat) (b : Byte) (j : Nat) : (s.setByte p b).die j = s.die j := rfl
@[simp] theorem State.setByte_chip (p : Nat) (b : Byte) (j : Nat) : (s.setByte p b).chip j = s.chip j := rfl
@[simp] theorem State.setByte_me (p : Nat) (b : Byte) : (s.setByte p b).me = s.me := rfl
@[simp] theorem State.setByte_reg (p : Nat) (b : Byte) (j r' : Nat) : (s.setByte p b).reg j r' = s.reg j r' := rfl
@[simp] theorem State.setSeqr_core (q : Seqr) (j : Nat) : (s.setSeqr q).core j = s.core j := rfl
@[simp] theorem State.setSeqr_die (q : Seqr) (j : Nat) : (s.setSeqr q).die j = s.die j := rfl
@[simp] theorem State.setSeqr_chip (q : Seqr) (j : Nat) : (s.setSeqr q).chip j = s.chip j := rfl
@[simp] theorem State.setSeqr_byte (q : Seqr) (j : Nat) : (s.setSeqr q).byte j = s.byte j := rfl
@[simp] theorem State.setSeqr_me (q : Seqr) : (s.setSeqr q).me = s.me := rfl
@[simp] theorem State.setSeqr_reg (q : Seqr) (j r' : Nat) : (s.setSeqr q).reg j r' = s.reg j r' := rfl
@[simp] theorem State.modSeqr_core (f : Seqr → Seqr) (j : Nat) : (s.modSeqr f).core j = s.core j := rfl
@[simp] theorem State.modSeqr_die (f : Seqr → Seqr) (j : Nat) : (s.modSeqr f).die j = s.die j := rfl
@[simp] theorem State.modSeqr_chip (f : Seqr → Seqr) (j : Nat) : (s.modSeqr f).chip j = s.chip j := rfl
@[simp] theorem State.modSeqr_byte (f : Seqr → Seqr) (j : Nat) : (s.modSeqr f).byte j = s.byte j := rfl
@[simp] theorem State.modSeqr_me (f : Seqr → Seqr) : (s.modSeqr f).me = s.me := rfl
@[simp] theorem State.modSeqr_reg (f : Seqr → Seqr) (j r' : Nat) : (s.modSeqr f).reg j r' = s.reg j r' := rfl
@[simp] theorem State.modMe_core (f : Crew → Crew) (j : Nat) : (s.modMe f).core j = s.core j := rfl
@[simp] theorem State.modMe_die (f : Crew → Crew) (j : Nat) : (s.modMe f).die j = s.die j := rfl
@[simp] theorem State.modMe_chip (f : Crew → Crew) (j : Nat) : (s.modMe f).chip j = s.chip j := rfl
@[simp] theorem State.modMe_byte (f : Crew → Crew) (j : Nat) : (s.modMe f).byte j = s.byte j := rfl
@[simp] theorem State.modMe_me (f : Crew → Crew) : (s.modMe f).me = s.me := rfl
@[simp] theorem State.modMe_reg (f : Crew → Crew) (j r' : Nat) : (s.modMe f).reg j r' = s.reg j r' := rfl
@[simp] theorem State.setR_core (r : Nat) (v : Word) (L : Nat) (j : Nat) : (s.setR r v L).core j = s.core j := rfl
@[simp] theorem State.setR_die (r : Nat) (v : Word) (L : Nat) (j : Nat) : (s.setR r v L).die j = s.die j := rfl
@[simp] theorem State.setR_chip (r : Nat) (v : Word) (L : Nat) (j : Nat) : (s.setR r v L).chip j = s.chip j := rfl
@[simp] theorem State.setR_byte (r : Nat) (v : Word) (L : Nat) (j : Nat) : (s.setR r v L).byte j = s.byte j := rfl
@[simp] theorem State.setR_me (r : Nat) (v : Word) (L : Nat) : (s.setR r v L).me = s.me := rfl
@[simp] theorem State.setR_reg (r : Nat) (v : Word) (L : Nat) (j r' : Nat) : (s.setR r v L).reg j r' = s.reg j r' := rfl
@[simp] theorem State.setRP_core (r : Nat) (v : Scalar) (L : Nat) (j : Nat) : (s.setRP r v L).core j = s.core j := rfl
@[simp] theorem State.setRP_die (r : Nat) (v : Scalar) (L : Nat) (j : Nat) : (s.setRP r v L).die j = s.die j := rfl
@[simp] theorem State.setRP_chip (r : Nat) (v : Scalar) (L : Nat) (j : Nat) : (s.setRP r v L).chip j = s.chip j := rfl
@[simp] theorem State.setRP_byte (r : Nat) (v : Scalar) (L : Nat) (j : Nat) : (s.setRP r v L).byte j = s.byte j := rfl
@[simp] theorem State.setRP_me (r : Nat) (v : Scalar) (L : Nat) : (s.setRP r v L).me = s.me := rfl
@[simp] theorem State.setRP_reg (r : Nat) (v : Scalar) (L : Nat) (j r' : Nat) : (s.setRP r v L).reg j r' = s.reg j r' := rfl

theorem State.crew_setCrew (k j : Nat) (c : Crew) : (s.setCrew k c).crew j = if j = k then c else s.crew j := by
  simp [State.crew, State.setCrew, get_ins]
@[simp] theorem State.crew_setCrew_self (k : Nat) (c : Crew) : (s.setCrew k c).crew k = c := by simp [State.crew_setCrew]
theorem State.crew_setCrew_of_ne (k : Nat) (c : Crew) {j : Nat} (h : j ≠ k) : (s.setCrew k c).crew j = s.crew j := by
  simp [State.crew_setCrew, h]
theorem State.crew_modCrew (k j : Nat) (f : Crew → Crew) : (s.modCrew k f).crew j = if j = k then f (s.crew k) else s.crew j := by
  simp [State.modCrew, State.crew_setCrew]
@[simp] theorem State.crew_modCrew_self (k : Nat) (f : Crew → Crew) : (s.modCrew k f).crew k = f (s.crew k) := by simp [State.crew_modCrew]
theorem State.crew_modCrew_of_ne (k : Nat) (f : Crew → Crew) {j : Nat} (h : j ≠ k) : (s.modCrew k f).crew j = s.crew j := by
  simp [State.crew_modCrew, h]

theorem State.core_setCore (k j : Nat) (c : Core) : (s.setCore k c).core j = if j = k then c else s.core j := by
  simp [State.core, State.setCore, get_ins]
@[simp] theorem State.core_setCore_self (k : Nat) (c : Core) : (s.setCore k c).core k = c := by simp [State.core_setCore]
theorem State.core_setCore_of_ne (k : Nat) (c : Core) {j : Nat} (h : j ≠ k) : (s.setCore k c).core j = s.core j := by
  simp [State.core_setCore, h]
theorem State.core_modCore (k j : Nat) (f : Core → Core) : (s.modCore k f).core j = if j = k then f (s.core k) else s.core j := by
  simp [State.modCore, State.core_setCore]
@[simp] theorem State.core_modCore_self (k : Nat) (f : Core → Core) : (s.modCore k f).core k = f (s.core k) := by simp [State.core_modCore]
theorem State.core_modCore_of_ne (k : Nat) (f : Core → Core) {j : Nat} (h : j ≠ k) : (s.modCore k f).core j = s.core j := by
  simp [State.core_modCore, h]

theorem State.die_setDie (k j : Nat) (c : Die) : (s.setDie k c).die j = if j = k then c else s.die j := by
  simp [State.die, State.setDie, get_ins]
@[simp] theorem State.die_setDie_self (k : Nat) (c : Die) : (s.setDie k c).die k = c := by simp [State.die_setDie]
theorem State.die_setDie_of_ne (k : Nat) (c : Die) {j : Nat} (h : j ≠ k) : (s.setDie k c).die j = s.die j := by
  simp [State.die_setDie, h]
theorem State.die_modDie (k j : Nat) (f : Die → Die) : (s.modDie k f).die j = if j = k then f (s.die k) else s.die j := by
  simp [State.modDie, State.die_setDie]
@[simp] theorem State.die_modDie_self (k : Nat) (f : Die → Die) : (s.modDie k f).die k = f (s.die k) := by simp [State.die_modDie]
theorem State.die_modDie_of_ne (k : Nat) (f : Die → Die) {j : Nat} (h : j ≠ k) : (s.modDie k f).die j = s.die j := by
  simp [State.die_modDie, h]

theorem State.chip_setChip (k j : Nat) (c : Chip) : (s.setChip k c).chip j = if j = k then c else s.chip j := by
  simp [State.chip, State.setChip, get_ins]
@[simp] theorem State.chip_setChip_self (k : Nat) (c : Chip) : (s.setChip k c).chip k = c := by simp [State.chip_setChip]
theorem State.chip_setChip_of_ne (k : Nat) (c : Chip) {j : Nat} (h : j ≠ k) : (s.setChip k c).chip j = s.chip j := by
  simp [State.chip_setChip, h]
theorem State.chip_modChip (k j : Nat) (f : Chip → Chip) : (s.modChip k f).chip j = if j = k then f (s.chip k) else s.chip j := by
  simp [State.modChip, State.chip_setChip]
@[simp] theorem State.chip_modChip_self (k : Nat) (f : Chip → Chip) : (s.modChip k f).chip k = f (s.chip k) := by simp [State.chip_modChip]
theorem State.chip_modChip_of_ne (k : Nat) (f : Chip → Chip) {j : Nat} (h : j ≠ k) : (s.modChip k f).chip j = s.chip j := by
  simp [State.chip_modChip, h]

theorem State.reg_setReg (d sel : Nat) (v : Word) (d' sel' : Nat) :
    (s.setReg d sel v).reg d' sel' = if d' = d ∧ sel' = sel then v else s.reg d' sel' := by
  unfold State.reg State.setReg
  rw [State.die_modDie]
  by_cases h : d' = d
  · subst h; simp [get_put]
  · simp [h]

theorem State.byte_setByte (p q : Nat) (b : Byte) : (s.setByte p b).byte q = if q = p then b else s.byte q := by
  simp [State.byte, State.setByte, get_put]

/-! ### Orders of arrival -/

@[simp] theorem State.queueUp_agenda (r : Nat) (ps : List Nat) : (s.queueUp r ps).agenda = s.agenda := rfl
@[simp] theorem State.queueUp_cur (r : Nat) (ps : List Nat) : (s.queueUp r ps).cur = s.cur := rfl
@[simp] theorem State.queueUp_crews (r : Nat) (ps : List Nat) : (s.queueUp r ps).crews = s.crews := rfl
@[simp] theorem State.queueUp_cores (r : Nat) (ps : List Nat) : (s.queueUp r ps).cores = s.cores := rfl
@[simp] theorem State.queueUp_dies (r : Nat) (ps : List Nat) : (s.queueUp r ps).dies = s.dies := rfl
@[simp] theorem State.queueUp_chips (r : Nat) (ps : List Nat) : (s.queueUp r ps).chips = s.chips := rfl
@[simp] theorem State.queueUp_mem (r : Nat) (ps : List Nat) : (s.queueUp r ps).mem = s.mem := rfl
@[simp] theorem State.queueUp_poison (r : Nat) (ps : List Nat) : (s.queueUp r ps).poison = s.poison := rfl
@[simp] theorem State.queueUp_bad (r : Nat) (ps : List Nat) : (s.queueUp r ps).bad = s.bad := rfl
@[simp] theorem State.queueUp_locks (r : Nat) (ps : List Nat) : (s.queueUp r ps).locks = s.locks := rfl
@[simp] theorem State.queueUp_pubs (r : Nat) (ps : List Nat) : (s.queueUp r ps).pubs = s.pubs := rfl
@[simp] theorem State.queueUp_colls (r : Nat) (ps : List Nat) : (s.queueUp r ps).colls = s.colls := rfl
@[simp] theorem State.queueUp_invs (r : Nat) (ps : List Nat) : (s.queueUp r ps).invs = s.invs := rfl
@[simp] theorem State.queueUp_saves (r : Nat) (ps : List Nat) : (s.queueUp r ps).saves = s.saves := rfl
@[simp] theorem State.queueUp_images (r : Nat) (ps : List Nat) : (s.queueUp r ps).images = s.images := rfl
@[simp] theorem State.queueUp_jseq (r : Nat) (ps : List Nat) : (s.queueUp r ps).jseq = s.jseq := rfl
@[simp] theorem State.queueUp_free (r : Nat) (ps : List Nat) : (s.queueUp r ps).free = s.free := rfl
@[simp] theorem State.queueUp_next (r : Nat) (ps : List Nat) : (s.queueUp r ps).next = s.next := rfl
@[simp] theorem State.queueUp_crew (r : Nat) (ps : List Nat) (j : Nat) : (s.queueUp r ps).crew j = s.crew j := rfl
@[simp] theorem State.queueUp_core (r : Nat) (ps : List Nat) (j : Nat) : (s.queueUp r ps).core j = s.core j := rfl
@[simp] theorem State.queueUp_die (r : Nat) (ps : List Nat) (j : Nat) : (s.queueUp r ps).die j = s.die j := rfl
@[simp] theorem State.queueUp_chip (r : Nat) (ps : List Nat) (j : Nat) : (s.queueUp r ps).chip j = s.chip j := rfl
@[simp] theorem State.queueUp_byte (r : Nat) (ps : List Nat) (j : Nat) : (s.queueUp r ps).byte j = s.byte j := rfl

@[simp] theorem State.queueAll_agenda (r : Nat) (ps : List Nat) : (s.queueAll r ps).agenda = s.agenda := rfl
@[simp] theorem State.queueAll_cur (r : Nat) (ps : List Nat) : (s.queueAll r ps).cur = s.cur := rfl
@[simp] theorem State.queueAll_crews (r : Nat) (ps : List Nat) : (s.queueAll r ps).crews = s.crews := rfl
@[simp] theorem State.queueAll_cores (r : Nat) (ps : List Nat) : (s.queueAll r ps).cores = s.cores := rfl
@[simp] theorem State.queueAll_dies (r : Nat) (ps : List Nat) : (s.queueAll r ps).dies = s.dies := rfl
@[simp] theorem State.queueAll_chips (r : Nat) (ps : List Nat) : (s.queueAll r ps).chips = s.chips := rfl
@[simp] theorem State.queueAll_mem (r : Nat) (ps : List Nat) : (s.queueAll r ps).mem = s.mem := rfl
@[simp] theorem State.queueAll_poison (r : Nat) (ps : List Nat) : (s.queueAll r ps).poison = s.poison := rfl
@[simp] theorem State.queueAll_bad (r : Nat) (ps : List Nat) : (s.queueAll r ps).bad = s.bad := rfl
@[simp] theorem State.queueAll_locks (r : Nat) (ps : List Nat) : (s.queueAll r ps).locks = s.locks := rfl
@[simp] theorem State.queueAll_pubs (r : Nat) (ps : List Nat) : (s.queueAll r ps).pubs = s.pubs := rfl
@[simp] theorem State.queueAll_colls (r : Nat) (ps : List Nat) : (s.queueAll r ps).colls = s.colls := rfl
@[simp] theorem State.queueAll_invs (r : Nat) (ps : List Nat) : (s.queueAll r ps).invs = s.invs := rfl
@[simp] theorem State.queueAll_saves (r : Nat) (ps : List Nat) : (s.queueAll r ps).saves = s.saves := rfl
@[simp] theorem State.queueAll_images (r : Nat) (ps : List Nat) : (s.queueAll r ps).images = s.images := rfl
@[simp] theorem State.queueAll_jseq (r : Nat) (ps : List Nat) : (s.queueAll r ps).jseq = s.jseq := rfl
@[simp] theorem State.queueAll_free (r : Nat) (ps : List Nat) : (s.queueAll r ps).free = s.free := rfl
@[simp] theorem State.queueAll_next (r : Nat) (ps : List Nat) : (s.queueAll r ps).next = s.next := rfl
@[simp] theorem State.queueAll_crew (r : Nat) (ps : List Nat) (j : Nat) : (s.queueAll r ps).crew j = s.crew j := rfl
@[simp] theorem State.queueAll_core (r : Nat) (ps : List Nat) (j : Nat) : (s.queueAll r ps).core j = s.core j := rfl
@[simp] theorem State.queueAll_die (r : Nat) (ps : List Nat) (j : Nat) : (s.queueAll r ps).die j = s.die j := rfl
@[simp] theorem State.queueAll_chip (r : Nat) (ps : List Nat) (j : Nat) : (s.queueAll r ps).chip j = s.chip j := rfl
@[simp] theorem State.queueAll_byte (r : Nat) (ps : List Nat) (j : Nat) : (s.queueAll r ps).byte j = s.byte j := rfl

@[simp] theorem State.leave_agenda (r : Nat) (ps : List Nat) : (s.leave r ps).agenda = s.agenda := by unfold State.leave; split <;> rfl
@[simp] theorem State.leave_cur (r : Nat) (ps : List Nat) : (s.leave r ps).cur = s.cur := by unfold State.leave; split <;> rfl
@[simp] theorem State.leave_crews (r : Nat) (ps : List Nat) : (s.leave r ps).crews = s.crews := by unfold State.leave; split <;> rfl
@[simp] theorem State.leave_cores (r : Nat) (ps : List Nat) : (s.leave r ps).cores = s.cores := by unfold State.leave; split <;> rfl
@[simp] theorem State.leave_dies (r : Nat) (ps : List Nat) : (s.leave r ps).dies = s.dies := by unfold State.leave; split <;> rfl
@[simp] theorem State.leave_chips (r : Nat) (ps : List Nat) : (s.leave r ps).chips = s.chips := by unfold State.leave; split <;> rfl
@[simp] theorem State.leave_mem (r : Nat) (ps : List Nat) : (s.leave r ps).mem = s.mem := by unfold State.leave; split <;> rfl
@[simp] theorem State.leave_poison (r : Nat) (ps : List Nat) : (s.leave r ps).poison = s.poison := by unfold State.leave; split <;> rfl
@[simp] theorem State.leave_bad (r : Nat) (ps : List Nat) : (s.leave r ps).bad = s.bad := by unfold State.leave; split <;> rfl
@[simp] theorem State.leave_locks (r : Nat) (ps : List Nat) : (s.leave r ps).locks = s.locks := by unfold State.leave; split <;> rfl
@[simp] theorem State.leave_pubs (r : Nat) (ps : List Nat) : (s.leave r ps).pubs = s.pubs := by unfold State.leave; split <;> rfl
@[simp] theorem State.leave_colls (r : Nat) (ps : List Nat) : (s.leave r ps).colls = s.colls := by unfold State.leave; split <;> rfl
@[simp] theorem State.leave_invs (r : Nat) (ps : List Nat) : (s.leave r ps).invs = s.invs := by unfold State.leave; split <;> rfl
@[simp] theorem State.leave_saves (r : Nat) (ps : List Nat) : (s.leave r ps).saves = s.saves := by unfold State.leave; split <;> rfl
@[simp] theorem State.leave_images (r : Nat) (ps : List Nat) : (s.leave r ps).images = s.images := by unfold State.leave; split <;> rfl
@[simp] theorem State.leave_jseq (r : Nat) (ps : List Nat) : (s.leave r ps).jseq = s.jseq := by unfold State.leave; split <;> rfl
@[simp] theorem State.leave_free (r : Nat) (ps : List Nat) : (s.leave r ps).free = s.free := by unfold State.leave; split <;> rfl
@[simp] theorem State.leave_next (r : Nat) (ps : List Nat) : (s.leave r ps).next = s.next := by unfold State.leave; split <;> rfl
@[simp] theorem State.leave_crew (r : Nat) (ps : List Nat) (j : Nat) : (s.leave r ps).crew j = s.crew j := by unfold State.leave; split <;> rfl
@[simp] theorem State.leave_core (r : Nat) (ps : List Nat) (j : Nat) : (s.leave r ps).core j = s.core j := by unfold State.leave; split <;> rfl
@[simp] theorem State.leave_die (r : Nat) (ps : List Nat) (j : Nat) : (s.leave r ps).die j = s.die j := by unfold State.leave; split <;> rfl
@[simp] theorem State.leave_chip (r : Nat) (ps : List Nat) (j : Nat) : (s.leave r ps).chip j = s.chip j := by unfold State.leave; split <;> rfl
@[simp] theorem State.leave_byte (r : Nat) (ps : List Nat) (j : Nat) : (s.leave r ps).byte j = s.byte j := by unfold State.leave; split <;> rfl

@[simp] theorem State.leaveAll_agenda (r : Nat) : (s.leaveAll r).agenda = s.agenda := by unfold State.leaveAll; split <;> rfl
@[simp] theorem State.leaveAll_cur (r : Nat) : (s.leaveAll r).cur = s.cur := by unfold State.leaveAll; split <;> rfl
@[simp] theorem State.leaveAll_crews (r : Nat) : (s.leaveAll r).crews = s.crews := by unfold State.leaveAll; split <;> rfl
@[simp] theorem State.leaveAll_cores (r : Nat) : (s.leaveAll r).cores = s.cores := by unfold State.leaveAll; split <;> rfl
@[simp] theorem State.leaveAll_dies (r : Nat) : (s.leaveAll r).dies = s.dies := by unfold State.leaveAll; split <;> rfl
@[simp] theorem State.leaveAll_chips (r : Nat) : (s.leaveAll r).chips = s.chips := by unfold State.leaveAll; split <;> rfl
@[simp] theorem State.leaveAll_mem (r : Nat) : (s.leaveAll r).mem = s.mem := by unfold State.leaveAll; split <;> rfl
@[simp] theorem State.leaveAll_poison (r : Nat) : (s.leaveAll r).poison = s.poison := by unfold State.leaveAll; split <;> rfl
@[simp] theorem State.leaveAll_bad (r : Nat) : (s.leaveAll r).bad = s.bad := by unfold State.leaveAll; split <;> rfl
@[simp] theorem State.leaveAll_locks (r : Nat) : (s.leaveAll r).locks = s.locks := by unfold State.leaveAll; split <;> rfl
@[simp] theorem State.leaveAll_pubs (r : Nat) : (s.leaveAll r).pubs = s.pubs := by unfold State.leaveAll; split <;> rfl
@[simp] theorem State.leaveAll_colls (r : Nat) : (s.leaveAll r).colls = s.colls := by unfold State.leaveAll; split <;> rfl
@[simp] theorem State.leaveAll_invs (r : Nat) : (s.leaveAll r).invs = s.invs := by unfold State.leaveAll; split <;> rfl
@[simp] theorem State.leaveAll_saves (r : Nat) : (s.leaveAll r).saves = s.saves := by unfold State.leaveAll; split <;> rfl
@[simp] theorem State.leaveAll_images (r : Nat) : (s.leaveAll r).images = s.images := by unfold State.leaveAll; split <;> rfl
@[simp] theorem State.leaveAll_jseq (r : Nat) : (s.leaveAll r).jseq = s.jseq := by unfold State.leaveAll; split <;> rfl
@[simp] theorem State.leaveAll_free (r : Nat) : (s.leaveAll r).free = s.free := by unfold State.leaveAll; split <;> rfl
@[simp] theorem State.leaveAll_next (r : Nat) : (s.leaveAll r).next = s.next := by unfold State.leaveAll; split <;> rfl
@[simp] theorem State.leaveAll_crew (r : Nat) (j : Nat) : (s.leaveAll r).crew j = s.crew j := by unfold State.leaveAll; split <;> rfl
@[simp] theorem State.leaveAll_core (r : Nat) (j : Nat) : (s.leaveAll r).core j = s.core j := by unfold State.leaveAll; split <;> rfl
@[simp] theorem State.leaveAll_die (r : Nat) (j : Nat) : (s.leaveAll r).die j = s.die j := by unfold State.leaveAll; split <;> rfl
@[simp] theorem State.leaveAll_chip (r : Nat) (j : Nat) : (s.leaveAll r).chip j = s.chip j := by unfold State.leaveAll; split <;> rfl
@[simp] theorem State.leaveAll_byte (r : Nat) (j : Nat) : (s.leaveAll r).byte j = s.byte j := by unfold State.leaveAll; split <;> rfl

/-! ### Sequencers -/

@[simp] theorem Seqr.write_run (q : Seqr) (r : Nat) (v : Scalar) (L : Nat) : (q.write r v L).run = q.run := by unfold Seqr.write; split <;> rfl
@[simp] theorem Seqr.write_pc (q : Seqr) (r : Nat) (v : Scalar) (L : Nat) : (q.write r v L).pc = q.pc := by unfold Seqr.write; split <;> rfl
@[simp] theorem Seqr.write_busy (q : Seqr) (r : Nat) (v : Scalar) (L : Nat) : (q.write r v L).busy = q.busy := by unfold Seqr.write; split <;> rfl
@[simp] theorem Seqr.write_loops (q : Seqr) (r : Nat) (v : Scalar) (L : Nat) : (q.write r v L).loops = q.loops := by unfold Seqr.write; split <;> rfl
@[simp] theorem Seqr.write_vl (q : Seqr) (r : Nat) (v : Scalar) (L : Nat) : (q.write r v L).vl = q.vl := by unfold Seqr.write; split <;> rfl
@[simp] theorem Seqr.write_vtype (q : Seqr) (r : Nat) (v : Scalar) (L : Nat) : (q.write r v L).vtype = q.vtype := by unfold Seqr.write; split <;> rfl
@[simp] theorem Seqr.write_share (q : Seqr) (r : Nat) (v : Scalar) (L : Nat) : (q.write r v L).share = q.share := by unfold Seqr.write; split <;> rfl
@[simp] theorem Seqr.write_wait (q : Seqr) (r : Nat) (v : Scalar) (L : Nat) : (q.write r v L).wait = q.wait := by unfold Seqr.write; split <;> rfl
@[simp] theorem Seqr.write_taken (q : Seqr) (r : Nat) (v : Scalar) (L : Nat) : (q.write r v L).taken = q.taken := by unfold Seqr.write; split <;> rfl
@[simp] theorem Seqr.write_elig (q : Seqr) (r : Nat) (v : Scalar) (L : Nat) : (q.write r v L).elig = q.elig := by unfold Seqr.write; split <;> rfl
@[simp] theorem Seqr.write_iter (q : Seqr) (r : Nat) (v : Scalar) (L : Nat) : (q.write r v L).iter = q.iter := by unfold Seqr.write; split <;> rfl
@[simp] theorem Seqr.write_lines (q : Seqr) (r : Nat) (v : Scalar) (L : Nat) : (q.write r v L).lines = q.lines := by unfold Seqr.write; split <;> rfl

@[simp] theorem Seqr.tick_run (q : Seqr) (st : Nat) : (q.tick st).run = q.run := rfl
@[simp] theorem Seqr.tick_pc (q : Seqr) (st : Nat) : (q.tick st).pc = q.pc := rfl
@[simp] theorem Seqr.tick_regs (q : Seqr) (st : Nat) : (q.tick st).regs = q.regs := rfl
@[simp] theorem Seqr.tick_busy (q : Seqr) (st : Nat) : (q.tick st).busy = q.busy := rfl
@[simp] theorem Seqr.tick_loops (q : Seqr) (st : Nat) : (q.tick st).loops = q.loops := rfl
@[simp] theorem Seqr.tick_vl (q : Seqr) (st : Nat) : (q.tick st).vl = q.vl := rfl
@[simp] theorem Seqr.tick_vtype (q : Seqr) (st : Nat) : (q.tick st).vtype = q.vtype := rfl
@[simp] theorem Seqr.tick_share (q : Seqr) (st : Nat) : (q.tick st).share = q.share := rfl
@[simp] theorem Seqr.tick_wait (q : Seqr) (st : Nat) : (q.tick st).wait = q.wait := rfl
@[simp] theorem Seqr.tick_taken (q : Seqr) (st : Nat) : (q.tick st).taken = q.taken := rfl
@[simp] theorem Seqr.tick_elig (q : Seqr) (st : Nat) : (q.tick st).elig = q.elig := rfl
@[simp] theorem Seqr.tick_iter (q : Seqr) (st : Nat) : (q.tick st).iter = q.iter := rfl
@[simp] theorem Seqr.tick_lines (q : Seqr) (st : Nat) : (q.tick st).lines = q.lines := rfl

@[simp] theorem Seqr.mature_run (q : Seqr)  : (q.mature ).run = q.run := rfl
@[simp] theorem Seqr.mature_pc (q : Seqr)  : (q.mature ).pc = q.pc := rfl
@[simp] theorem Seqr.mature_regs (q : Seqr)  : (q.mature ).regs = q.regs := rfl
@[simp] theorem Seqr.mature_busy (q : Seqr)  : (q.mature ).busy = q.busy := rfl
@[simp] theorem Seqr.mature_loops (q : Seqr)  : (q.mature ).loops = q.loops := rfl
@[simp] theorem Seqr.mature_vl (q : Seqr)  : (q.mature ).vl = q.vl := rfl
@[simp] theorem Seqr.mature_vtype (q : Seqr)  : (q.mature ).vtype = q.vtype := rfl
@[simp] theorem Seqr.mature_share (q : Seqr)  : (q.mature ).share = q.share := rfl
@[simp] theorem Seqr.mature_wait (q : Seqr)  : (q.mature ).wait = q.wait := rfl
@[simp] theorem Seqr.mature_taken (q : Seqr)  : (q.mature ).taken = q.taken := rfl
@[simp] theorem Seqr.mature_elig (q : Seqr)  : (q.mature ).elig = q.elig := rfl
@[simp] theorem Seqr.mature_iter (q : Seqr)  : (q.mature ).iter = q.iter := rfl
@[simp] theorem Seqr.mature_lines (q : Seqr)  : (q.mature ).lines = q.lines := rfl

@[simp] theorem Seqr.finish_run (q : Seqr) (l : Latch) (e : Bool) : (q.finish l e).run = q.run := by unfold Seqr.finish; rfl
@[simp] theorem Seqr.finish_regs (q : Seqr) (l : Latch) (e : Bool) : (q.finish l e).regs = q.regs := by unfold Seqr.finish; rfl
@[simp] theorem Seqr.finish_busy (q : Seqr) (l : Latch) (e : Bool) : (q.finish l e).busy = q.busy := by unfold Seqr.finish; rfl
@[simp] theorem Seqr.finish_vl (q : Seqr) (l : Latch) (e : Bool) : (q.finish l e).vl = q.vl := by unfold Seqr.finish; rfl
@[simp] theorem Seqr.finish_vtype (q : Seqr) (l : Latch) (e : Bool) : (q.finish l e).vtype = q.vtype := by unfold Seqr.finish; rfl
@[simp] theorem Seqr.finish_share (q : Seqr) (l : Latch) (e : Bool) : (q.finish l e).share = q.share := by unfold Seqr.finish; rfl

@[simp] theorem Seqr.jump_run (q : Seqr) (st : Nat) (t : Word) : (q.jump st t).run = q.run := rfl
@[simp] theorem Seqr.jump_regs (q : Seqr) (st : Nat) (t : Word) : (q.jump st t).regs = q.regs := rfl
@[simp] theorem Seqr.jump_busy (q : Seqr) (st : Nat) (t : Word) : (q.jump st t).busy = q.busy := rfl
@[simp] theorem Seqr.jump_loops (q : Seqr) (st : Nat) (t : Word) : (q.jump st t).loops = q.loops := rfl
@[simp] theorem Seqr.jump_vl (q : Seqr) (st : Nat) (t : Word) : (q.jump st t).vl = q.vl := rfl
@[simp] theorem Seqr.jump_vtype (q : Seqr) (st : Nat) (t : Word) : (q.jump st t).vtype = q.vtype := rfl
@[simp] theorem Seqr.jump_share (q : Seqr) (st : Nat) (t : Word) : (q.jump st t).share = q.share := rfl

@[simp] theorem Seqr.skip_run (q : Seqr) (st : Nat) (t : Word) : (q.skip st t).run = q.run := rfl
@[simp] theorem Seqr.skip_regs (q : Seqr) (st : Nat) (t : Word) : (q.skip st t).regs = q.regs := rfl
@[simp] theorem Seqr.skip_busy (q : Seqr) (st : Nat) (t : Word) : (q.skip st t).busy = q.busy := rfl
@[simp] theorem Seqr.skip_loops (q : Seqr) (st : Nat) (t : Word) : (q.skip st t).loops = q.loops := rfl
@[simp] theorem Seqr.skip_vl (q : Seqr) (st : Nat) (t : Word) : (q.skip st t).vl = q.vl := rfl
@[simp] theorem Seqr.skip_vtype (q : Seqr) (st : Nat) (t : Word) : (q.skip st t).vtype = q.vtype := rfl
@[simp] theorem Seqr.skip_share (q : Seqr) (st : Nat) (t : Word) : (q.skip st t).share = q.share := rfl
@[simp] theorem Seqr.skip_lines (q : Seqr) (st : Nat) (t : Word) : (q.skip st t).lines = q.lines := rfl

@[simp] theorem Seqr.reg_tick (q : Seqr) (st r : Nat) : (q.tick st).reg r = q.reg r := rfl
@[simp] theorem Seqr.reg_finish (q : Seqr) (l : Latch) (e : Bool) (r : Nat) : (q.finish l e).reg r = q.reg r := by unfold Seqr.finish; rfl
@[simp] theorem Seqr.reg_jump (q : Seqr) (st : Nat) (t : Word) (r : Nat) : (q.jump st t).reg r = q.reg r := rfl
@[simp] theorem Seqr.reg_skip (q : Seqr) (st : Nat) (t : Word) (r : Nat) : (q.skip st t).reg r = q.reg r := rfl
@[simp] theorem Seqr.reg_zero (q : Seqr) : q.reg 0 = {} := rfl
@[simp] theorem Seqr.read_zero (q : Seqr) : q.read 0 = {} := rfl

theorem Seqr.reg_write (q : Seqr) (r j : Nat) (v : Scalar) (L : Nat) :
    (q.write r v L).reg j = if j = r ∧ r ≠ 0 then v else q.reg j := by
  unfold Seqr.write
  by_cases hr : r = 0
  · simp [hr]
  · by_cases hj : j = 0
    · subst hj; simp [Seqr.reg, Ne.symm hr]
    · simp [Seqr.reg, hr, hj, get_put]

@[simp] theorem Crew.seq_setSeq (c : Crew) (xs : Bool) (q : Seqr) : (c.setSeq xs q).seq xs = q := by
  cases xs <;> rfl
theorem Crew.seq_setSeq_other (c : Crew) (xs : Bool) (q : Seqr) : (c.setSeq xs q).seq (!xs) = c.seq (!xs) := by
  cases xs <;> rfl
@[simp] theorem Crew.setSeq_setSeq (c : Crew) (xs : Bool) (p q : Seqr) : (c.setSeq xs p).setSeq xs q = c.setSeq xs q := by
  cases xs <;> rfl

@[simp] theorem State.myCrew_setSeqr (q : Seqr) : (s.setSeqr q).myCrew = s.myCrew.setSeq s.cur.xs q := by
  simp [State.myCrew, State.setSeqr]
@[simp] theorem State.seqr_setSeqr (q : Seqr) : (s.setSeqr q).seqr = q := by
  simp [State.seqr]
@[simp] theorem State.seqr_modSeqr (f : Seqr → Seqr) : (s.modSeqr f).seqr = f s.seqr := by
  simp [State.modSeqr]

@[simp] theorem ins_ins (m : SMap α) (n : Nat) (v w : α) : ins (ins m n v) n w = ins m n w := by
  induction m with
  | nil => simp [ins]
  | cons e r ih =>
    obtain ⟨k, x⟩ := e
    by_cases h : k = n
    · simp [ins, h]
    · by_cases h' : n < k
      · simp [ins, h, h']
      · simp [ins, h, h', ih]

@[simp] theorem State.setCrew_setCrew (k : Nat) (c c' : Crew) : (s.setCrew k c).setCrew k c' = s.setCrew k c' := by
  simp [State.setCrew]
@[simp] theorem State.setSeqr_setSeqr (p q : Seqr) : (s.setSeqr p).setSeqr q = s.setSeqr q := by
  simp [State.setSeqr, State.modCrew, State.setCrew, State.crew, State.me]
@[simp] theorem State.modSeqr_modSeqr (f g : Seqr → Seqr) : (s.modSeqr f).modSeqr g = s.modSeqr (fun q => g (f q)) := by
  simp [State.modSeqr]
theorem State.modSeqr_eq (f : Seqr → Seqr) : s.modSeqr f = s.setSeqr (f s.seqr) := rfl

end Sys2Proof.Machine
end

