-- ==== Sys2Proof/Laws/Memory.lean ====
section
/-!
SUPPORT. What the memory operations do: a write gives the bytes written and leaves every other byte, and every operation
keeps the canonical form of memory (Memory.wf).
-/
namespace Sys2Proof.Machine

variable (s : State)

theorem Memory.wf_setByte (p : Nat) (b : Byte) (h : Memory.wf s.mem = true) : Memory.wf (s.setByte p b).mem = true :=
  wf_put emptyByte s.mem p b h

theorem Memory.wf_setBytes (l : List (Nat × Byte)) (h : Memory.wf s.mem = true) : Memory.wf (s.setBytes l).mem = true := by
  induction l generalizing s with
  | nil => exact h
  | cons e r ih => exact ih _ (Memory.wf_setByte s e.1 e.2 h)

@[simp] theorem State.markWord_mem (c : List (Nat × VByte)) (w : Nat) : (s.markWord c w).mem = s.mem := by
  unfold State.markWord; dsimp only; split
  · rfl
  · split <;> rfl

@[simp] theorem State.markWords_mem (c : List (Nat × VByte)) (ws : List Nat) : (s.markWords c ws).mem = s.mem := by
  induction ws generalizing s with
  | nil => rfl
  | cons w r ih => exact (ih (s.markWord c w)).trans (s.markWord_mem c w)

@[simp] theorem State.write_mem (c : List (Nat × VByte)) :
    (s.write c).mem = (s.setBytes (c.map (fun c => (c.1, c.2.b)))).mem := by simp [State.write]

theorem Memory.wf_write (c : List (Nat × VByte)) (h : Memory.wf s.mem = true) : Memory.wf (s.write c).mem = true := by
  simpa using Memory.wf_setBytes s _ h

/-- A fold of steps that keep memory keeps memory. -/
theorem foldl_mem (f : State → α → State) (hf : ∀ s x, (f s x).mem = s.mem) (l : List α) : (l.foldl f s).mem = s.mem := by
  induction l generalizing s with
  | nil => rfl
  | cons x r ih => exact (ih (f s x)).trans (hf s x)

@[simp] theorem State.dropCopies_mem (ps : List Nat) : (s.dropCopies ps).mem = s.mem := by
  unfold State.dropCopies; split <;> rfl

theorem Memory.wf_perform (c : List (Nat × VByte)) (h : Memory.wf s.mem = true) : Memory.wf (s.perform c).mem = true := by
  unfold State.perform
  exact Memory.wf_write _ c (by simpa using h)

theorem Memory.wf_filter (m : SMap Byte) (p : Nat → Bool) (h : Memory.wf m = true) :
    Memory.wf (m.filter (fun e => p e.1)) = true := Sys2Proof.Machine.wf_filter emptyByte m _ h

theorem State.byte_setBytes_of_not_mem (l : List (Nat × Byte)) (p : Nat) (h : p ∉ l.map (·.1)) :
    (s.setBytes l).byte p = s.byte p := by
  induction l generalizing s with
  | nil => rfl
  | cons e r ih =>
    simp only [List.map_cons, List.mem_cons, not_or] at h
    show ((s.setByte e.1 e.2).setBytes r).byte p = s.byte p
    rw [ih _ h.2, State.byte_setByte, if_neg h.1]

theorem State.byte_write_of_not_mem (c : List (Nat × VByte)) (p : Nat) (h : p ∉ c.map (·.1)) :
    (s.write c).byte p = s.byte p := by
  have : (s.write c).byte p = (s.setBytes (c.map (fun c => (c.1, c.2.b)))).byte p := by
    simp [State.byte]
  rw [this]
  exact State.byte_setBytes_of_not_mem s _ p (by simpa [List.map_map] using h)

theorem State.byte_perform_of_not_mem (c : List (Nat × VByte)) (p : Nat) (h : p ∉ c.map (·.1)) :
    (s.perform c).byte p = s.byte p := by
  unfold State.perform
  rw [State.byte_write_of_not_mem _ c p h]
  simp [State.byte]

/-- Where each place is written once, a write gives every byte written. -/
theorem State.byte_setBytes_of_mem (l : List (Nat × Byte)) (e : Nat × Byte) (he : e ∈ l) (hn : (l.map (·.1)).Nodup) :
    (s.setBytes l).byte e.1 = e.2 := by
  induction l generalizing s with
  | nil => cases he
  | cons a r ih =>
    simp only [List.map_cons, List.nodup_cons] at hn
    show ((s.setByte a.1 a.2).setBytes r).byte e.1 = e.2
    rcases List.mem_cons.1 he with rfl | he
    · rw [State.byte_setBytes_of_not_mem _ _ _ hn.1, State.byte_setByte, if_pos rfl]
    · exact ih _ he hn.2

end Sys2Proof.Machine
end

