-- ==== Sys2Proof/Laws/Ops.lean ====
section
/-!
SUPPORT. What each shared operation of an instruction can do, said once: reading operands, completing, jumping, writing a
register, and raising a trap.
-/
namespace Sys2Proof.Machine

variable (s : State)

/-! ### Before an instruction -/

theorem useRegs_of_ready (i : Instr) (rs ws : List Nat) (k : List Word → Out) (h : s.ready rs ws = true) :
    useRegs i rs ws s k = k (rs.map s.val) := by
  simp only [State.ready, Bool.and_eq_true, Bool.or_eq_true, Bool.not_eq_true', List.all_eq_true, beq_iff_eq] at h
  obtain ⟨⟨hb, hp⟩, hc⟩ := h
  have h1 : (rs ++ ws).any (fun r => r != 0 && s.seqr.busy.contains r) = false := by
    rw [List.any_eq_false]
    intro r hr
    rcases hb r hr with h0 | h0
    · simp [h0]
    · simp only [h0, Bool.and_false]; exact Bool.false_ne_true
  have h2 : ((s.core s.myCore).ckstall && rs.any (fun r => r != 0 && s.seqr.pend.any (fun p => p.reg == r))) = false := by
    rcases hc with hc | hc
    · simp [hc]
    · rw [Bool.and_eq_false_iff]; right
      rw [List.any_eq_false]
      intro r hr
      rcases hc r hr with h0 | h0
      · simp [h0]
      · simp only [Bool.and_eq_true, List.any_eq_true, beq_iff_eq, not_and, not_exists]
        intro _ p hm he
        simpa [he] using h0 p hm
  have h3 : rs.any (fun r => (s.seqr.read r).p) = false := by
    rw [List.any_eq_false]; intro r hr; simp [hp r hr]
  unfold useRegs Seqr.blocked readRegs
  rw [h1]
  dsimp only
  rw [h2, h3]
  rfl

theorem use2_of_ready (i : Instr) (a b : Nat) (ws : List Nat) (k : Word → Word → Out) (h : s.ready [a, b] ws = true) :
    use2 i a b ws s k = k (s.val a) (s.val b) := by
  simp [use2, useRegs_of_ready s i _ _ _ h]

theorem use1_of_ready (i : Instr) (a : Nat) (ws : List Nat) (k : Word → Out) (h : s.ready [a] ws = true) :
    use1 i a ws s k = k (s.val a) := by
  simp [use1, useRegs_of_ready s i _ _ _ h]

theorem control_of_not_end (k : Out) (h : s.atLevelEnd = false) : control s k = k := by
  simp only [State.atLevelEnd] at h
  simp [control, h]

theorem inA_of_A (k : Out) (h : s.cur.xs = false) : inA s k = k := by simp [inA, h]
theorem inX_of_X (k : Out) (h : s.cur.xs = true) : inX s k = k := by simp [inX, h]
theorem privileged_of_sys (k : Out) (h : s.cur.xs = false) (h' : s.sysPriv s.me = true) : privileged s k = k := by
  simp [privileged, h, h']

/-! ### After an instruction -/

@[simp] theorem Crew.setSeq_estep (c : Crew) (b : Bool) (q : Seqr) : (c.setSeq b q).estep = c.estep := by
  cases b <;> rfl

@[simp] theorem State.stepping_setSeqr (q : Seqr) : (s.setSeqr q).stepping = s.stepping := by
  unfold State.stepping
  rw [State.myCrew_setSeqr, Crew.setSeq_estep]
  rfl

theorem stepTrap_of_not_stepping (h : s.stepping = false) : stepTrap s = s := by
  unfold State.stepping at h
  unfold stepTrap
  cases hx : s.cur.xs <;> simp_all

theorem finish_eq (h : s.stepping = false) : finish s = s.setSeqr (s.seqr.finish s.cur false) := by
  simp [finish, State.modSeqr, stepTrap_of_not_stepping, h]

theorem done_eq (h : s.stepping = false) : done s = .next (s.setSeqr (s.seqr.finish s.cur false)) := by
  simp [done, finish_eq s h]

theorem jump_eq (t : Word) (h : s.stepping = false) : jump t s = .next (s.setSeqr (s.seqr.jump s.cur.st t)) := by
  simp [jump, State.modSeqr, stepTrap_of_not_stepping, h]

@[simp] theorem State.seqr_setR (r : Nat) (v : Word) (L : Nat) : (s.setR r v L).seqr = s.seqr.write r ⟨v, false⟩ L := by
  simp [State.setR]

theorem Seqr.finish_loops (q : Seqr) (l : Latch) (e : Bool) : (q.finish l e).loops = (loopEnd q.pc l.link q.loops).1 := by
  unfold Seqr.finish; rfl
theorem Seqr.finish_pc (q : Seqr) (l : Latch) (e : Bool) : (q.finish l e).pc = (loopEnd q.pc l.link q.loops).2.1 := by
  unfold Seqr.finish; rfl
theorem Seqr.finish_wait (q : Seqr) (l : Latch) (e : Bool) : (q.finish l e).wait = none := by
  unfold Seqr.finish; rfl
theorem Seqr.finish_pend (q : Seqr) (l : Latch) (e : Bool) : (q.finish l e).pend = (q.tick l.st).pend := by
  unfold Seqr.finish; rfl

theorem State.after_eq : s.after = ((loopEnd s.seqr.pc s.cur.link s.seqr.loops).1, (loopEnd s.seqr.pc s.cur.link s.seqr.loops).2.1) :=
  rfl

/-- What a reader reads of a register just written, after the distance 1 + st has passed (R52). -/
theorem Seqr.read_write_tick (q : Seqr) (r : Nat) (v : Scalar) (L st : Nat) (hr : r ≠ 0) :
    ((q.write r v L).tick st).read r = if 1 + st < L then q.reg r else v := by
  have hf : ∀ l : List Pend, ((List.filter (fun p => p.left != 0)
      (List.map (fun p => { p with left := p.left - (1 + st) }) (l.filter (fun p => p.reg != r)))).find?
        (fun p => p.reg == r)) = none := by
    intro l
    rw [List.find?_eq_none]
    intro p hp
    rw [List.mem_filter, List.mem_map] at hp
    obtain ⟨⟨p', hp', rfl⟩, -⟩ := hp
    rw [List.mem_filter] at hp'
    simpa using hp'.2
  have hreg : ((q.write r v L).tick st).reg r = v := by simp [Seqr.reg_write, hr]
  unfold Seqr.read
  rw [if_neg hr, hreg]
  simp only [Seqr.tick, Seqr.write, if_neg hr]
  by_cases hL : L = 0
  · simp only [hL, if_true, hf]; simp
  · simp only [hL, if_false, List.map_cons, List.filter_cons]
    by_cases hd : 1 + st < L
    · have : (L - (1 + st) != 0) = true := by simp only [bne_iff_ne]; omega
      simp [this, hd]
    · have : (L - (1 + st) != 0) = false := by simp only [bne_eq_false_iff_eq]; omega
      simp only [this, Bool.false_eq_true, if_false, hf, hd]

/-- A register write followed by the end of the instruction. -/
theorem done_setR (d : Nat) (v : Word) (L : Nat) (h : s.stepping = false) :
    ∃ t, done (s.setR d v L) = .next t ∧ s.Wrote t d v L := by
  have hs : (s.setR d v L).stepping = false := by simp [State.setR, State.modSeqr, h]
  refine ⟨_, done_eq _ hs, ?_⟩
  have heq : (s.setR d v L).setSeqr ((s.setR d v L).seqr.finish (s.setR d v L).cur false)
      = s.setSeqr ((s.seqr.write d ⟨v, false⟩ L).finish s.cur false) := by
    rw [State.seqr_setR, State.setR_cur]
    simp [State.setR, State.modSeqr]
  rw [heq]
  have hsq : (s.setSeqr ((s.seqr.write d ⟨v, false⟩ L).finish s.cur false)).seqr
      = (s.seqr.write d ⟨v, false⟩ L).finish s.cur false := State.seqr_setSeqr _ _
  refine ⟨⟨?_, ?_⟩, ?_, ⟨?_, ?_, ?_, ?_, ?_, ?_, ?_, ?_⟩, ?_, ?_⟩
  · rw [hsq, Seqr.reg_finish, Seqr.reg_write]
    by_cases hd : d = 0 <;> simp [hd]
  · rw [hsq]
    by_cases hd : d = 0
    · simp [hd]
    · rw [if_neg hd, ← Seqr.read_write_tick _ _ _ _ _ hd]
      simp only [Seqr.read, Seqr.finish_pend, Seqr.reg_finish, Seqr.reg_tick]
  · intro r hr; rw [hsq, Seqr.reg_finish, Seqr.reg_write]; simp [hr]
  · rw [hsq, Seqr.finish_pc]; simp [State.after_eq]
  · rw [hsq, Seqr.finish_loops]; simp [State.after_eq]
  · rw [hsq, Seqr.finish_wait]
  · rw [hsq]; simp
  · rw [hsq]; simp
  · rw [hsq]; simp
  · rw [hsq]; simp
  · rw [hsq]; simp
  · rw [hsq]
  · intro p; simp

end Sys2Proof.Machine
end

