-- ==== Sys2Proof/Tests/Slice0.lean ====
section
/-!
SUPPORT. Tests of the model: ill-formed instructions, words that the spec writes out, steps whose results were worked out
from the spec by hand, and for each statement a state and operands that meet its hypotheses (meets_<statement>).
-/
namespace Sys2Proof.Tests
open Sys2Proof Sys2Proof.Machine
set_option Elab.async false

/-! ### Ill-formed instructions: one for each check (R43, R46, R55, R58) -/

theorem smoke_wellFormed : (Instr.add ⟨3, 4, 5⟩).wellFormed = true ∧ (Instr.vadd ⟨1, 2, 3, 0, false, false, 0, false, 0⟩).wellFormed = true := by decide
theorem smoke_opcode : decode 0x0005 0 = .ill .opcode ∧ (Instr.crewStart 0).opcode = none := by decide
theorem smoke_length : decode 0x0008 0 = .ill .length := by decide
theorem smoke_reservedBit : decode 0x4008 0x9483 = .ill .reservedBit := by decide
theorem smoke_unusedField : (Instr.clz ⟨1, 2, 3⟩).wellFormed = false ∧ decode 0x4020 0x1483 = .ill .unusedField := by decide
theorem smoke_reservedValue : (Instr.bcc ⟨1, 2, 6, 0, 0⟩).wellFormed = false ∧ (Instr.bcc ⟨1, 2, 5, 0, 0⟩).wellFormed = true
    ∧ (Instr.slli ⟨1, 2, 64⟩).wellFormed = false ∧ (Instr.slli ⟨1, 2, 63⟩).wellFormed = true := by decide
theorem smoke_operandRole : (Instr.vadd ⟨0x55, 2, 3, 0, false, false, 0, false, 0⟩).wellFormed = false
    ∧ (Instr.vadd ⟨0x54, 2, 3, 0, false, false, 0, false, 0⟩).wellFormed = true
    ∧ (Instr.vadd ⟨1, 0x50, 3, 0, false, false, 0, false, 0⟩).wellFormed = false := by decide
theorem smoke_samePop : (Instr.vadd ⟨1, 0x42, 0x42, 0, false, false, 0, false, 0⟩).wellFormed = false
    ∧ (Instr.vadd ⟨1, 0x42, 0x43, 0, false, false, 0, false, 0⟩).wellFormed = true := by decide
theorem smoke_convoy : decode 0x2000 0 = .ill .convoy ∧ decode 0x0000 0 = .ok ⟨.nop, 0, false⟩ := by decide

/-! ### Words that the spec writes out beside the instruction -/

/-- R40, R57: the worked line of file 02. -/
theorem word_scalar : decode 0x4008 0x1483 = .ok ⟨.add ⟨3, 4, 5⟩, 0, false⟩ ∧ decode 0x8028 0x20084 = .ok ⟨.addi ⟨4, 4, 128⟩, 0, false⟩
    ∧ decode 0x8040 0x24C4 = .ok ⟨.bcc ⟨4, 6, 1, 1, 0⟩, 0, false⟩ ∧ decode 0xC050 0x4A000005 = .ok ⟨.li ⟨5, 0x4A00⟩, 0, false⟩
    ∧ decode 0xC051 0x1804A0000005 = .ok ⟨.lih ⟨5, 0x1804A000⟩, 0, false⟩ := by decide
theorem word_control : decode 0x8042 0x0008601F = .ok ⟨.jal ⟨31, 0, 0, 3, 2⟩, 0, false⟩
    ∧ decode 0x8031 0x1400 = .ok ⟨.trap ⟨0, 0, 5⟩, 0, false⟩ := by decide
/-- Files 06 and 16 write out these words. -/
theorem word_tile : decode 0x814B 0xA4 = .ok ⟨.tmask ⟨4, 5, 0, 0, 0, false, 0, 0⟩, 0, false⟩
    ∧ decode 0x814C 0x5A93 = .ok ⟨.mma ⟨19, 20, 22, 0, 0, false, 0, 0⟩, 0, false⟩
    ∧ decode 0x8268 0x350 = .ok ⟨.vtrd ⟨0x50, 6, 0, 0, false, false, 0, 0⟩, 0, false⟩ := by decide
theorem word_memory : decode 0xC10D 0x08000260 = .ok ⟨.vsq ⟨0, 19, 0, 0, 0, false, false, false, 1, false, 0, 0, 0⟩, 0, false⟩
    ∧ decode 0xC10B 0x0C0010002C60 = .ok ⟨.vlqi ⟨0, 3, 11, 0, 0, false, false, false, 2, false, 0, 0, 0x180⟩, 0, false⟩
    ∧ decode 0x8123 0x01686F5C = .ok ⟨.waitw ⟨28, 26, 27, 0, 5, 5⟩, 0, false⟩
    ∧ decode 0x8121 0x800B = .ok ⟨.cwait ⟨11, 0, 0, 1, 0, 0⟩, 0, false⟩
    ∧ decode 0x8124 0x680000 = .ok ⟨.bar ⟨0, 0, 0, 0, 5, 1⟩, 0, false⟩ := by decide
theorem word_atomic : decode 0x812A 0x2C016F40 = .ok ⟨.red ⟨0, 26, 27, 2, 0x2C0⟩, 0, false⟩
    ∧ decode 0x812D 0x1800E8 = .ok ⟨.mcas ⟨8, 7, 0, 0, 3, 0⟩, 0, false⟩ := by decide
theorem word_fabric : decode 0x8133 0x8017 = .ok ⟨.put ⟨23, 0, 0, 1, 0, false, 0, 0⟩, 0, false⟩
    ∧ decode 0x8138 0x0C0001AC = .ok ⟨.rwmap ⟨12, 13, 0, 0, 0, false, 0, 3⟩, 0, false⟩
    ∧ decode 0x8140 0x1A00A928 = .ok ⟨.vcoll ⟨8, 9, 10, 1, 0, false, 8, 6⟩, 0, false⟩ := by decide
theorem word_queue : decode 0x8119 0x128 = .ok ⟨.lpreq ⟨8, 9, 0, 0, 0, 0⟩, 0, false⟩
    ∧ decode 0x811A 0x128 = .ok ⟨.lprel ⟨8, 9, 0, 0, 0, 0⟩, 0, false⟩ ∧ decode 0x811B 0xE0 = .ok ⟨.cqpush ⟨0, 7, 0, 0, 0, 0⟩, 0, false⟩
    ∧ decode 0x811C 0x4 = .ok ⟨.bqb ⟨4, 0, 0, 0, 0, 0⟩, 0, false⟩
    ∧ decode 0x8203 0x24300 = .ok ⟨.vbrq ⟨0, 6, 0, 1, true, false, 0, 0⟩, 0, false⟩ := by decide
/-- R150: k = 2 stands in fn as 1. -/
theorem word_routing : decode 0x8160 0x400004 = .ok ⟨.rtcnt ⟨4, 0, 0, 0, 0, 1⟩, 0, false⟩
    ∧ decode 0x8161 0xA6 = .ok ⟨.rtsnap ⟨6, 5, 0, 0, 0, 0⟩, 0, false⟩ ∧ decode 0x8162 0xA0 = .ok ⟨.rtbias ⟨0, 5, 0, 0, 0, 0⟩, 0, false⟩
    ∧ decode 0x8163 0 = .ok ⟨.rtswap ⟨0, 0, 0, 0, 0, 0⟩, 0, false⟩
    ∧ decode 0xC270 0x168001400208 = .ok ⟨.vrins ⟨8, 4, 0, 10, 0, false, false, 0, false, 0, 13, 1⟩, 0, false⟩ := by decide
theorem word_vector : decode 0x8239 0x182050 = .ok ⟨.vfmax ⟨0x50, 0x40, 0x60, 0, false, false, 0, false, 0⟩, 0, false⟩
    ∧ decode 0xC23C 0x8000000032D0 = .ok ⟨.vfcvt ⟨0x50, 0x65, 0, 0, 0, false, false, 0, false, 0, 0, 8⟩, 0, false⟩
    ∧ decode 0xC256 0x01000018C001 = .ok ⟨.vins ⟨1, 0, 0x63, 0, 0, false, false, 0, false, 0, 2, 0⟩, 0, false⟩
    ∧ decode 0xC25F 0x180B50 = .ok ⟨.vfscan ⟨0x50, 22, 0x60, 0, 0, false, false, 0, false, 0, 0, 0⟩, 0, false⟩
    ∧ decode 0xC21E 0x300000180181 = .ok ⟨.vcmp ⟨1, 3, 0x60, 0, 0, false, false, 0, false, 0, 0, 3⟩, 0, false⟩
    ∧ decode 0x4260 0x52 = .ok ⟨.mand ⟨2, 2, 1, 0⟩, 0, false⟩ := by decide
/-- R41, R42, R60: opcode 0x300 is of class 11 and has no tail. -/
theorem word_privileged : decode 0x0300 0 = .ok ⟨.eret, 0, false⟩ ∧ decodeTableWord 16 0x0300 = some .eret := by decide

/-! ### Small states -/

/-- Registers with these values, none poisoned. -/
def rg (l : List (Nat × Word)) : SMap Scalar := l.map (fun e => (e.1, ⟨e.2, false⟩))
/-- Slot 1 of the first line of core 0's scratchpad. -/
def pc0 : Word := 0x1800000000000002
def seq0 : Seqr := { run := .running, pc := pc0, regs := rg [(1, 10), (2, 3), (3, 0xFFFFFFFFFFFFFFF9), (4, 0)] }
def crew0 : Crew := { state := 1, a := seq0, x := seq0, slip := 112, cap := 3 }
def core0 : Core := { s := 8, q := 16, owner := some 0 }
/-- Crew 0 of core 0, privileged, in its A stream. -/
def wA : State :=
  ({ State.reset with cur := { link := pc0 + 2 }, cores := [(0, core0)], crews := [(0, crew0)] }).setReg 0 0xC00 3
/-- The same in its X stream. -/
def wX : State := { wA with cur := { xs := true, link := pc0 + 2 } }
/-- Crew 0 with a change. -/
def cr (f : Crew → Crew) (s : State) : State := { s with crews := [(0, f crew0)] }
/-- Both sequencers of crew 0 with a change. -/
def sq (f : Seqr → Seqr) (s : State) : State := cr (fun c => { c with a := f seq0, x := f seq0 }) s
/-- The A registers of crew 0 and a change of the crew. -/
def va (l : List (Nat × Word)) (f : Crew → Crew) (s : State) : State := cr (fun c => f { c with a := { seq0 with regs := rg l } }) s
/-- Core 0 with a change. -/
def co (f : Core → Core) (s : State) : State := { s with cores := s.cores.map (fun e => if e.1 = 0 then (0, f e.2) else e) }
/-- Global addresses of self's HBM and of core 0's scratchpad. -/
def hga (off : Nat) : Word := BitVec.ofNat 64 (2 ^ 59 + 2 ^ 50 + off)
def sga (off : Nat) : Word := BitVec.ofNat 64 (2 ^ 60 + 2 ^ 59 + off)
/-- Leaves that map the first pages of die 0's HBM as RC and, 1 GiB up, as SO. -/
def leafW (kind : Nat) (pa : Nat) : Word := BitVec.ofNat 64 (1 + 2 + 4 + 8 + 16 + 32 + kind * 64 + 256 + pa + 0x40 * 2 ^ 56)
def tlbs : List TlbEntry := [⟨0, 1, 2 ^ 20, leafW 0 0⟩, ⟨0, 1, 2 ^ 20 + 1, leafW 1 (2 ^ 30)⟩]
def tl (s : State) : State :=
  { s with
    cores := s.cores.map (fun e => (e.1, { e.2 with l1 := tlbs })),
    dies := s.dies.map (fun e => (e.1, { e.2 with tlb := tlbs })) }
/-- These bytes from physical byte p on. -/
def putB (p : Nat) (bs : List Nat) (s : State) : State :=
  s.setBytes ((List.range bs.length).map (fun i => (p + i, BitVec.ofNat 8 (bs.getD i 0))))
/-- The physical byte of an offset in core 0's scratchpad. -/
def sp (off : Nat) : Nat := 2 ^ 45 + off
def rf (a n : Nat) : List Nat := (List.range n).map (a + ·)
/-- Bytes of HBM, of its SO page, and of core 0's scratchpad, as checks locate them. -/
def lh (p n : Nat) : Located := ⟨rf p n, 0, true, 1⟩
def lso (p n : Nat) : Located := ⟨rf (2 ^ 30 + p) n, 1, true, 1⟩
def lsp (off n : Nat) : Located := ⟨rf (sp off) n, 0, false, 0⟩
def le (n v : Nat) : List Nat := (leBytes n v).map (·.toNat)
def vb (l : List Nat) : List VByte := l.map (fun b => ⟨BitVec.ofNat 8 b, false⟩)
/-- The state after an instruction, and register r of the current sequencer. -/
def after (i : Instr) (s : State) : State := match exec i s with
  | .next t => t
  | _ => s
def regAfter (i : Instr) (s : State) (r : Nat) : Word := ((after i s).seqr.reg r).v

/-! ### Facts about small states that no kernel evaluation gives -/

theorem get_one {α : Type} (d x : α) (i : Nat) : Machine.get d [(0, x)] i = if 0 = i then x else d := rfl

/-- A state with no word locked and no slice in use admits every access. -/
theorem clear_all (s : State) (h : s.locks = []) (hd : ∀ d n, (Machine.get {} (s.die d).slices n).chains = []) (ps : List Nat) :
    s.clear ps = true := by
  simp [State.clear, State.unheld, h, hd]
theorem admits_all (s : State) (k : Nat) (h : s.locks = []) (hf : s.fifo = []) (hd : ∀ d n, Machine.get {} (s.die d).slices n = {})
    (ps : List Nat) : s.admits k ps = true := by
  simp [State.admits, State.redWaits, State.turnOf, hf, clear_all s h (fun d n => by rw [hd]), hd]
/-- With no lock, no order of arrival and no slice in use, nothing holds a crew up. -/
theorem unlocked_of (s : State) (k : Nat) (h : s.locks = []) (hf : s.fifo = []) (hd : ∀ d n, Machine.get {} (s.die d).slices n = {}) :
    s.unlocked k := ⟨admits_all s k h hf hd, by simp [hf]⟩
theorem noBad_all (s : State) (h : s.bad = []) (ps : List Nat) : s.anyBad ps = false := by
  simp [State.anyBad, h]
theorem noPoison_all (s : State) (h : s.poison = []) (p : Nat) : (s.vbyte p).p = false := by
  simp [State.vbyte, h]
/-- The only die listed is die 0, with no slice in use. -/
theorem slices_one (s : State) (D : Die) (h : s.dies = [(0, D)]) (hs : D.slices = []) (d n : Nat) :
    Machine.get {} (s.die d).slices n = {} := by
  simp only [State.die, h, get_one]
  split <;> simp [hs, Machine.get]
/-- A checked access that leads to the bytes of l, as a Bool. -/
def gets (s : State) (k : Nat) (acc : Acc) (ga n : Nat) (l : Located) : Bool :=
  decide (checkAccess s k acc ga n = (.ok (.mem l), s)) && !s.anyBad l.bytes
theorem reaches_of {s : State} {k ga n : Nat} {acc : Acc} {l : Located} (h : gets s k acc ga n l = true) : s.Reaches k acc ga n l := by
  simp only [gets, Bool.and_eq_true, decide_eq_true_eq, Bool.not_eq_true'] at h; exact h
/-- Access num may be performed at the bytes of l, on the crew's own die, as a Bool. -/
def open_ (s : State) (k num : Nat) (l : Located) : Bool :=
  s.letsAt k num l.kind l.bytes && s.fifo.isEmpty && byteDie (l.bytes.headD 0) == crewDie k
theorem comes_of {s : State} {k num : Nat} {l : Located} (h : open_ s k num l = true) : s.comes k num l := by
  simp only [open_, Bool.and_eq_true] at h; exact ⟨h.1.1, by simp [State.leave, h.1.2]⟩
theorem siteGives_of {s : State} {k num : Nat} {l : Located} {bs : List VByte} (h : open_ s k num l = true)
    (hb : s.anyBad l.bytes = false) (e : bs = l.bytes.map (s.seen k)) : s.SiteGives k num bs (.mem l) :=
  ⟨comes_of h, hb, by simp only [open_, Bool.and_eq_true, beq_iff_eq] at h; exact h.2, e⟩
theorem reads_of {s : State} {k ga n : Nat} {l : Located} {bs : List VByte}
    (h : gets s k .read ga n l = true ∧ open_ s k (s.crew k).acc l = true ∧ bs = l.bytes.map (s.seen k)) : s.Reads k ga n bs :=
  ⟨.mem l, (reaches_of h.1).1, siteGives_of h.2.1 (reaches_of h.1).2 h.2.2⟩
/-- With nothing held, nothing owed, no lock and no slice in use, a crew may store. -/
theorem buffers_of (s : State) (k : Nat) (hr : (s.crew k).a.run = .running) (hw : (s.crew k).wcb = []) (ho : (s.crew k).owed = [])
    (hl : s.locks = []) (hf : s.fifo = []) (hd : ∀ d n, Machine.get {} (s.die d).slices n = {}) : s.buffers k :=
  ⟨by simp [hr], by simp [Crew.wcbOk, hw], unlocked_of s k hl hf hd, fun d => .inl (by simp [State.heldFlits, hw]), by simp [ho]⟩
/-- Bytes placed in memory leave all else as it was. -/
theorem setBytes_eq : ∀ (l : List (Nat × Byte)) (s : State), ∃ m, s.setBytes l = { s with mem := m }
  | [], s => ⟨s.mem, rfl⟩
  | e :: r, s => let ⟨m, h⟩ := setBytes_eq r (s.setByte e.1 e.2); ⟨m, h⟩
theorem putB_eq (p : Nat) (bs : List Nat) (s : State) : ∃ m, putB p bs s = { s with mem := m } := setBytes_eq _ s

/-! ### Steps whose results the spec works out -/

/-- R91: −7 by 2 gives −3 and −1; −5 by 0 gives the least number and −5. -/
theorem test_div : ((after (.div ⟨5, 1, 2⟩) (va [(1, -7), (2, 2)] id wA)).core 0).diva.wait = [⟨0, 5, -3⟩]
    ∧ ((after (.div ⟨5, 1, 0⟩) (va [(1, -5)] id wA)).core 0).diva.wait = [⟨0, 5, 0x8000000000000000⟩] := by decide +kernel
theorem test_rem : ((after (.rem ⟨5, 1, 2⟩) (va [(1, -7), (2, 2)] id wA)).core 0).diva.wait = [⟨0, 5, -1⟩]
    ∧ ((after (.rem ⟨5, 1, 0⟩) (va [(1, -5)] id wA)).core 0).diva.wait = [⟨0, 5, -5⟩] := by decide +kernel
/-- R25, R95: the scratchpad address that takes two instructions. -/
theorem test_li_lih : regAfter (.li ⟨5, 0x4A00⟩) wA 5 = 0x4A00
    ∧ regAfter (.lih ⟨5, 0x1804A000⟩) (va [(5, 0x4A00)] id wA) 5 = 0x1804A00000004A00 := by decide +kernel
/-- R92. -/
theorem test_clz_zero : regAfter (.clz ⟨5, 4, 0⟩) wA 5 = 64 ∧ regAfter (.ctz ⟨5, 4, 0⟩) wA 5 = 64 := by decide +kernel
/-- R90: the product of the two greatest numbers, and the least number negated. -/
theorem test_mulh : regAfter (.mulhu ⟨5, 1, 1⟩) (va [(1, -1)] id wA) 5 = 0xFFFFFFFFFFFFFFFE
    ∧ regAfter (.mulh ⟨5, 1, 1⟩) (va [(1, -1)] id wA) 5 = 0 := by decide +kernel
/-- R90: only the low six bits of the distance count. -/
theorem test_sra : regAfter (.sra ⟨5, 1, 2⟩) (va [(1, 0x8000000000000000), (2, 127)] id wA) 5 = -1 := by decide +kernel
/-- R54: register 0 discards what is written to it. -/
theorem test_register_zero : regAfter (.add ⟨0, 1, 1⟩) wA 0 = 0 ∧ (after (.add ⟨0, 1, 1⟩) wA).seqr.pc = pc0 + 2 := by decide +kernel
/-- R315: two levels that share an end run the last instruction of the inner body six times; here the last pass of both. -/
theorem test_two_levels : (after .nop (sq (fun q => { q with loops := [⟨pc0, pc0, 2, 1⟩, ⟨pc0 - 2, pc0, 3, 1⟩] }) wA)).seqr.loops
    = [⟨pc0 - 2, pc0, 3, 2⟩] := by decide +kernel
/-- R407: trap saves the sign-extended immediate. -/
theorem test_trap : ((after (.trap ⟨0, 0, -1⟩) wA).crew 0).trap.tval = -1 ∧ ((after (.trap ⟨0, 0, -1⟩) wA).crew 0).stop = .trap := by decide +kernel

/-! ### The hypotheses of the statements can be met -/

theorem meets_EncodeDecodeAgree : (Instr.add ⟨3, 4, 5⟩).wellFormed = true ∧ 7 < 8 ∧ encode (.add ⟨3, 4, 5⟩) 7 false = some (0x5C08, 0x1483)
    ∧ (Instr.vadd ⟨1, 2, 3, 0, false, false, 0, false, 0⟩).opcode = some 0x210 ∧ convoyEligible 0x210 = true
    ∧ decode 0x4008 0x1483 = .ok ⟨.add ⟨3, 4, 5⟩, 0, false⟩ := by decide

/-- The line of add a3, a4, a5 at the PC, and the turn of its sequencer. -/
def atAdd : State := State.reset.withFetchWord 32 0x14834008
/-- Whether the turn reads a line of which p holds. -/
def lineIs (s : State) (p : List Byte → Bool) : Bool :=
  let u : State := { s with agenda := [], cur := { crew := 0 } }
  let pc := ((s.crew 0).seq false).pc
  decide (pc.toNat < 2 * 2 ^ 60) && ((s.crew 0).seq false).lines.isEmpty && !fetchHeld u 0 false pc && (match fetchLine u 0 pc with
    | (some (.ok bs), _) => bs.all (fun b => !b.p) && p (bs.map (·.b))
    | _ => false)
theorem meets_StepRunsFetched_turns :
    (∃ i, ({ wA with agenda := [.event i] } : State).agenda = .event i :: [])
    ∧ atAdd.agenda = [.seq 0 false] ∧ ((atAdd.crew 0).seq false).run = .running ∧ (atAdd.chip (crewChip 0)).tripped = false
    ∧ (atAdd.crew 0).stop ≠ .preempt
    ∧ (let s : State := { wA with agenda := [.seq 1 false] }
       ((s.crew 1).seq false).run ≠ .running)
    ∧ (let s : State := { sq (fun q => { q with pc := 2 * 2 ^ 60 }) wA with agenda := [.seq 0 false] }
       2 * 2 ^ 60 ≤ ((s.crew 0).seq false).pc.toNat ∧ (s.crew 0).stop ≠ .preempt) :=
  ⟨⟨.crewStart 0, rfl⟩, by decide +kernel⟩
theorem meets_StepRunsFetched_lines :
    lineIs atAdd (fun l => lineOk l 1 && decide (decodeAt l 1 = .ok ⟨.add ⟨3, 4, 5⟩, 0, false⟩)) = true
    ∧ lineIs (State.reset.withFetchWord 16 0x0005) (fun l => lineOk l 1 && decide (decodeAt l 1 = .ill .opcode)) = true
    ∧ lineIs { (putB (sp 0) [0, 0x80] atAdd) with agenda := [.seq 0 false] } (fun l => !lineOk l 1) = true := by decide +kernel
/-- A sequencer that holds the line that it executes from. -/
def held0 : State := sq (fun q => { q with lines := [(pcLine pc0, (lineOfWord 32 0x14834008).map (fun b => ⟨b, false⟩))] }) wA
theorem meets_StepRunsFetched_held :
    ∃ bs, ((held0.crew 0).seq false).lines.find? (fun e => e.1 == pcLine pc0) = some (pcLine pc0, bs) ∧ (bs.all (fun b => !b.p)) = true
      ∧ lineOk (bs.map (·.b)) 1 = true ∧ decodeAt (bs.map (·.b)) 1 = .ok ⟨.add ⟨3, 4, 5⟩, 0, false⟩ :=
  ⟨_, rfl, by decide +kernel⟩
/-- An execute sequencer that steps, with an entry in its VIQ, and with none. -/
theorem meets_StepRunsFetched_steps :
    (let s : State := { (cr (fun c => { c with estep := 1, viq := [⟨.vadd ⟨1, 2, 3, 0, false, false, 0, false, 0⟩, 0, 0, false, false, 4, {}, ⟨0, 2⟩, [], 0, false, false, 0, 0, 0, false, [], 0, {}⟩] }) wX) with
      agenda := [.seq 0 true] }
     ((s.crew 0).seq true).run = .running ∧ (s.chip (crewChip 0)).tripped = false ∧ (s.crew 0).stop ≠ .preempt
       ∧ (s.crew 0).estep.testBit 0 = true ∧ (s.crew 0).viq ≠ [] ∧ convoyOpen { s with agenda := [], cur := { crew := 0, xs := true } } 0 = false)
    ∧ ((cr (fun c => { c with estep := 1 }) wX).crew 0).viq = [] := by decide +kernel
theorem meets_StepRunsFetched_own : State.reset.agenda = [] ∧ (autoEvent State.reset).isNone = true ∧ nextSeqr State.reset = none
    ∧ wA.agenda = [] ∧ (nextSeqr wA).isSome = true := by decide +kernel

theorem meets_MemoryCanonicalKept : Memory.wf State.reset.mem = true ∧ Memory.wf atAdd.mem = true ∧ atAdd.mem ≠ []
    ∧ (match step atAdd with | .next t => decide (t.mem = atAdd.mem) | _ => false) = true := by decide +kernel
theorem meets_SliceAndPrivilegeRule : (Instr.cqpush ⟨0, 1, 0, 0, 0, 0⟩).opcode = some 0x11B ∧ wX.cur.xs = true ∧ 0x11B / 256 = 1
    ∧ (Instr.mand ⟨1, 2, 3, 0⟩).opcode = some 0x260 ∧ wA.cur.xs = false ∧ 0x260 / 256 = 2
    ∧ Instr.eret.opcode = some 0x300 ∧ 0x300 / 256 = 3 ∧ (wA.setReg 0 0xC00 1).sysPriv 0 = false := by decide +kernel

/-- A shift of 64 is beyond slli; the greatest position and length of bfx are 63 and 1, 0 and 64. -/
theorem meets_ScalarResults : wA.stepping = false ∧ wA.ready [1, 2] [5] = true ∧ wX.ready [1, 2] [0] = true ∧ wA.ready [1, 2, 3] [31] = true
    ∧ wA.ready [] [5] = true ∧ (BitVec.ofNat 22 63).toNat < 64
    ∧ (let f : T32c := ⟨5, 1, 0, 0, 63⟩; (f.imm.extractLsb' 0 6).toNat + ((f.imm.extractLsb' 6 6).toNat + 1) = 64)
    ∧ (let f : T32c := ⟨5, 1, 0, 0, 0xFC0⟩; (f.imm.extractLsb' 0 6).toNat + ((f.imm.extractLsb' 6 6).toNat + 1) = 64) := by decide +kernel
theorem meets_Divisions : wA.ready [1, 2] [5] = true ∧ wA.stepping = false
    ∧ (let s := co (fun c => { c with diva := ⟨none, [⟨0, 5, 7⟩]⟩, divx := ⟨some ⟨0, 5, 7⟩, []⟩ }) (sq (fun q => { q with busy := [5] }) wA)
       ((s.core 0).divider false).run = none ∧ ((s.core 0).divider false).wait = [⟨0, 5, 7⟩]
       ∧ ((s.core 0).divider true).run = some ⟨0, 5, 7⟩ ∧ ((s.crew 0).seq true).busy.count 5 ≤ 1) := by decide +kernel
theorem meets_BranchesAndJumps : wA.stepping = false ∧ wA.atLevelEnd = false ∧ wA.ready [1, 2] [] = true ∧ wA.ready [1] [31] = true
    ∧ (let s := sq (fun q => { q with regs := [(1, ⟨4, true⟩)] }) wA
       s.atLevelEnd = false ∧ (∀ r ∈ [1, 2] ++ [], r = 0 ∨ r ∉ s.seqr.busy) ∧ (s.core s.myCore).ckstall = false
       ∧ ∃ r ∈ [1, 2], (s.seqr.read r).p = true) := by decide +kernel
def loops6 : List LoopLevel := (List.range 6).map (fun i => ⟨pc0, pc0 + 64 * BitVec.ofNat 64 (i + 1), 5, i⟩)
theorem meets_HardwareLoops_open : wA.stepping = false ∧ wA.seqr.pc.toNat < wA.cur.link.toNat ∧ wA.seqr.loops.length < 6 ∧ wA.atLevelEnd = false
    ∧ wA.ready [1] [] = true ∧ wA.cur.link.toNat ≤ (target wA.seqr.pc 2 1).toNat ∧ wA.cur.link.toNat ≤ (target wA.seqr.pc 2 0).toNat
    ∧ (let s := sq (fun q => { q with loops := loops6.drop 1 }) wA
       s.atLevelEnd = false ∧ s.seqr.loops.length = 5 ∧ (∀ l, s.seqr.loops.head? = some l → (target s.seqr.pc 2 0).toNat ≤ l.stop.toNat)
       ∧ s.ready [] [5] = true ∧ s.seqr.loops.reverse[4]? = some ⟨pc0, pc0 + 128, 5, 1⟩ ∧ s.seqr.loops.length ≤ 5) := by decide +kernel
theorem meets_HardwareLoops_end : wA.seqr.loops = []
    ∧ (let s := sq (fun q => { q with loops := loops6 }) wA
       s.stepping = false ∧ s.seqr.pc ≠ (loops6.headD ⟨0, 0, 0, 0⟩).stop ∧ 6 ≤ s.seqr.loops.length ∧ s.atLevelEnd = false
       ∧ s.ready [1] [] = true)
    ∧ (let s := sq (fun q => { q with loops := [⟨pc0, pc0, 3, 1⟩] }) wA
       s.atLevelEnd = true ∧ s.seqr.pc = pc0 ∧ 1 + 1 < 3)
    ∧ (let s := sq (fun q => { q with loops := [⟨pc0, pc0, 3, 2⟩] }) wA
       s.seqr.pc = pc0 ∧ 3 ≤ 2 + 1)
    ∧ (target wA.seqr.pc 1 (-1)).toNat < wA.cur.link.toNat := by decide +kernel
/-- A level whose end lies before that of a body that would open inside it. -/
theorem meets_HardwareLoops_inner :
    (let s := sq (fun q => { q with loops := [⟨pc0, pc0 + 64, 5, 0⟩] }) wA
     s.atLevelEnd = false ∧ s.ready [1] [] = true ∧ s.cur.link.toNat ≤ (target s.seqr.pc 2 1).toNat
       ∧ s.seqr.loops.head? = some ⟨pc0, pc0 + 64, 5, 0⟩ ∧ (pc0 + 64).toNat < (target s.seqr.pc 2 1).toNat
       ∧ seqAfter s s.me s.cur.xs (pc0 + 64) = some (pc0 + 128)) := by decide +kernel
theorem meets_LeavingAndPausing : wA.atLevelEnd = false ∧ wA.stepping = false ∧ wA.myCrew.stop = .none ∧ wX.cur.xs = true ∧ wX.myCrew.viq = []
    ∧ wX.myCrew.lq = [] ∧ wX.myCrew.cq = [] ∧ wA.cur.xs = false ∧ wA.myCrew.wcb = [] ∧ wA.myCrew.loads = [] ∧ wA.myCrew.sc = none
    ∧ redPending wA 0 = false ∧ wA.myCrew.follow ≠ .awaiting ∧ wA.myCrew.sq = [] ∧ wA.myCrew.iq = [] ∧ wA.myCrew.bq = []
    ∧ (let s := cr (fun c => { c with cq := [⟨true, 0⟩] }) wX
       s.atLevelEnd = false ∧ s.cur.xs = true ∧ (∀ n, n < 8 → s.myCrew.lqAt n = []) ∧ s.myCrew.cq ≠ []) := by decide +kernel
/-- Tokens left in the last load queue, the last store queue, iq and bq. -/
theorem meets_LeavingAndPausing_left :
    (let s := cr (fun c => c.setLq 7 [{}]) wX
     s.myCrew.viq = [] ∧ s.myCrew.lqAt 7 ≠ [] ∧ ∀ m, m < 7 → s.myCrew.lqAt m = [])
    ∧ (let s := cr (fun c => c.setSq 3 [{}]) wA
       s.myCrew.wcb = [] ∧ redPending s s.me = false ∧ s.myCrew.sqAt 3 ≠ [] ∧ ∀ m, m < 3 → s.myCrew.sqAt m = [])
    ∧ (let s := cr (fun c => { c with iq := [{}] }) wA
       redPending s s.me = false ∧ (∀ n, n < 4 → s.myCrew.sqAt n = []) ∧ s.myCrew.iq ≠ [])
    ∧ (let s := cr (fun c => { c with bq := [0] }) wA
       redPending s s.me = false ∧ (∀ n, n < 4 → s.myCrew.sqAt n = []) ∧ s.myCrew.iq = [] ∧ s.myCrew.bq ≠ []) := by decide +kernel
/-- The greatest values that the fields of a cause word hold, and a crew that has already trapped. -/
theorem meets_TrapEntry : let c : Trap := { code := 255, reason := 15, elem := some 32767, queue := 15, member := 7 }
    c.code < 2 ^ 8 ∧ c.reason < 2 ^ 4 ∧ c.elem.getD 0 < 2 ^ 15 ∧ c.queue < 2 ^ 4 ∧ c.member < 2 ^ 3
    ∧ (cr (fun c => { c with stop := .trap }) wA).myCrew.stop = .trap := by decide +kernel
theorem meets_OperandChecks :
    (∃ r ∈ [1, 2, 5], r ≠ 0 ∧ r ∈ (sq (fun q => { q with busy := [5] }) wA).seqr.busy)
    ∧ (let s := co (fun c => { c with ckstall := true }) (sq (fun q => { q with pend := [⟨2, {}, 1⟩] }) wA)
       (∀ r ∈ [1, 2, 5], r = 0 ∨ r ∉ s.seqr.busy) ∧ (s.core s.myCore).ckstall = true ∧ (∃ r ∈ [1, 2], r ≠ 0 ∧ ∃ p ∈ s.seqr.pend, p.reg = r)
       ∧ ∀ r ∈ [1, 3], r = 0 ∨ ∀ p ∈ s.seqr.pend, p.reg ≠ r)
    ∧ (let s := sq (fun q => { q with regs := [(1, ⟨4, true⟩)] }) wA
       s.atLevelEnd = false ∧ (∀ r ∈ [1, 2, 5], r = 0 ∨ r ∉ s.seqr.busy) ∧ (s.core s.myCore).ckstall = false
       ∧ ∃ r ∈ [1, 2], (s.seqr.read r).p = true) := by decide +kernel

/-! Vector lengths and the scalar queues -/

def lpp (g : Nat) (s : State) : State := co (fun c => { c with lpart := [(0, ⟨0, g⟩)], cls := 1 }) s
/-- The word of an instruction, and a state in which crew 0 waits at it in its A stream with its line at the PC. -/
def wordOf (i : Instr) : Nat × Nat :=
  ((encode i 0 false).map (fun p => (16 * (1 + headTl p.1), p.1 + p.2 * 2 ^ 16))).getD (0, 0)
def waiting (i : Instr) (s : State) : State :=
  let w := wordOf i
  let t : State := { s with crews := s.crews.map (fun (e : Nat × Crew) => if e.1 = 0 then (0, { e.2 with a := { e.2.a with wait := some i } }) else e) }
  t.write (((List.range 64).map (spadByte 0 ·)).zip ((lineOfWord w.1 w.2).map (fun b => ⟨b, false⟩)))
/-- Crew 0 waits at i, and fetch would run it again in a state of which p holds. -/
def runsAgain (s : State) (i : Instr) (p : State → Bool) : Bool :=
  decide (((s.crew 0).seq false).wait = some i) && (match fetch 0 false s with
    | .run j t => decide (j = i) && p t
    | .stay _ => false)
/-- The grants at 0, at VLMAX and at what a producer has finished. -/
theorem meets_VectorLengthGranted : (lpp 2 wA).mayGrant ⟨5, 1, 0, 0, 0, 0x16⟩ ∧ (lpp 8 wA).mayGrant ⟨5, 4, 0, 0, 0, 0x12⟩
    ∧ (lpp 2 (cr (fun c => { c with chain := { bound := true, hwm := 9, pos := 4 } }) wA)).mayGrant ⟨0, 1, 0, 0, 0, 5⟩
    ∧ ((co (fun c => { c with raise := some 2 }) wA).core 0).raise = some 2 ∧ ((co (fun c => { c with fall := true }) wA).core 0).fall = true := by
  unfold State.mayGrant; decide +kernel
theorem meets_VectorLengthGranted_again : runsAgain (waiting (.vsetl ⟨5, 1, 0, 0, 0, 0x16⟩) (lpp 2 wA)) (.vsetl ⟨5, 1, 0, 0, 0, 0x16⟩)
    (fun t => decide (t.cur.xs = false) && decide (t.grantClass ⟨5, 1, 0, 0, 0, 0x16⟩ ≤ (t.core t.myCore).cls) && t.ready [1] [5]
      && decide ((t.shareOf t.me).b < 8)) = true := by decide +kernel
def tok (vl : Nat) : Word := BitVec.ofNat 64 (vl + 0x05 * 2 ^ 16 + 2 * 2 ^ 27)
theorem meets_ScalarQueues_a : wA.cur.xs = false ∧ wA.stepping = false ∧ wA.ready [1] [] = true ∧ wA.myCrew.cq.length < 16 ∧ wA.ready [] [5] = true
    ∧ wA.ready [1] [5] = true
    ∧ (let s := cr (fun c => { c with bq := [5, 6], cq := List.replicate 16 ⟨false, 0⟩ }) wA
       s.ready [1] [] = true ∧ 16 ≤ s.myCrew.cq.length ∧ s.myCrew.stop = .none ∧ s.myCrew.bq = 5 :: [6])
    ∧ (let s := sq (fun q => { q with regs := [(1, ⟨4, true⟩)] }) wA
       1 ∉ s.seqr.busy ∧ (s.core s.myCore).ckstall = false ∧ (s.seqr.read 1).p = true)
    ∧ (∀ j, j < 8 → wA.myCrew.lqAt j = [] ∧ ∀ l ∈ wA.myCrew.loads, l.q ≠ j) ∧ wA.myCrew.cq = [] := by decide +kernel
def fits (s : State) (n x : Nat) : Bool :=
  decide (x + n ≤ 8) && (List.range 8).all (fun j => !(decide (x ≤ j) && decide (j < x + n)) || (coreCrews (crewCore s.me)).all (fun k => decide (k = s.me) || !holds s k j))
def lreq : State :=
  let s := va [(1, 3), (2, 9), (3, 4), (4, 8)] id wA
  co (fun c => { c with lpart := [(0, ⟨1, 2⟩), (1, ⟨4, 1⟩)] }) { s with crews := s.crews ++ [(1, crew0)] }
/-- Lane requests of no group, one too many, the last groups where the share cannot grow in place, and all of them. -/
theorem meets_ScalarQueues_lanes :
    (lreq.ready [1] [5] = true ∧ (lreq.shareOf lreq.me).b = 1 ∧ fits lreq 3 1 = true ∧ (lreq.val 0).toNat < 1 ∧ 8 < (lreq.val 2).toNat ∧ fits lreq 4 1 = false ∧ fits lreq 4 0 = true
     ∧ ∀ x, x < 9 → fits lreq 8 x = false)
    ∧ (let s := co (fun c => { c with lpart := [(0, ⟨1, 4⟩)] }) (va [(1, 3), (2, 4)] id wA)
       1 ≤ (s.val 1).toNat ∧ (s.val 1).toNat < (s.shareOf s.me).g ∧ ¬(s.val 2).toNat < (s.shareOf s.me).g) := by
  decide +kernel
theorem meets_ScalarQueues_x :
    (let s := cr (fun c => { c with cq := [⟨true, tok 20⟩], lq := [(2, [{ n := 20 }])] }) wX
     s.cur.xs = true ∧ s.stepping = false ∧ s.ready [] [5] = true ∧ s.myCrew.cq = ⟨true, tok 20⟩ :: []
     ∧ s.myCrew.lqAt 2 = { n := 20 } :: [] ∧ 20 ≤ ((tok 20).extractLsb' 0 15).toNat)
    ∧ (cr (fun c => { c with cq := [⟨false, 99⟩] }) wX).myCrew.cq = ⟨false, 99⟩ :: []
    ∧ (cr (fun c => { c with lq := [(2, [{ n := 21 }])] }) wX).myCrew.lqAt 2 = { n := 21 } :: [] ∧ ((tok 20).extractLsb' 0 15).toNat < 21 := by decide +kernel

/-! Scalar memory accesses -/

def bytesE : List Nat := [1, 2, 3, 4, 5, 6, 7, 0x88, 9, 10, 11, 12, 13, 14, 15, 16]
def idxB : List Nat := [2, 0, 0, 0, 0, 0, 0, 0, 5, 0, 0, 0]
/-- Those bytes at offset 128 of the scratchpad and at byte 64 of HBM, a table of indexes at offset 512, and the leaves of HBM at hand. -/
def m0 (s : State) : State := putB (sp 128) bytesE (putB 64 bytesE (putB (sp 512) idxB (tl s)))
def regsE : List (Nat × Word) := [(1, sga 128), (2, 3), (3, hga 64), (4, hga (2 ^ 30 + 32)), (6, 0x1122334455667788), (7, 0xFFEEDDCCBBAA9988)]
def e0 : State := m0 (va regsE id wA)
theorem e0_slices (f : Crew → Crew) (l : List (Nat × Word)) (d n : Nat) : Machine.get {} (((va l f e0)).die d).slices n = {} :=
  slices_one _ _ rfl rfl d n
theorem e0_unlocked (f : Crew → Crew) (l : List (Nat × Word)) : (va l f e0).unlocked 0 :=
  unlocked_of _ 0 rfl rfl (e0_slices f l)
/-- R235: the byte 0x88 at offset 135 is read with its sign. -/
theorem test_ld_signed : regAfter (.ld ⟨5, 1, 0, 0, 0, false, false, false, 0, true, 0, 0, 7⟩) e0 5 = 0xFFFFFFFFFFFFFF88 := by decide +kernel
/-- R198: a doubleword one byte before the end of a page is misaligned for no other reason than its page. -/
theorem test_ld_little : regAfter (.ld ⟨5, 3, 0, 0, 0, false, false, false, 2, false, 0, 0, 0⟩) e0 5 = 0x04030201 := by decide +kernel
theorem test_st : (after (.st ⟨6, 1, 0, 0, 0, false, false, false, 1, false, 0, 0, 0⟩) e0).seen 0 (sp 129) = ⟨0x77, false⟩ := by decide +kernel
theorem meets_ScalarLoads : e0.cur.xs = false ∧ e0.stepping = false ∧ e0.ready [1] [5] = true ∧ e0.myCrew.req = none
    ∧ isRemote e0.me (e0.address ⟨5, 1, 0, 0, 0, false, false, false, 0, true, 0, 0, 7⟩) = false
    ∧ e0.drained 0 ∧ scRemote e0.me (e0.address ⟨5, 1, 0, 0, 0, false, false, true, 2, true, 0, 0, 4⟩) = false
    ∧ (let s := m0 (va regsE (fun c => { c with req := some ⟨.read 8 false, false, 0, 0, 1, 0, .returned ⟨0x87654321, false⟩ none none []⟩ }) wA)
       s.myCrew.req = some ⟨.read 8 false, false, 0, 0, 1, 0, .returned ⟨0x87654321, false⟩ none none []⟩)
    ∧ (let q : Req := ⟨.read 1 true, false, 0, 0, 1, 0, .returned {} none none [2 ^ 42]⟩
       (va regsE (fun c => { c with req := some q }) wA).myCrew.req = some q ∧ q.phase = .returned {} none none [2 ^ 42] ∧ [2 ^ 42] ≠ []) := by unfold State.drained; decide +kernel
/-- Reads at the last byte of the bytes placed, in scratchpad and in HBM, and one at a ticket. -/
theorem meets_ScalarLoads_reads : e0.Reads 0 (sga 143).toNat 1 (vb [16]) ∧ e0.Reads 0 (hga 72).toNat 8 (vb [9, 10, 11, 12, 13, 14, 15, 16])
    ∧ (e0.ticket (crewChip 0)).Reads 0 (sga 132).toNat 4 (vb [5, 6, 7, 0x88]) :=
  ⟨reads_of (l := lsp 143 1) (by decide +kernel), reads_of (l := lh 72 8) (by decide +kernel), reads_of (l := lsp 132 4) (by decide +kernel)⟩
/-- A load that has been checked while an mcas holds its word. -/
theorem meets_ScalarLoads_later :
    (let s : State := { e0 with locks := [((sp 128) / 4, 9)] }
     checkAccess s s.me .read (s.address ⟨5, 1, 0, 0, 0, false, false, false, 2, false, 0, 0, 0⟩) 4 = (.ok (.mem (lsp 128 4)), s)
       ∧ s.letsAt s.me s.myCrew.acc (lsp 128 4).kind (lsp 128 4).bytes = false ∧ s.ready [1] [5] = true ∧ s.myCrew.req = none
       ∧ isRemote s.me (s.address ⟨5, 1, 0, 0, 0, false, false, false, 2, false, 0, 0, 0⟩) = false) := by decide +kernel
theorem va_mayStore (f : Crew → Crew) (l : List (Nat × Word)) (h : (f { crew0 with a := { seq0 with regs := rg l } }).wcb = [])
    (ho : (f { crew0 with a := { seq0 with regs := rg l } }).owed = []) (hr : ((f { crew0 with a := { seq0 with regs := rg l } }).a).run = .running)
    (he : (f { crew0 with a := { seq0 with regs := rg l } }).estep = 0) : (va l f e0).mayStore := by
  have hc : (va l f e0).myCrew = f { crew0 with a := { seq0 with regs := rg l } } := rfl
  have hm : (va l f e0).crew (va l f e0).me = f { crew0 with a := { seq0 with regs := rg l } } := rfl
  refine ⟨rfl, ?_, buffers_of _ _ (by rw [hm]; exact hr) (by rw [hm]; exact h) (by rw [hm]; exact ho) rfl rfl (e0_slices f l)⟩
  have hx : (va l f e0).cur.xs = false := rfl
  simp only [State.stepping, hc, he, hx]; rfl
/-- A store in RC memory, one of eight bytes in the scratchpad, and one in SO memory. -/
theorem meets_ScalarStores : (va regsE id e0).mayStore ∧ (va regsE id e0).ready [1, 6] [] = true ∧ (va regsE id e0).myCrew.req = none
    ∧ isRemote 0 (sga 128).toNat = false ∧ (va regsE id e0).drained 0
    ∧ (va regsE id e0).Reaches 0 .write (sga 128).toNat 8 (lsp 128 8)
    ∧ (va regsE id e0).Reaches 0 .write (hga 66).toNat 2 (lh 66 2)
    ∧ (va regsE id e0).Reaches 0 .write (hga (2 ^ 30 + 32)).toNat 4 (lso 32 4) :=
  ⟨va_mayStore id regsE rfl rfl rfl rfl, by decide +kernel, rfl, by decide +kernel, by unfold State.drained; decide +kernel,
   reaches_of (by decide +kernel), reaches_of (by decide +kernel), reaches_of (by decide +kernel)⟩
/-- A store that must wait for an earlier vector store of the crew to its bytes, one of SO memory behind a reduction, an .sc store, and
one that its home has checked, with and without bytes. -/
theorem meets_ScalarStores_more :
    (let s := va regsE (fun c => { c with loads := [{ member := none, num := 0, store := some { sq := 0, op := .write, left := [.at (lsp 128 8)] } }] }) e0
     s.myCrew.pendingAt 0 (lsp 128 8).bytes = true)
    ∧ byteDie ((lsp 128 8).bytes.headD 0) = (va regsE id e0).myDie ∧ byteDie ((lso 32 4).bytes.headD 0) = (va regsE id e0).myDie
    ∧ (va regsE id e0).myCrew.pendingAt 1 (lso 32 4).bytes = false ∧ (va regsE id e0).soReds 0 = false
    ∧ scRemote 0 ((va regsE id e0).address ⟨6, 1, 0, 0, 0, false, false, true, 3, false, 0, 0, 0⟩) = false
    ∧ (let q : Req := ⟨.check 8, false, 0, 0, 1, 0, .returned ⟨7, false⟩ none (some ⟨1, 0, 3, 2 ^ 20, 1⟩) (rf (2 ^ 42 + 64) 8)⟩
       (va regsE (fun c => { c with req := some q }) e0).myCrew.req = some q
       ∧ (va regsE (fun c => { c with req := some q }) e0).myCrew.pendingAt 1 (rf (2 ^ 42 + 64) 8) = false) := by decide +kernel
/-- The last byte of the allotment of core 0 is at 65535, and the address fields at the ends of their ranges. -/
theorem meets_ScratchpadAndAddressFaults : 65535 + 1 ≤ 2 ^ 20 ∧ 65535 + 1 ≤ 8192 * (e0.core e0.myCore).s
    ∧ e0.anyBad ((List.range 1).map (fun i => spadByte e0.myCore (65535 + i))) = false ∧ 8192 * (e0.core e0.myCore).s < 65536 + 1
    ∧ (e0.core e0.myCore).owner = some e0.myCrew.ctx
    ∧ (let s := co (fun c => { c with owner := some 1 }) e0
       65535 + 1 ≤ 8192 * (s.core s.myCore).s ∧ (s.core s.myCore).owner ≠ some s.myCrew.ctx)
    ∧ (let s := va [(1, 3 * 2 ^ 60), (2, 2 ^ 60 + 2 ^ 59 + 2 ^ 20), (3, 2 ^ 59 + 0x41 * 2 ^ 44), (4, 2 * 2 ^ 60 + 15 * 2 ^ 56)] id wA
       s.cur.xs = false ∧ s.ready [1] [5] = true ∧ s.myCrew.req = none
       ∧ (let f := fun a => (⟨5, a, 0, 0, 0, false, false, false, 0, true, 0, 0, 0⟩ : T48c)
          s.address (f 1) = 3 * 2 ^ 60 ∧ s.address (f 2) = 2 ^ 60 + 2 ^ 59 + 2 ^ 20 ∧ 2 ^ 20 / 2 ^ 20 % 2 ^ 25 ≠ 0
          ∧ s.address (f 3) = 2 ^ 59 + 0x41 * 2 ^ 44 + 0 ∧ s.address (f 4) = 2 * 2 ^ 60 + 15 * 2 ^ 56 + 0
          ∧ (Machine.get {} s.myCrew.win 15).bound = false)) := by decide +kernel
/-- The scratchpad as the crew reaches it, a die without a route, and .sc accesses of a window and of another chip. -/
theorem meets_ScratchpadAndAddressFaults_far : (va regsE id e0).unlocked 0 ∧ (va regsE id e0).myCrew.unperformed = false
    ∧ (let s := va [(1, 9 * 2 ^ 51), (2, 2 * 2 ^ 60), (3, 8 * 2 ^ 51)] id wA
       let f := fun a => (⟨5, a, 0, 0, 0, false, false, true, 0, true, 0, 0, 0⟩ : T48c)
       s.address { f 1 with sc := false } = 9 * 2 ^ 51 + 0 * 2 ^ 44 + 0 ∧ 9 ≠ s.myDie ∧ routeValid s s.myDie 9 = false
       ∧ s.ready [2] [5] = true ∧ s.address (f 2) / 2 ^ 60 = 2 ∧ s.address (f 3) = 8 * 2 ^ 51 + 0 ∧ dieChip 8 ≠ crewChip s.me) :=
  ⟨e0_unlocked id regsE, by decide +kernel⟩
theorem meets_FencePerforms : (va regsE id e0).mayStore ∧ redPending (va regsE id e0) 0 = false
    ∧ (va regsE id e0).myCrew.unperformed = false ∧ (va regsE id e0).myCrew.unread = false :=
  ⟨va_mayStore id regsE rfl rfl rfl rfl, by decide +kernel⟩

/-! Vector loads and stores -/

def regsV : List (Nat × Word) := [(1, sga 128), (2, 8), (3, hga 64), (8, sga 512), (9, 2)]
def tk (l : List (Nat × Bool)) : Tok := { n := l.length, wc := 2, elems := l.map (fun e => ⟨BitVec.ofNat 64 e.1, e.2, false⟩) }
def cV : Crew → Crew := fun c => { c with alen := 3, iq := [tk [(2, true), (0, false), (5, true)]] }
def sV : State := va regsV cV e0
/-- Element i of an access of three elements at scratchpad offsets p i. -/
def spads (p : Nat → Nat) (i : Nat) : Located := lsp (p i) 4
def indexes : Nat → Nat := fun i => [2, 0, 5].getD i 0
def ldF (b c : BitVec 5) (nb : Bool) : T48c := ⟨1, 1, b, c, 3, nb, false, false, 2, false, 0, 0, 0⟩
def readOf (s : State) (p : Nat → Nat) (i : Nat) : List VByte := (spads p i).bytes.map (s.seen 0)
def readsAll (p : Nat → Nat) (nb : Bool) : Bool := (List.range 3).all (fun i => gets sV 0 .read (sga (p i)).toNat 4 (spads p i)
    && open_ sV 0 0 (spads p i) && (!nb || !(valueOf (readOf sV p i)).p))
theorem reads_all (p : Nat → Nat) (nb : Bool) (h : readsAll p nb = true) (i : Nat) (hi : i < 3) :
    ((sga (p i)).toNat < 2 ^ 64 ∧ sV.Reads 0 (sga (p i)).toNat 4 (readOf sV p i)) ∧ (nb = true → (valueOf (readOf sV p i)).p = false) := by
  have hh := List.all_eq_true.1 h i (List.mem_range.2 hi)
  simp only [Bool.and_eq_true] at hh
  exact ⟨⟨(sga (p i)).isLt, reads_of ⟨hh.1.1, hh.1.2, rfl⟩⟩, fun hn => by simpa [hn] using hh.2⟩
def offU (i : Nat) : Nat := 128 + 4 * i
def offS (i : Nat) : Nat := 128 + 8 * i
def offX (i : Nat) : Nat := 128 + 8 * indexes i
def offT (i : Nat) : Nat := 128 + i / 2 * 8 + i % 2 * 4
theorem meets_VectorLoadsIssue : sV.cur.xs = false ∧ sV.stepping = false ∧ sV.myCrew.sc = none ∧ (sV.myCrew.loads.filter (·.load)).length < 8
    ∧ sV.myCrew.alen = 3 ∧ sV.ready [1, 2, 8] [] = true ∧ (sV.myCrew.counter 3).blocked = false ∧ sV.val 9 = 2 ∧ sV.myCrew.claimedIq = 0
    ∧ (tk [(2, true), (0, false), (5, true)]).elems.length = 3 ∧ sV.myCrew.iq = tk [(2, true), (0, false), (5, true)] :: [] := by decide +kernel
/-- The addresses of each form; indexed by a table in memory and by a token whose second element is inactive. -/
theorem meets_VectorLoadsIssue_addresses : ∀ i, i < 3 →
    (sga (offU i)).toNat = (sV.address (ldF 2 8 true) + i * 4) % 2 ^ 64
    ∧ (sga (offS i)).toNat = (sV.address (ldF 2 8 true) + i * (sV.val 2).toNat) % 2 ^ 64
    ∧ (sga (offX i)).toNat = (sV.address (ldF 2 8 true) + leNat ((readOf sV (512 + 4 * ·) i).map (·.b)) * (sV.val 2).toNat) % 2 ^ 64
    ∧ (sga (offX i)).toNat = (sV.address (ldF 2 8 true) + indexes i * (sV.val 2).toNat) % 2 ^ 64
    ∧ (sga (offT i)).toNat = (sV.address (ldF 2 9 true) + i / 2 * 8 + i % 2 * 4) % 2 ^ 64
    ∧ (sga (512 + 4 * i)).toNat = ((sV.val 8).toNat + 4 * i) % 2 ^ 64
    ∧ (valueOf (readOf sV (512 + 4 * ·) i)).p = false
    ∧ (tk [(2, true), (0, false), (5, true)]).elems[i]? = some ⟨BitVec.ofNat 64 (indexes i), i != 1, false⟩ := by decide +kernel
/-- Every element of each of those accesses, and every index, may be read. -/
theorem meets_VectorLoadsIssue_reads : ∀ p ∈ [offU, offS, offX, offT, (512 + 4 * ·)], ∀ i, i < 3 →
    ((sga (p i)).toNat < 2 ^ 64 ∧ sV.Reads 0 (sga (p i)).toNat 4 (readOf sV p i)) ∧ (true = true → (valueOf (readOf sV p i)).p = false) := by
  intro p hp; exact reads_all p true (List.all_eq_true.1 (show [offU, offS, offX, offT, (512 + 4 * ·)].all (readsAll · true) = true by decide +kernel) p hp)

def tkD : Tok := { n := 3, wc := 2, elems := [⟨0xA1A2A3A4A5, true, false⟩, ⟨7, false, false⟩, ⟨9, true, false⟩] }
def cW : Crew → Crew := fun c => { c with alen := 3, iq := [tk [(2, true), (0, true), (5, true)]], sq := [(1, [tkD])] }
def sW : State := va regsV cW e0
def stF : T48c := ⟨1, 1, 2, 8, 3, true, false, false, 2, false, 0, 0, 0⟩
theorem reaches_all (p : Nat → Nat) (h : (List.range 3).all (fun i => gets sW 0 .write (sga (p i)).toNat 4 (spads p i)) = true) (i : Nat) (hi : i < 3) :
    (sga (p i)).toNat < 2 ^ 64 ∧ sW.Reaches 0 .write (sga (p i)).toNat 4 (spads p i) :=
  ⟨(sga (p i)).isLt, reaches_of (List.all_eq_true.1 h i (List.mem_range.2 hi))⟩
theorem meets_VectorStores_issue : sW.cur.xs = false ∧ sW.stepping = false ∧ sW.myCrew.sc = none ∧ stF.ord ≠ 2
    ∧ (sW.myCrew.loads.filter (fun j => j.store.isSome && !j.scalar)).length + (sW.myCrew.owed.filter (·.vec)).length < 8 ∧ sW.myCrew.claimedIq = 0 ∧ (sW.myCrew.sqAt 1)[sW.myCrew.claimed 1]? = some tkD ∧ tkD.marker = false
    ∧ tkD.n = sW.myCrew.alen ∧ tkD.wc = stF.w.toNat ∧ tkD.elems.length = tkD.n ∧ (sW.myCrew.counter stF.cc.toNat).blocked = false
    ∧ sW.ready [1, 2, 8] [] = true ∧ sW.myCrew.iq = tk [(2, true), (0, true), (5, true)] :: []
    ∧ (∀ e ∈ (tk [(2, true), (0, true), (5, true)]).elems, e.p = false ∧ e.act = true)
    ∧ (∀ i, i < 3 → gets sW 0 .read (((sW.val 8).toNat + 4 * i) % 2 ^ 64) 4 (spads (512 + 4 * ·) i) = true) := by decide +kernel
theorem meets_VectorStores_reach : ∀ p ∈ [offU, offS, offX], ∀ i, i < 3 →
    (sga (p i)).toNat < 2 ^ 64 ∧ sW.Reaches 0 .write (sga (p i)).toNat 4 (spads p i) :=
  fun p hp => reaches_all p (List.all_eq_true.1 (show [offU, offS, offX].all (fun p => (List.range 3).all (fun i => gets sW 0 .write (sga (p i)).toNat 4 (spads p i))) = true by decide +kernel) p hp)
/-- A store that waits behind a load, of one element left to store and two, whose token has more than a group. -/
def tkG : Tok := { n := 10, wc := 2, elems := (List.range 10).map (fun i => ⟨BitVec.ofNat 64 (i + 65), i != 4, false⟩) }
def partG (n : Nat) (op : StoreOp) : StorePart := { sq := 1, op := op, left := (List.range n).map (fun i => .at (lsp (128 + 4 * i) 4)) }
def jobG (n : Nat) (op : StoreOp) (m : Option Member) : LoadJob := { tok := { n := 10, wc := 2 }, member := m, store := some (partG n op) }
def jobR : LoadJob := { load := true, member := none }
def sG (n : Nat) (op : StoreOp) (m : Option Member) : State :=
  va regsV (fun c => { c with sq := [(1, [tkG, tkD])], loads := [jobR, jobG n op m, jobR] }) e0
theorem storing_G (n : Nat) (op : StoreOp) (m : Option Member) (hn : n = 10 ∨ n = 2) (hm : ∀ x, m = some x → x.crew = 0) :
    (sG n op m).Storing 0 [jobR] [jobR] (jobG n op m) (partG n op) tkG [tkD] tkG.gsz := by
  refine ⟨rfl, fun x hx => ?_, rfl, rfl, rfl, ?_, hm, ?_⟩
  · rw [List.mem_singleton.1 hx]; rfl
  all_goals rcases hn with rfl | rfl <;> (simp only [partG, tkG, List.length_map, List.length_range, List.length_take, List.length_drop]; decide)
theorem meets_VectorStores_perform : (sG 10 .write none).buffers 0 ∧ (sG 2 .write none).buffers 0
    ∧ (sG 10 .write none).Storing 0 [jobR] [jobR] (jobG 10 .write none) (partG 10 .write) tkG [tkD] tkG.gsz
    ∧ (sG 2 .write none).Storing 0 [jobR] [jobR] (jobG 2 .write none) (partG 2 .write) tkG [tkD] tkG.gsz
    ∧ (partG 2 .write).op = .write ∧ ((partG 10 .write).left.all (fun x => match x with | .fault t => t.code != 22 | _ => true)) = true :=
  ⟨(va_mayStore _ regsV rfl rfl rfl rfl).2.2, (va_mayStore _ regsV rfl rfl rfl rfl).2.2, storing_G 10 _ _ (.inl rfl) (fun _ h => nomatch h),
   storing_G 2 _ _ (.inr rfl) (fun _ h => nomatch h), rfl, by decide +kernel⟩
/-- The elements of the next group lie in the crew's own scratchpad, and may be performed; one whose place is still to be asked for. -/
theorem meets_VectorStores_places :
    ((sG 10 .write none).groupOf 0 4 (partG 10 .write) tkG tkG.gsz).all (fun x => match x.1 with
      | .at l => !((sG 10 .write none).crew 0 |>.before 0).pendingAt l.kind l.bytes && l.kind == 0 && l.bytes.all (fun p => byteDie p == crewDie 0)
      | _ => false) = true
    ∧ (let p : StorePart := { sq := 1, op := .write, left := [.ask (sga 128).toNat none] }
       let s := va regsV (fun c => { c with sq := [(1, [tkG])], loads := [{ tok := { n := 10, wc := 2 }, member := none, store := some p }] }) e0
       p.group tkG tkG.gsz = [(.ask (sga 128).toNat none, ⟨74, true, false⟩)] ∧ gets s 0 .write (sga 128).toNat 4 (lsp 128 4) = true
         ∧ checkAccess s 0 .write (3 * 2 ^ 60) 4 = (.fault { code := 14, reason := 1, tval := 3 * 2 ^ 60 }, s)) := by decide +kernel
/-- The crew waits at the store, and fetch runs it again in a state that may store. -/
theorem meets_VectorStores_again : (sW.crew 0).loads = [] ∧ runsAgain (waiting (.vsq { stF with b := 0, c := 0 }) sW) (.vsq { stF with b := 0, c := 0 })
    (fun t => decide (t.cur.xs = false) && !t.stepping && decide (t.locks = []) && decide (t.myCrew.sqAt 1 = [tkD]) && t.ready [1] []) = true := by decide +kernel

/-! .sc accesses, the memory side of a crew and the directory -/

def el (v : Nat) : Elem := ⟨BitVec.ofNat 64 v, true, false⟩
def scA (store : Bool) (left : List (Nat × Located × Elem)) : ScAccess := ⟨store, 1, 2, 2, left, [el 1, el 2]⟩
def sS (a : ScAccess) : State := va regsV (fun c => { c with sc := some a }) e0
/-- An .sc load of three elements; and elements at the last bytes placed in the scratchpad and in HBM. -/
theorem meets_ScAccessesDrawTickets_issue : sV.cur.xs = false ∧ sV.myCrew.sc = none ∧ sV.ready [1] [] = true
    ∧ (sV.myCrew.loads.filter (·.load)).length < 8
    ∧ ∀ i, i < 3 → (let A := (sV.address { ldF 0 0 false with sc := true } + i * 4) % 2 ^ 64
        scRemote 0 A = false ∧ gets sV 0 .read A 4 (spads offU i) = true) := by decide +kernel
/-- The elements of every form of load and of store, and a first element in a window. -/
theorem meets_ScAccessesDrawTickets_forms :
    (∀ p ∈ [offU, offS, offX, offT], ∀ i, i < 3 → scRemote 0 (sga (p i)).toNat = false ∧ gets sV 0 .read (sga (p i)).toNat 4 (spads p i) = true)
    ∧ sV.ready [1, 2, 8] [] = true ∧ sV.myCrew.claimedIq = 0
    ∧ sW.myCrew.sc = none ∧ sW.myCrew.sqAt 1 = [tkD] ∧ sW.myCrew.claimed 1 = 0 ∧ tkD.n = sW.myCrew.alen
    ∧ (∀ p ∈ [offU, offS, offX], ∀ i, i < 3 → (tkD.elems.getD i {}).act = true → gets sW 0 .write (sga (p i)).toNat 4 (spads p i) = true)
    ∧ scRemote 0 (2 * 2 ^ 60) = true ∧ (va [(1, 2 * 2 ^ 60)] cV e0).address { ldF 0 0 false with sc := true } = 2 * 2 ^ 60 := by
  decide +kernel
/-- What stays on the crew's own die needs no credit. -/
theorem near_delivers (s : State) (k n : Nat) : s.delivers k (crewDie k) n := .inr (.inr (.inl rfl))
theorem near_answers (s : State) (k n : Nat) : s.answers k (crewDie k) n := .inr (.inl rfl)
theorem meets_ScAccessesDrawTickets :
    (let a := scA false [(1, lsp 140 4, el 0), (0, lh 4 4, el 0)]
     (sS a).admits 0 (lsp 140 4).bytes = true ∧ ((sS a).crew 0).sc = some a ∧ (sS a).drained 0 ∧ (sS a).anyBad (lsp 140 4).bytes = false
       ∧ byteDie ((lsp 140 4).bytes.headD 0) = crewDie 0)
    ∧ (let a := scA true [(0, lh 64 4, el 0x11223344)]
       (sS a).admits 0 (lh 64 4).bytes = true ∧ ((sS a).crew 0).sc = some a ∧ (sS a).drained 0 ∧ byteDie ((lh 64 4).bytes.headD 0) = crewDie 0)
    ∧ (let s := sS (scA false []); (s.crew 0).sc = some (scA false []) ∧ 0 = s.me ∧ s.cur.xs = false ∧ s.stepping = false) := by
  unfold State.drained; decide +kernel
def jobA : LoadJob := { q := 1, tok := { n := 10, wc := 2 }, todo := (List.range 10).map el, load := true, member := none }
def jobB : LoadJob := { q := 2, tok := { n := 3, wc := 2, spg := 2 }, todo := (List.range 3).map el, begun := true, load := true, member := some ⟨0, 1, 0⟩ }
def jobC : LoadJob := { q := 3, tok := { n := 20, wc := 2 }, todo := (List.range 8).map el, member := none, store := some (partG 10 (.amo 0)) }
def lineA : WcbLine := ⟨sp 128 / 64, [(3, ⟨0xAA, false⟩), (63, ⟨0xBB, false⟩)], false⟩
def sJ : State := va regsV (fun c => { c with loads := [jobA, jobB, jobC], slip := 3, wcb := [lineA], lq := [(2, [{ n := 10, wc := 2, spg := 1, elems := [el 7] }])] }) e0
/-- A load with more than a group left, one of its last group with a member, a vamo, and a line of the buffer. -/
theorem meets_MemorySideAndDirectory :
    (∀ i, i < 3 → ∀ j ∈ (sJ.crew 0).loads[i]?, j.pushes = true ∧ ((sJ.crew 0).loads.take i).all (fun x => x.q != j.q) = true ∧ j.tok.marker = false ∧ j.block = none ∧ j.spots = []
        ∧ (j.store ≠ none → j.tok.gsz ≤ j.todo.length) ∧ (sJ.crew 0).lqSlots + j.tok.spg ≤ (sJ.crew 0).slip
        ∧ (sJ.crew 0).lqSlots + (sJ.crew 0).sqSlots + j.tok.spg ≤ 8 * (sJ.core 0).q ∧ (∀ m ∈ j.member, m.crew = 0))
    ∧ (sJ.crew 0).a.run ≠ .exited ∧ (sJ.crew 0).loads.length = 3 ∧ (sJ.crew 0).lqAt 2 = [] ++ [{ n := 10, wc := 2, spg := 1, elems := [el 7] }]
    ∧ (sJ.crew 0).wcb[0]? = some lineA ∧ (sJ.crew 0).wcbOk ∧ (sJ.crew 0).owed = []
    ∧ sJ.admits 0 (lineA.bytes.map (fun e => 64 * lineA.line + e.1)) = true ∧ byteDie (64 * lineA.line) = crewDie 0
    ∧ (sJ.crew 0).state ≠ 6 := by
  unfold Crew.wcbOk; decide +kernel
/-- A load whose next elements are still to be read: one at its place, one inactive, and one that faulted; and a load of an ended crew. -/
theorem meets_MemorySideAndDirectory_reads :
    (∃ e c, e0.Fetches 0 0 4 (.at (lsp 128 4)) e c) ∧ (∃ e c, e0.Fetches 0 0 4 .off e c)
    ∧ (∃ e c, e0.Fetches 0 0 4 (.fault { code := 14 }) e c) ∧ (∃ e c, e0.Fetches 0 0 4 (.ask (sga 128).toNat none) e c)
    ∧ ((va regsV (fun c => { c with state := 6, loads := [jobA] }) e0).crew 0).state = 6 := by
  have h : ∃ bs, e0.SiteGives 0 0 bs (.mem (lsp 128 4)) := ⟨_, siteGives_of (by decide +kernel) (by decide +kernel) rfl⟩
  obtain ⟨bs, h⟩ := h
  exact ⟨⟨_, _, bs, h, rfl, rfl⟩, ⟨_, _, rfl, rfl⟩, ⟨_, _, by decide, rfl, rfl⟩,
    ⟨_, _, .inl ⟨.mem (lsp 128 4), bs, (reaches_of (by decide +kernel)).1, h, rfl, rfl⟩⟩, by decide +kernel⟩
def shared : State := after (.readSpan 1 1 60 4) (after (.readSpan 0 1 0 4) e0)
/-- The last words of a block in core 1's cache, the first in core 0's, which then owns them. -/
theorem meets_MemorySideAndDirectory_spans :
    let ws := fun a => (List.range 4).map ((0 * 2 ^ 37 + 1 * 256) / 4 + a + ·)
    let ready := fun (s : State) (core a : Nat) => cacheable s core 1 = true ∧ s.clear ((ws a).map (4 * ·)) = true
      ∧ SMap.wf {} (s.core core).cache = true ∧ (s.core core).cache.length + 4 ≤ (s.core core).cacheLines
    60 + 4 ≤ 64 ∧ ready e0 0 0 ∧ ready shared 0 0
    ∧ (∀ w ∈ ws 60, (Machine.get {} (shared.core 1).cache (w / 16)).valid.getLsbD (w % 16) = true)
    ∧ (∀ w ∈ ws 0, (Machine.get {} ((after (.ownSpan 0 1 0 4) shared).core 0).cache (w / 16)).dirty.getLsbD (w % 16) = true) := by decide +kernel

/-! Accesses to another die -/

def route (d p v : Nat) (s : State) : State := s.setReg d (0x500 + p) (BitVec.ofNat 64 v)
/-- Dies 0 and 1 with routes to each other, and a page of die 1 mapped. -/
def farGa : Word := BitVec.ofNat 64 (2 ^ 51 + 2 ^ 50 + 64)
def far (q : Option Req) : State :=
  let s := (route 0 1 0x4800 (route 1 0 0x4800 (va [(1, farGa)] (fun c => { c with req := q }) wA))).modChip 0 (fun c => { c with supplied := true })
  (putB (2 ^ 37 + 64) [1, 2, 3, 4, 5, 6, 7, 0x88] s).modDie 1 (fun d => { d with tlb := [⟨0, 1, 2 ^ 20, leafW 0 0⟩] })
def rqOf (op : ReqOp) (p : ReqPhase) (v : Nat) : Req := ⟨op, false, farGa, 0, 1, v, p⟩
def rq (p : ReqPhase) (v : Nat) : Req := rqOf (.read 8 false) p v
def kdF : KindEntry := ⟨1, 0, 1, 2 ^ 20, 0⟩
/-- A load and a store of eight bytes to die 1, and an .sc load. -/
def ldFar : T48c := ⟨5, 1, 0, 0, 0, false, false, false, 3, true, 0, 0, 0⟩
theorem meets_RemoteAccesses_out : (far none).cur.xs = false ∧ (far none).ready [1, 5] [5] = true ∧ (far none).myCrew.req = none
    ∧ isRemote (far none).me ((far none).address ldFar) = true ∧ scRemote (far none).me ((far none).address ldFar) = false ∧ (far none).drained (far none).me
    ∧ crewCheck (far none) 0 false ((far none).address ldFar) 8 = .ok (.hbm 1 (2 ^ 50 + 64))
    ∧ crewCheck (far none) 0 true ((far none).address ldFar) 8 = .ok (.hbm 1 (2 ^ 50 + 64))
    ∧ pathDown (far none) 0 (gaDie (far none).myDie ((far none).address ldFar)) = false ∧ sending (far none) 0 = true ∧ (far none).affords 0 1 2 := by
  unfold State.drained State.affords; decide +kernel
theorem meets_RemoteAccesses_phases :
    (((far (some (rq .sent 0))).crew 0).req = some (rq .sent 0) ∧ ((far none).chip (dieChip 1)).supplied = true ∧ (rq .sent 0).ver = dieVersion (far none) 1
      ∧ (rq .sent 3).ver ≠ dieVersion (far none) 1)
    ∧ dieVersion (far none) 0 = dieVersion (far none) 1 ∧ routeValid (far none) 0 1 = true ∧ pathDown (far none) 0 1 = false
    ∧ 0 < routeLanes (far none) 0 1 ∧ flits (rq .held 0).payload ≤ credits (far none) 0 1 ∧ routeValid (route 0 1 0x0800 (far none)) 0 1 = false
    ∧ pathDown (route 0 1 0x5800 (far (some (rq .held 0)))) 0 1 = true ∧ ((far none).crew 0).reads = [] := by decide +kernel
/-- At its home, each kind of request; and on its way back. -/
theorem meets_RemoteAccesses_home : ∀ op ∈ [.read 8 false, .read 8 true, .check 8, .write 8 ⟨7, false⟩, .rmw true 0 8 5 6],
    let s := far (some (rqOf op .arrived 0))
    (s.crew 0).req = some (rqOf op .arrived 0) ∧ crewCheck s 0 op.acc.writes farGa.toNat op.size = .ok (.hbm 1 (2 ^ 50 + 64))
    ∧ locate s (some (crewCore 0)) (s.crew 0).ctx op.acc op.size (.hbm 1 (2 ^ 50 + 64)) = (.ok (lh (2 ^ 37 + 64) 8), s)
    ∧ s.lets 0 0 (rf (2 ^ 37 + 64) 8) = true ∧ s.leave 0 (rf (2 ^ 37 + 64) 8) = s ∧ (s.crew 0).reads = [] ∧ (s.crew 0).wcb = [] ∧ s.anyBad (rf (2 ^ 37 + 64) 8) = false ∧ farGa.toNat / 2 ^ 60 = 0
    ∧ (lh (2 ^ 37 + 64) 8).entry 1 0 (farGa.toNat % 2 ^ 51) = kdF := by decide +kernel
theorem meets_RemoteAccesses_back :
    (let q := rq (.replied ⟨5, false⟩ none (some kdF) []) 0
     ((far (some q)).crew 0).req = some q ∧ pathDown (far (some q)) 0 1 = false ∧ q.dst ≠ q.src ∧ 0 < routeLanes (far none) 1 0 ∧ flits q.op.answer ≤ credits (far (some q)) 1 0)
    ∧ (∀ v ∈ [none, some ⟨0x87654321, false⟩],
       let j : ReadJob := ⟨5, true, rf (2 ^ 37 + 64) 4, 1, 0, v, 0⟩
       let s := (far none).modCrew 0 (fun c => { c with reads := [j], a := { c.a with busy := [5] } })
       (s.crew 0).reads = j :: [] ∧ (s.crew 0).a.busy.count 5 ≤ 1 ∧ s.letsAt 0 0 j.kind j.bytes = true ∧ s.fifo = [] ∧ s.anyBad j.bytes = false
       ∧ pathDown s (crewDie 0) 1 = false ∧ flits j.bytes.length ≤ credits s 1 (crewDie 0) ∧ pathDown (route 0 1 0x5800 s) (crewDie 0) 1 = true) := by decide +kernel
theorem meets_RemoteAccesses_credits :
    let p := Machine.get {} (((far none).modDie 0 (fun d => { d with paths := ins d.paths 1 { sent := 20, freed := 65535, unack := [(0, 5), (1, 6), (3, 9)] } })).die 0).paths 1
    (4 + 2 ^ 16 - p.freed) % 2 ^ 16 ≤ (p.sent + 2 ^ 16 - p.freed) % 2 ^ 16 ∧ p.unack[1]? = some (1, 6)
    ∧ (∀ m, p.unack[0]? = some m → m.1 ≠ 1) := by
  refine ⟨by decide +kernel, by decide +kernel, fun m h => ?_⟩
  cases (show some (0, 5) = some m from h); decide

/-! Completion counters, waits and barriers -/

def bt (n p : Nat) : Batch := { id := n, pending := p }
def cn (c : Counter) : State := cr (fun k => { k with cc := [(1, c)] }) wA
/-- A counter with nothing open, one with an open batch and 14 closed, one whose oldest is not complete. -/
theorem meets_CompletionCounters :
    (let s := cn { closed := [bt 4 1] }
     s.cur.xs = false ∧ s.stepping = false ∧ s.ready [] [5] = true ∧ (s.myCrew.counter 1).joined = 0 ∧ (s.myCrew.counter 1).closed.length ≤ 1
     ∧ 0 < (s.myCrew.counter 1).closed.length ∧ s.myCrew.stop = .none ∧ (s.myCrew.counter 1).ecause < 2 ^ 8)
    ∧ (let c : Counter := { joined := 65535, batch := bt 15 2, closed := (List.range 14).map (bt · 1) }
       ((cn c).myCrew.counter 1).joined ≠ 0 ∧ ((cn c).myCrew.counter 1).closed.length < 15 ∧ c.joined < 2 ^ 16
       ∧ ∀ b, (((cn c).myCrew.counter 1).closed ++ [c.batch]).head? = some b → b.pending ≠ 0) := by
  refine ⟨by decide +kernel, by decide +kernel, by decide +kernel, by decide +kernel, fun b h => ?_⟩
  cases (show some (bt 0 1) = some b from h); decide
/-- R250: an empty open batch stays open. -/
theorem test_cbatch : ((after (.cbatch ⟨0, 0, 0, 1, 0, 0⟩) (cn { joined := 2, batch := bt 5 2 })).myCrew.counter 1).closed = [bt 5 2] := by decide +kernel
def regsW : List (Nat × Word) := [(1, sga 128), (2, 0x8807060504030201), (3, 0x04030202), (4, sga 65528)]
def sWw : State := va regsW id e0
theorem meets_WaitsAndBarriers_words : sWw.cur.xs = false ∧ sWw.stepping = false ∧ sWw.ready [1, 2, 3, 4] [5] = true ∧ sWw.myCrew.stop = .none
    ∧ (sWw.val 1).toNat = 2 ^ 60 + 2 ^ 59 + sWw.myCore % 64 * 2 ^ 45 + 128 ∧ sWw.Reads 0 (sWw.val 1).toNat 8 (vb [1, 2, 3, 4, 5, 6, 7, 0x88])
    ∧ (sWw.val 4).toNat = 2 ^ 60 + 2 ^ 59 + sWw.myCore % 64 * 2 ^ 45 + 65528 ∧ 65528 + 8 ≤ 8192 * (sWw.core sWw.myCore).s
    ∧ sWw.Reads 0 (sWw.val 4).toNat 8 (vb [0, 0, 0, 0, 0, 0, 0, 0])
    ∧ leNat ((vb [1, 2, 3, 4, 5, 6, 7, 0x88]).map (·.b)) = (sWw.val 2).toNat % 2 ^ 64 := by
  refine ⟨by decide +kernel, by decide +kernel, by decide +kernel, by decide +kernel, by decide +kernel,
    reads_of (l := lsp 128 8) (by decide +kernel), by decide +kernel, by decide +kernel,
    reads_of (l := lsp 65528 8) (by decide +kernel), by decide +kernel⟩
theorem meets_WaitsAndBarriers_again : runsAgain (waiting (.waitw ⟨5, 1, 2, 0, 0, 8⟩) sWw) (.waitw ⟨5, 1, 2, 0, 0, 8⟩)
    (fun t => decide (t.cur.xs = false) && t.ready [1, 2] [5]) = true := by decide +kernel
/-- R253: a signed comparison: 0x88… is below every positive word. -/
theorem test_waitw_signed : regAfter (.waitw ⟨5, 1, 3, 0, 0, 10⟩) sWw 5 = 0x8807060504030201 := by decide +kernel
def barS (f : Crew → Crew) : State := cr (fun c => f { c with lev := 2, bars := [(1, 3), (2, 1)] }) wA
/-- A crew of a set of two of which only one crew has been placed. -/
def barred : State := (barS (fun c => { c with arrived := some 2, home := some (0, 7), exts := [1, 1, 2] })).modDie 0 (fun d =>
  { d with pool := [(0, { handle := 7, ctx := 0, words := [], order := 0, level := 2, preds := [], chain := none, placed := [(0, 0)] })] })
theorem meets_WaitsAndBarriers_bars :
    ((barS id).cur.xs = false ∧ (barS id).stepping = false ∧ 1 < (barS id).myCrew.lev ∧ (barS id).drained (barS id).me ∧ (barS id).myCrew.arrived = none)
    ∧ (let s := barS (fun c => { c with arrived := some 2 })
       s.myCrew.arrived = some 2 ∧ barrierOpen s s.me 2 = true
       ∧ runsAgain (waiting (.bar ⟨0, 0, 0, 0, 0, 2⟩) s) (.bar ⟨0, 0, 0, 0, 0, 2⟩) (fun t => barrierOpen t 0 2 && decide (t.cur.xs = false) && decide (t.myCrew.arrived = some 2)) = true)
    -- a first arrival that opens the barrier, and one that waits
    ∧ (let s := barS id
       s.myCrew.arrived ≠ some 2 ∧ barrierOpen (s.setCrew 0 { s.myCrew with arrived := some 2, bars := put 0 s.myCrew.bars 2 2 }) 0 2 = true)
    ∧ (let s := barred.modCrew 0 (fun c => { c with arrived := none })
       s.drained s.me ∧ s.myCrew.arrived ≠ some 2
         ∧ barrierOpen (s.setCrew 0 { s.myCrew with arrived := some 2, bars := put 0 s.myCrew.bars 2 2 }) 0 2 = false)
    ∧ barred.myCrew.arrived = some 2 ∧ barrierOpen barred barred.me 2 = false ∧ barred.myCrew.stop = .none := by unfold State.drained; decide +kernel

/-! Atomics and reductions -/

def regsA : List (Nat × Word) := [(1, sga 128), (2, hga 64), (3, 0x8807060504030201), (4, 0xFFFFFFFF04030200), (6, 0x3F800000), (7, hga (2 ^ 30 + 32)), (8, farGa)]
def sA : State := va regsA id e0
theorem meets_ScalarAtomics : sA.cur.xs = false ∧ sA.stepping = false ∧ sA.myCrew.req = none ∧ (sA.val 1).toNat % 4 = 0 ∧ (sA.val 2).toNat % 8 = 0
    ∧ isRemote sA.me (sA.val 1).toNat = false ∧ isRemote sA.me (sA.val 2).toNat = false ∧ sA.drained sA.me
    ∧ gets sA 0 .rmw (sA.val 1).toNat 4 (lsp 128 4) = true ∧ gets sA 0 .rmw (sA.val 2).toNat 8 (lh 64 8) = true
    ∧ (∀ p ∈ rf (sp 128) 4, (sA.vbyte p).p = false) ∧ (∀ p ∈ rf 64 8, (sA.vbyte p).p = false) ∧ sA.ready [1, 2, 3, 4, 6, 7] [5] = true
    ∧ ((sA.crew 0).loads.all (fun j => decide (j.store = none))) = true
    ∧ (let am : T32c := ⟨5, 1, 4, 0, 4⟩; runsAgain (waiting (.amo am) sA) (.amo am) (fun t => decide (t.myCrew.req = none) && t.ready [1, 4] [5]) = true) := by
  unfold State.drained; decide +kernel
/-- R261: a signed minimum of words takes 0x04030200 and delivers 0x04030201; amocas of equal words writes. -/
theorem test_amo_min : regAfter (.amo ⟨5, 1, 4, 0, 4⟩) sA 5 = 0x04030201 ∧ (after (.amo ⟨5, 1, 4, 0, 4⟩) sA).num (sp 128) 4 = 0x04030200 := by decide +kernel
theorem test_amocas : regAfter (.amocas ⟨5, 2, 3, 4, 16⟩) sA 5 = 0x8807060504030201 ∧ (after (.amocas ⟨5, 2, 3, 4, 16⟩) sA).num 64 8 = 0xFFFFFFFF04030200 := by decide +kernel
theorem within_rf (p n : Nat) (k : Nat) (c : Bool) (lv : Nat) (h : 0 < n ∧ p % 8 + n ≤ 8) : Located.within ⟨rf p n, k, c, lv⟩ p n := ⟨rfl, h⟩
def sF : State := (route 0 1 0x4800 sA).modChip 0 (fun c => { c with supplied := true })
theorem meets_Reductions_issue : sA.cur.xs = false ∧ sA.stepping = false ∧ sA.ready [1, 2, 4, 7, 8] [] = true ∧ (sA.myCrew.counter 0).blocked = false
    ∧ sA.myCrew.req = none ∧ sA.drained 0 ∧ gets sA 0 .red (sA.val 2).toNat 8 (lh 64 8) = true ∧ isRemote sA.me (sA.val 2).toNat = false
    ∧ gets sA 0 .red (sA.val 1).toNat 4 (lsp 128 4) = true ∧ 2 ^ 45 ≤ sp 128 ∧ gets sA 0 .red (sA.val 7).toNat 4 (lso 32 4) = true
    ∧ (lso 32 4).kind = 1 ∧ byteDie (sp 128) = sA.myDie ∧ sA.anyBad (wordBytes (sp 128 / 8)) = false
    ∧ (∀ b ∈ wordBytes (sp 128 / 8) ++ wordBytes ((2 ^ 30 + 32) / 8), (sA.seen sA.me b).p = false) := by unfold State.drained; decide +kernel
theorem meets_Reductions_buffers : sA.buffers 0 ∧ Located.within (lsp 128 4) (sp 128) 4 ∧ Located.within (lh 64 8) 64 8 ∧ Located.within (lso 32 4) (2 ^ 30 + 32) 4 :=
  ⟨(va_mayStore id regsA rfl rfl rfl rfl).2.2, within_rf _ _ _ _ _ (by decide +kernel), within_rf _ _ _ _ _ (by decide), within_rf _ _ _ _ _ (by decide)⟩
/-- One to another die goes out, and comes back with the bytes of its word there. -/
theorem meets_Reductions_far : sF.ready [8, 4] [] = true ∧ isRemote sF.me (sF.val 8).toNat = true ∧ (sF.val 8).toNat % 8 = 0
    ∧ crewCheck sF sF.me true (sF.val 8).toNat 8 = .ok (.hbm 1 (2 ^ 50 + 64)) ∧ pathDown sF sF.myDie (gaDie sF.myDie (sF.val 8).toNat) = false
    ∧ sending sF sF.myDie = true ∧ sF.affords sF.myDie (gaDie sF.myDie (sF.val 8).toNat) 1
    ∧ (let q := rqOf (.check 8) (.returned {} none (some kdF) (rf (2 ^ 37 + 64) 8)) 0
       (va regsA (fun c => { c with req := some q }) e0).myCrew.req = some q ∧ kdF.kind ≠ 1 ∧ (2 ^ 37 + 64) < 2 ^ 45) := by unfold State.affords; decide +kernel
def ct (w lane n : Nat) (x : Word) (k : Nat) : Contribution := ⟨w, lane, 0, n, ⟨x, false⟩, some ⟨k, 0, 0⟩, 0, false⟩
def slic (f : Slice) : State := sA.modDie 0 (fun d => { d with slices := [(0, f)] })
/-- Crew 1 waits behind crew 0 only where a lock holds crew 0's word, or the words are one. -/
theorem meets_Reductions_accept :
    (let s := { slic { wait := [ct 4 0 4 5 0, ct 8 0 4 6 1], chains := [⟨[ct 8 4 4 7 2]⟩] } with locks := [(8, 1)] }
     let sl := Machine.get {} (s.die (0 / 32)).slices (0 % 32)
     sl.wait[1]? = some (ct 8 0 4 6 1) ∧ (∀ b, b < 4 → Machine.get 0 s.locks ((8 * 8 + 0 + b) / 4) = 0)
     ∧ s.turnOf 2 ((List.range 4).map (8 * 8 + 0 + ·)) = true
     ∧ (∀ x ∈ sl.wait.take 1, x.word ≠ 8 ∧ x.member.map (·.crew) ≠ some 1) ∧ chainOf sl 8 = some ⟨[ct 8 4 4 7 2]⟩
     ∧ (∀ y ∈ [ct 8 4 4 7 2], y.aop = 0 ∧ y.n = 4) ∧ Machine.get 0 s.locks ((8 * 4 + 0 + 0) / 4) ≠ 0 ∧ sl.chains = [] ++ ⟨[ct 8 4 4 7 2]⟩ :: [])
    ∧ (let s := slic { wait := [ct 8 0 8 5 0, ct 8 0 4 6 1] }
       let sl := Machine.get {} (s.die (0 / 32)).slices (0 % 32)
       sl.wait[0]? = some (ct 8 0 8 5 0) ∧ sl.chains = [] ∧ chainOf sl 8 = none ∧ (∀ b, b < 8 → Machine.get 0 s.locks ((8 * 8 + 0 + b) / 4) = 0)) := by decide +kernel
theorem meets_Reductions_close :
    (let r := [ct 8 4 4 0x88000000 0, ct 8 4 4 0x80000000 1]
     let s := slic { chains := [⟨r⟩] }
     (Machine.get {} (s.die (0 / 32)).slices (0 % 32)).chains[0]? = some ⟨ct 8 4 4 0x88000000 0 :: [ct 8 4 4 0x80000000 1]⟩
     ∧ (∀ x ∈ r, x.x.p = false ∧ x.lane + x.n ≤ 8 ∧ ∀ m ∈ x.member, (s.crew m.crew).a.run ≠ .exited ∧ pathDown s (crewDie m.crew) (byteDie (8 * 8)) = false
        ∧ (s.crew m.crew).owed = [])
     ∧ s.clean (wordBytes 8)) := by unfold State.clean; decide +kernel
/-- R266: the two contributions wrap in their lane: 0x88070605 + 0x88000000 + 0x80000000. -/
theorem test_chain_wraps : (after (.chainClose 0 0) (slic { chains := [⟨[ct 8 4 4 0x88000000 0, ct 8 4 4 0x80000000 1]⟩] })).num 68 4 = 0x90070605 := by decide +kernel
def tk1 (v : Nat) : Tok := { n := 1, wc := 2, elems := [⟨BitVec.ofNat 64 v, true, false⟩] }
def sVa (r : Word) : State := va [(1, r), (2, 4)] (fun c => { c with alen := 1, iq := [tk1 2, tk1 3], sq := [(1, [tk1 0xFF00000001, tk1 5])] }) e0
/-- A vamo or vred of one element: at a bank port, and in HBM. -/
theorem meets_VectorAtomics : (∀ s ∈ [sVa (sga 120), sVa (hga 56)], s.cur.xs = false ∧ s.stepping = false ∧ s.drained s.me
      ∧ (s.myCrew.loads.filter (fun j => j.store.isSome && !j.scalar)).length + (s.myCrew.owed.filter (·.vec)).length < 8 ∧ s.myCrew.claimedIq = 0
      ∧ s.myCrew.alen = 1 ∧ s.ready [1, 2] [] = true ∧ s.myCrew.iq = tk1 2 :: [tk1 3]
      ∧ (s.myCrew.sqAt (8 / 8 % 4))[s.myCrew.claimed 1]? = some (tk1 0xFF00000001) ∧ (s.myCrew.counter 3).blocked = false)
    ∧ (let f : T48c := ⟨8, 1, 2, 0, 3, false, false, false, 2, false, 0, 0, 0⟩
       ∀ acc ∈ [Acc.rmw, Acc.red], gets (sVa (sga 120)) 0 acc (((sVa (sga 120)).address f + 2 * 4) % 2 ^ 64) 4 (lsp 128 4) = true
       ∧ gets (sVa (hga 56)) 0 acc (((sVa (hga 56)).address f + 2 * 4) % 2 ^ 64) 4 (lh 64 4) = true) := by unfold State.drained; decide +kernel
/-- Ten elements in hand: two groups of a token, or a part of one; in HBM and at a bank port. -/
def partA (sc : Bool) (n : Nat) (op : StoreOp) : StorePart := { sq := 1, op := op, left := (List.range n).map (fun i => .at (if sc then lsp (128 + 4 * i) 4 else lh (64 + 4 * i) 4)) }
def jobV (sc : Bool) (n : Nat) (op : StoreOp) : LoadJob := { q := 2, tok := { n := 10, wc := 2 }, member := some ⟨0, 3, 0⟩, store := some (partA sc n op) }
def sP (sc : Bool) (n : Nat) (op : StoreOp) : State := va regsA (fun c => { c with sq := [(1, [tkG, tkD])], loads := [jobR, jobV sc n op] }) e0
theorem storing_P (sc : Bool) (n : Nat) (op : StoreOp) (step : Nat) (hs : step = tkG.gsz ∨ step = 1) (hn : n = 10 ∨ n = 2) :
    (sP sc n op).Storing 0 [jobR] [] (jobV sc n op) (partA sc n op) tkG [tkD] step := by
  refine ⟨rfl, fun x hx => ?_, rfl, rfl, rfl, ?_, fun m h => by cases h; rfl, ?_⟩
  · rw [List.mem_singleton.1 hx]; rfl
  all_goals rcases hs with rfl | rfl <;> rcases hn with rfl | rfl <;> (simp only [partA, tkG, List.length_map, List.length_range, List.length_take, List.length_drop]; decide)
theorem meets_VectorAtomics_perform : ((sP true 10 (.amo 0)).crew 0).wcb = [] ∧ ((sP true 10 (.amo 0)).crew 0).a.run ≠ .exited
    ∧ (∀ sc ∈ [true, false], ((sP sc 10 (.amo 0)).groupOf 0 4 (partA sc 10 (.amo 0)) tkG tkG.gsz).all (fun x => !x.2.p && (match x.1 with
        | .at l => decide (l.bytes = rf (l.bytes.headD 0) 4 ∧ l.bytes.headD 0 % 8 + 4 ≤ 8) && !(sP sc 10 (.amo 0)).anyBad (wordBytes (l.bytes.headD 0 / 8))
          && (wordBytes (l.bytes.headD 0 / 8)).all (fun p => !((sP sc 10 (.amo 0)).vbyte p).p)
          && !pathDown (sP sc 10 (.amo 0)) 0 (byteDie (l.bytes.headD 0)) && decide ((2 ^ 45 ≤ l.bytes.headD 0) = sc ∧ l.kind ≠ 1)
          && !(((sP sc 10 (.amo 0)).crew 0).before 0).pendingAt l.kind l.bytes && byteDie (l.bytes.headD 0) == crewDie 0
        | _ => false)) = true) := by decide +kernel
theorem meets_VectorAtomics_storing : (sP true 10 (.amo 0)).Storing 0 [jobR] [] (jobV true 10 (.amo 0)) (partA true 10 (.amo 0)) tkG [tkD] tkG.gsz
    ∧ (sP false 2 (.red 0)).Storing 0 [jobR] [] (jobV false 2 (.red 0)) (partA false 2 (.red 0)) tkG [tkD] 1
    ∧ (sP true 10 (.red 0)).Storing 0 [jobR] [] (jobV true 10 (.red 0)) (partA true 10 (.red 0)) tkG [tkD] 1
    ∧ (sP true 10 (.amo 0)).buffers 0 ∧ (sP false 2 (.red 0)).buffers 0 ∧ (sP true 10 (.red 0)).buffers 0
    ∧ (∃ x, (sP false 2 (.red 0)).groupOf 0 4 (partA false 2 (.red 0)) tkG 1 = [x]) ∧ (partA true 10 (.red 0)).op = .red 0 :=
  ⟨storing_P _ _ _ _ (.inl rfl) (.inl rfl), storing_P _ _ _ _ (.inr rfl) (.inr rfl), storing_P _ _ _ _ (.inr rfl) (.inl rfl),
   (va_mayStore _ regsA rfl rfl rfl rfl).2.2, (va_mayStore _ regsA rfl rfl rfl rfl).2.2, (va_mayStore _ regsA rfl rfl rfl rfl).2.2,
   ⟨_, rfl⟩, rfl⟩
/-- The crew waits at the vamo, and fetch runs it again. -/
theorem meets_VectorAtomics_again : let f : T48c := ⟨10, 1, 2, 0, 3, true, false, false, 2, false, 0, 0, 0⟩
    ((sVa (sga 120)).crew 0).loads = [] ∧ runsAgain (waiting (.vamo f) (sVa (sga 120))) (.vamo f) (fun t => t.ready [1, 2] []) = true := by decide +kernel

/-! Multi-word compare-and-swap -/

def entry (a : Word) (x y w : Nat) : List Nat := le 8 a.toNat ++ le 8 x ++ le 8 y ++ le 4 w ++ le 4 0
def slate (dry x : Nat) : List Nat := le 4 (2 + dry * 256) ++ le 4 0 ++ le 24 0 ++ entry (hga 64) x 99 1 ++ entry (sga 520) 5 6 0
/-- A slate of two entries; the word at 64 holds 77 and the one at offset 520 holds 5. -/
def mc0 (dry x : Nat) : State := putB 64 (le 8 77) (putB (sp 520) (le 8 5) (putB (sp 128) (slate dry x) (tl (va [(1, sga 128)] id wA))))
def mcI : Instr := .mcas ⟨5, 1, 0, 0, 0, 0⟩
def mc1 (dry x : Nat) : State := after mcI (mc0 dry x)
def mc2 (dry x : Nat) : State := after (.mcasHomeLock 0) (mc1 dry x)
def mc3 (dry x : Nat) : State := after (.mcasHomeLock 0) (mc2 dry x)
def mc4 (dry x : Nat) : State := after (.mcasDecision 0) (mc3 dry x)
def mc5 (dry x : Nat) : State := after (.mcasHomeUnlock 0) (mc4 dry x)
def mc6 (dry x : Nat) : State := after (.mcasHomeUnlock 0) (mc5 dry x)
/-- R271: the word is written after the last home unlocks, and not where the words differed. -/
theorem test_mcas_writes : (mc6 0 77).num 64 8 = 99 ∧ (mc6 0 78).num 64 8 = 77 ∧ (mc6 1 77).num 64 8 = 77 := by decide +kernel
/-- No die but die 0 is listed, and it has no error ring. -/
theorem noRing_one (s : State) (D : Die) (h : s.dies = [(0, D)]) (hr : Machine.get 0 D.regs 0x111 = 0) : s.noRing := by
  intro d
  simp only [State.reg, State.die, h, get_one]
  split
  · rw [hr]; rfl
  · rfl
theorem meets_MultiWordCompareAndSwap_start : (mc0 0 77).cur.xs = false ∧ (mc0 0 77).stepping = false ∧ (mc0 0 77).myCrew.mcas = none
    ∧ (mc0 0 77).ready [1] [5] = true ∧ redPending (mc0 0 77) 0 = false ∧ (mc0 0 77).myCrew.unperformed = false
    ∧ (let ga := ((mc0 0 77).val 1).toNat
       ownScratchpad 0 ga = true ∧ ga / 2 ^ 20 % 2 ^ 25 = 0 ∧ ga % 2 ^ 20 % 64 = 0 ∧ ga % 2 ^ 20 = 128 ∧ 128 + (32 + 32 * 2) ≤ 8192 * ((mc0 0 77).core 0).s)
    ∧ ((mc0 0 77).core 0).owner = some (mc0 0 77).myCrew.ctx ∧ (mc0 0 77).myCrew.loads = [] ∧ (mc0 0 77).myCrew.reads = []
    ∧ (mc0 0 77).anyBad (rf (sp 128) 96) = false
    ∧ (∀ p ∈ rf (sp 128) 96, ((mc0 0 77).seen 0 p).p = false) ∧ leNat ((rf (sp 128) 4).map (fun p => ((mc0 0 77).seen 0 p).b)) % 16 = 2
    ∧ slateBad ((rf (sp 128) 96).map ((mc0 0 77).seen 0)) 2 = false := by decide +kernel
theorem meets_MultiWordCompareAndSwap_buffers : (mc0 0 77).buffers 0 :=
  buffers_of _ 0 (by decide +kernel) (by decide +kernel) (by decide +kernel) rfl rfl (fun d n => slices_one _ _ rfl rfl d n)
/-- A mismatch that the issuer's checks find: an entry of a window; else the homes of both entries are to be visited. -/
def mcOf (s : State) : Mcas := s.myCrew.mcas.getD ⟨0, 0, false, [], [], [], .finishing, none, 0, 0, 0, false, false⟩
def e1 (s : State) : McasEntry := (mcOf s).entries.headD ⟨0, 0, 0, false, 0, 0, 0, false, false, false⟩
theorem meets_MultiWordCompareAndSwap_issuer : issuerFail (mc0 0 77) 0 [] (mcOf (mc1 0 77)).entries = none
    ∧ (issuerFail (mc0 0 77) 0 [] ((mcOf (mc1 0 77)).entries.map (fun e => { e with addr := 2 * 2 ^ 60 }))).isSome = true := by decide +kernel
def mcR (f : Mcas → Mcas) (s : State) : State := s.modCrew 0 (fun c => { c with mcas := c.mcas.map f })
def ownE (s : State) : List (Nat × McasEntry) := ((List.range 2).zip (mcOf s).entries).filter (fun x => x.2.key == (mcOf s).todo.headD 0)
/-- What the check of the next home's entries finds, where it changes nothing else. -/
def found (s : State) (p : Except (Nat × Nat × Nat × Nat) (List (Nat × List Nat)) → Bool) : Bool :=
  match homeCheck s 0 (mcOf s).dry (mcOf s).entries (ownE s) with
  | (some r, t) => p r && decide (t = s)
  | _ => false
theorem meets_MultiWordCompareAndSwap_lock : let s := mc1 0 77
    s.myCrew.mcas = some (mcOf s) ∧ (mcOf s).phase = .locking ∧ (mcOf s).todo = (mcOf s).todo.headD 0 :: (mcOf s).todo.tail
    ∧ cutOff s 0 ((mcOf s).todo.headD 0) = false ∧ linkOpen s (crewDie 0) ((mcOf s).todo.headD 0 / 128) = true
    ∧ found s (fun r => match r with | .ok bs => decide (bs = [(0, rf 64 8)]) | _ => false) = true
    ∧ s.admits 0 (rf 64 8) = true ∧ s.clean (rf 64 8) ∧ crewDie 0 = (mcOf s).todo.headD 0 / 128 := by unfold State.clean; decide +kernel
/-- A home that a dark path cuts off, and a word that two entries name. -/
theorem meets_MultiWordCompareAndSwap_lost :
    cutOff (route 0 1 0x5800 wA) 0 128 = true
    ∧ (let s := mcR (fun m => { m with entries := m.entries.map (fun e => { e with phys := 9 }) }) (mc1 0 77)
       found s (fun r => match r with | .error e => decide (e = (0, Status.dup, 0, 0)) | _ => false) = true) ∧ (mc1 0 77).noRing :=
  ⟨by decide +kernel, by decide +kernel, noRing_one _ ((mc1 0 77).die 0) (by decide +kernel) (by decide +kernel)⟩
theorem meets_MultiWordCompareAndSwap_decide : (mcOf (mc3 0 77)).phase = .deciding ∧ (mcOf (mc3 0 77)).status = none
    ∧ (∀ h ∈ (mcOf (mc3 0 77)).locked, cutOff (mc3 0 77) 0 h = false) ∧ (∀ e ∈ (mcOf (mc3 0 77)).entries, e.obs = e.expect)
    ∧ ¬(∀ e ∈ (mcOf (mc3 0 78)).entries, e.obs = e.expect) ∧ (mcOf (mc3 1 77)).dry = true
    ∧ (∃ h ∈ (mcOf (mc3 0 77)).locked ++ [128], cutOff (route 0 1 0x5800 (mc3 0 77)) 0 h = true) := by decide +kernel
theorem meets_MultiWordCompareAndSwap_unlock : ∀ x ∈ [77, 78], let s := mc4 0 x
    let h := (mcOf s).locked.headD 0
    (mcOf s).phase = .unlocking ∧ (mcOf s).locked = h :: (mcOf s).locked.tail ∧ cutOff s 0 h = false ∧ crewDie 0 = h / 128 ∧ s.noWaiters (h / 128)
    ∧ (∀ e ∈ (mcOf s).entries, e.key = h → 0 < e.phys ∧ e.addr.toNat % e.size = 0)
    ∧ ((mcOf s).entries.Pairwise (fun a b => a.key = h → b.key = h → a.phys ≠ b.phys)) ∧ (mcOf s).commit = decide (x = 77)
    ∧ s.locks ≠ [] := by unfold State.noWaiters; decide +kernel
theorem meets_MultiWordCompareAndSwap_finish : (∀ ps, (mc6 0 77).clear ps = true) ∧ (mcOf (mc6 0 77)).phase = .finishing ∧ (mcOf (mc6 0 77)).status = some 0
    ∧ (mcOf (mc6 0 77)).bad < 8 ∧ (mcOf (mc6 0 77)).fcause < 2 ^ 8 ∧ (mcOf (mc6 0 77)).freason < 2 ^ 8
    ∧ runsAgain (waiting mcI (mc6 0 77)) mcI (fun t => decide ((t.crew 0).mcas = some (mcOf (mc6 0 77)))) = true := by
  refine ⟨clear_all _ (by decide +kernel) (fun d n => ?_), by decide +kernel⟩
  rw [slices_one _ ((mc6 0 77).die 0) (by decide +kernel) (by decide +kernel)]
/-- The second of two locked words is cut off from its issuer. -/
theorem meets_MultiWordCompareAndSwap_dark : (let s := { wA with locks := [(16, 1), (2 ^ 35 + 16, 1)] }.setReg 1 0x500 0x5800
    s.locks = [(16, 1)] ++ (2 ^ 35 + 16, 0 + 1) :: [] ∧ pathDown s (byteDie (4 * (2 ^ 35 + 16))) (crewDie 0) = true
    ∧ pathDown s (byteDie (4 * 16)) (crewDie 0) = false ∧ s.noWaiters (wordKey ((2 ^ 35 + 16) / 2) / 128)
    ∧ s.reg 0 0x111 = 0 ∧ s.reg 1 0x111 = 0) := by unfold State.noWaiters; decide +kernel

/-! Block formats -/

def mans : List Nat := (List.range 64).map (fun i => (i * 37 + 5) % 256)
def tokB : Tok := { n := 33, wc := 2, elems := (List.range 33).map (fun i => ⟨BitVec.ofNat 64 (0x3F800000 + i * 0x123456), i % 5 != 3, false⟩) }
def cB : Crew → Crew := fun c => { c with alen := 33, sq := [(1, [tokB])] }
/-- 33 elements in two blocks of four-bit mantissas, their scales at the end of the scratchpad. -/
def sB : State := va [(1, sga 128), (2, sga 65534)] cB (putB (sp 65534) [127, 130] (putB (sp 128) mans (tl wA)))
def fB : T48e := ⟨1, 1, 2, 0, false, false, false, 2⟩
def byteB (j i : Nat) : Nat := if i = 16 then 65534 + j else 128 + 16 * j + i
def allB (p : Nat → Bool) : Bool := (List.range 2).all (fun j => p (byteB j 16) && (List.range 16).all (fun i => p (byteB j i)))
theorem all_B {p : Nat → Bool} (h : allB p = true) (j : Nat) (hj : j < 2) : p (byteB j 16) = true ∧ ∀ i, i < 16 → p (byteB j i) = true := by
  have hh := List.all_eq_true.1 h j (List.mem_range.2 hj)
  simp only [Bool.and_eq_true] at hh
  exact ⟨hh.1, fun i hi => List.all_eq_true.1 hh.2 i (List.mem_range.2 hi)⟩
theorem meets_BlockFormatAccesses : sB.cur.xs = false ∧ sB.stepping = false ∧ sB.ready [1, 2] [] = true ∧ (sB.val 1).toNat % 4 = 0
    ∧ sB.myCrew.alen = 33 ∧ (sB.myCrew.loads.filter (·.load)).length < 8 ∧ (sB.myCrew.loads.filter (fun j => j.store.isSome && !j.scalar)).length + (sB.myCrew.owed.filter (·.vec)).length < 8
    ∧ (sB.myCrew.sqAt 1)[sB.myCrew.claimed 1]? = some tokB ∧ tokB.marker = false
    ∧ tokB.n = 33 ∧ tokB.wc = 2 ∧ tokB.elems.length = 33 ∧ (sB.myCrew.counter 0).blocked = false
    ∧ (∀ j, j < 2 → (((sB.val 2).toNat + j) % 2 ^ 64 = (sga (byteB j 16)).toNat
        ∧ ∀ i, i < 16 → ((sB.val 1).toNat + 4 * 4 * j + i) % 2 ^ 64 = (sga (byteB j i)).toNat)) := by decide +kernel
theorem meets_BlockFormatAccesses_reads (j : Nat) (hj : j < 2) : sB.Reads 0 (sga (byteB j 16)).toNat 1 [sB.seen 0 (sp (byteB j 16))]
    ∧ ∀ i, i < 16 → sB.Reads 0 (sga (byteB j i)).toNat 1 [sB.seen 0 (sp (byteB j i))] := by
  have h := all_B (show allB (fun o => gets sB 0 .read (sga o).toNat 1 (lsp o 1) && open_ sB 0 0 (lsp o 1)) = true by decide +kernel) j hj
  simp only [Bool.and_eq_true] at h
  exact ⟨reads_of ⟨h.1.1, h.1.2, rfl⟩, fun i hi => reads_of ⟨(h.2 i hi).1, (h.2 i hi).2, rfl⟩⟩
/-- A load of two blocks whose first group is still to be read; every byte of it may be. -/
def jobL : LoadJob := { q := 1, tok := { n := 33, wc := 2 }, load := true, member := none, block := some (false, 4),
                        spots := (List.range 2).flatMap (fun j => (List.range 17).map (fun i => .at (lsp (byteB j i) 1))) }
def sBl : State := { sB with crews := [(0, { (sB.crew 0) with loads := [jobR, jobL], slip := 8 })] }
theorem meets_BlockFormatAccesses_pushes : (sBl.crew 0).loads[1]? = some jobL ∧ ((sBl.crew 0).loads.take 1).all (fun x => !x.pushes || x.q != jobL.q) = true
    ∧ (sBl.crew 0).state ≠ 6 ∧ (sBl.crew 0).lqSlots + jobL.tok.spg ≤ (sBl.crew 0).slip ∧ jobL.tok.marker = false
    ∧ (sBl.crew 0).lqSlots + (sBl.crew 0).sqSlots + jobL.tok.spg ≤ 8 * (sBl.core 0).q ∧ jobL.spots.length = 2 * (4 * 4 + 1)
    ∧ min ((jobL.tok.gsz - jobL.todo.length + 31) / 32) 2 = 1 := by decide +kernel
theorem meets_BlockFormatAccesses_fetches (i : Nat) (hi : i < 16) :
    ∃ B : VByte, sBl.Fetches 0 0 1 (.at (lsp (byteB 0 i) 1)) ⟨BitVec.ofNat 64 B.b.toNat, true, B.p⟩ none := by
  have h := (all_B (show allB (fun o => !sBl.anyBad (lsp o 1).bytes && open_ sBl 0 0 (lsp o 1)) = true by decide +kernel) 0 (by decide)).2 i hi
  simp only [Bool.and_eq_true, Bool.not_eq_true'] at h
  refine ⟨sBl.seen 0 (sp (byteB 0 i)), [sBl.seen 0 (sp (byteB 0 i))], siteGives_of h.2 h.1 rfl, ?_, rfl⟩
  simp [valueOf, leNat]
theorem meets_BlockFormatAccesses_writes (j : Nat) (hj : j < 2) : sB.Reaches 0 .write (sga (byteB j 16)).toNat 1 (lsp (byteB j 16) 1)
    ∧ ∀ i, i < 16 → sB.Reaches 0 .write (sga (byteB j i)).toNat 1 (lsp (byteB j i) 1) := by
  have h := all_B (show allB (fun o => gets sB 0 .write (sga o).toNat 1 (lsp o 1)) = true by decide +kernel) j hj
  exact ⟨reaches_of h.1, fun i hi => reaches_of (h.2 i hi)⟩

/-- The store with its first block left to do, and with its second. -/
def partB (b : Nat) : StorePart :=
  { sq := 1, op := .block false 4, left := (List.range' b (2 - b)).flatMap (fun j => (List.range 17).map (fun i => .at (lsp (byteB j i) 1))) }
def jobN (b : Nat) : LoadJob := { tok := { n := 33, wc := 2 }, member := none, store := some (partB b) }
def sBp (b : Nat) : State := va [] (fun c => { c with sq := [(1, [tokB])], loads := [jobR, jobN b] }) e0
theorem meets_BlockFormatAccesses_perform : ∀ b, b < 2 → ((sBp b).crew 0).loads = [jobR] ++ jobN b :: [] ∧ jobR.store = none ∧ (jobN b).store = some (partB b)
    ∧ ((sBp b).crew 0).sqAt (partB b).sq = tokB :: [] ∧ (partB b).data = none
    ∧ (((partB b).left.take 17).all (fun x => match x with
      | .at l => !(((sBp b).crew 0).before 0).pendingAt l.kind l.bytes && l.kind == 0 && l.bytes.all (fun p => byteDie p == crewDie 0)
      | _ => false)) = true
    ∧ (partB b).left.length = (4 * 4 + 1) * ((tokB.n + 31) / 32 - b) ∧ min tokB.n (32 * b + 32) ≤ tokB.elems.length ∧ b < (tokB.n + 31) / 32 := by decide +kernel
theorem meets_BlockFormatAccesses_buffers (b : Nat) : (sBp b).buffers 0 :=
  (va_mayStore (fun c => { c with sq := [(1, [tokB])], loads := [jobR, jobN b] }) [] rfl rfl rfl rfl).2.2
theorem meets_BlockFormatAccesses_again : let f : T48e := { fB with nb := true }
    (sB.crew 0).loads = [] ∧ runsAgain (waiting (.vsqb f) sB) (.vsqb f) (fun t => t.ready [1, 2] []) = true := by decide +kernel

/-! Copies -/

def card (len fl : Nat) (sad : Word) (val rows fext dstr sstr : Nat) (x : Word) : List Word :=
  [hga 4096, sga 1024, BitVec.ofNat 64 (len + fl * 2 ^ 32), sad, BitVec.ofNat 64 val, BitVec.ofNat 64 (rows + fext * 2 ^ 32), BitVec.ofNat 64 (dstr + sstr * 2 ^ 32), x]
def bytesOf (c : List Word) : List Nat := c.flatMap (fun w => le 8 w.toNat)
def cardA : List Word := card 300 1 (sga 2048) 0xABCD 0 0 0 0 0
def srcC : List Nat := (List.range 8).map (fun i => i * 13 + 1)
def sC (c : List Word) : State := putB (sp 1024) srcC (putB (sp 192) (bytesOf c) (tl (va [(1, sga 192)] id wA)))
/-- Each kind of card that its command takes. -/
theorem meets_CopyEngine_queues : ∀ x ∈ [(0, cardA), (1, card 30 0 0 0 2 0 64 32 0), (2, card 30 0 0 0 2 4096 64 0 (sga 3072))],
    (sC x.2).cur.xs = false ∧ (sC x.2).stepping = false ∧ (sC x.2).ready [1] [] = true
    ∧ ownScratchpad (sC x.2).me ((sC x.2).val 1).toNat = true ∧ ((sC x.2).val 1).toNat / 2 ^ 20 % 2 ^ 25 = 0 ∧ ((sC x.2).val 1).toNat % 2 ^ 20 = 192
    ∧ 192 + 64 ≤ 8192 * ((sC x.2).core (sC x.2).myCore).s ∧ (sC x.2).lets 0 0 (rf (sp 192) 64) = true ∧ ((sC x.2).core 0).owner = some (sC x.2).myCrew.ctx
    ∧ (sC x.2).anyBad (rf (sp 192) 64) = false ∧ (∀ p ∈ rf (sp 192) 64, ((sC x.2).seen 0 p).p = false)
    ∧ ((sC x.2).core 0).jobs.length < 16 ∧ ((sC x.2).myCrew.counter 2).blocked = false ∧ (sC x.2).myCrew.follow = .empty
    ∧ (List.range 8).map (fun i => BitVec.ofNat 64 (leNat ((List.range 8).map (fun j => ((sC x.2).seen 0 (sp 192 + (8 * i + j))).b)))) = x.2
    ∧ cardCheck (sC x.2) 0 (some 0) x.1 x.2 = none := by decide +kernel
def cardP (kind : Nat) : List Word := if kind = 3 then [hga 4096, sga 1024, BitVec.ofNat 64 (300 + 1 * 2 ^ 32), sga 2048, 7, 0, 0, 0] else [sga 4096, hga 1024, BitVec.ofNat 64 (300 + 1 * 2 ^ 32), sga 2048, 7, 0, 0, 0]
theorem meets_CopyEngine_putGet : cardCheck (sC (cardP 3)) 0 (some 0) 3 (cardP 3) = none ∧ cardCheck (sC (cardP 4)) 0 (some 0) 4 (cardP 4) = none := by
  decide +kernel
def job (run : Bool) (row off : Nat) (c : List Word) : Job := ⟨0, c, 0, 0, none, none, false, 7, run, row, off, none, none⟩
def sQ (j : List Job) : State := co (fun c => { c with jobs := j }) (putB (sp 1024) srcC (tl wA))
/-- A job that waits behind one that runs; packets of 256 bytes and the rest of one of 300. -/
theorem meets_CopyEngine_steps :
    (let s := sQ [job true 0 0 cardA, { job false 0 0 cardA with seq := 3 }];
      (s.chip 0).tripped = false ∧ (s.core 0).jobs[1]? = some ({ job false 0 0 cardA with seq := 3 }) ∧ ((s.core 0).jobs.filter (·.running)).length < 4
      ∧ blocked s (Job.footprint { job false 0 0 cardA with seq := 3 } (coreDie 0)) = false ∧ (∀ y ∈ (s.core 0).jobs[0]?, y.running = true))
    ∧ (∀ x ∈ [(0, 256), (256, 44)], let s := sQ [job true 0 x.1 cardA];
      (s.core 0).jobs[0]? = some (job true 0 x.1 cardA) ∧ min 256 (cardLen cardA - x.1) = x.2 ∧ rowAddr (cardSrc cardA) 0 0 = (sga 1024).toNat
      ∧ engineRange s (engineId 7) 0 ((job true 0 x.1 cardA).core 0) 0 .read (((sga 1024).toNat + x.1) % 2 ^ 64) x.2 = (.ok (rf (sp (1024 + x.1)) x.2), s)
      ∧ engineRange s (engineId 7) 0 ((job true 0 x.1 cardA).core 0) 0 .write ((rowAddr (cardDst cardA) 0 0 + x.1) % 2 ^ 64) x.2 = (.ok (rf (4096 + x.1) x.2), s)
      ∧ s.anyBad (rf (sp (1024 + x.1)) x.2) = false) := by decide +kernel
/-- The second row of a gather, whose index is 3. -/
def cardG : List Word := card 30 0 0 0 2 4096 64 32 (sga 3072)
theorem meets_CopyEngine_gather : (let j : Job := { job true 1 0 cardG with kind := 2 }
    let s := putB (sp 3076) [3] (sQ [j]);
    (s.core 0).jobs[0]? = some j ∧ j.row < jobRows 2 cardG ∧ j.src = none ∧ engineRange s (engineId 7) 0 (j.core 0) 0 .read ((cardXaddr cardG + 4 * 1) % 2 ^ 64) 4 = (.ok (rf (sp 3076) 4), s)
    ∧ s.clean (rf (sp 3076) 4) ∧ cardSrc cardG + (leNat ((rf (sp 3076) 4).map s.byte)) * cardSstride cardG = (sga (1024 + 96)).toNat
    ∧ (sga (1024 + 96)).toNat + cardLen cardG ≤ cardSrc cardG + cardFext cardG) := by unfold State.clean; decide +kernel
theorem meets_CopyEngine_signal :
    (let s := sQ [job true 1 0 cardA]; (s.core 0).jobs[0]? = some (job true 1 0 cardA) ∧ cardSig cardA = true ∧ jobRows 0 cardA ≤ 1
      ∧ (cardFlags cardA).testBit 1 = false ∧ addrDie (coreDie 0) (cardSaddr cardA) = coreDie 0
      ∧ engineCheck s (engineId 7) 0 ((job true 1 0 cardA).core 0) 0 .write (cardSaddr cardA) (cardSigBytes cardA) = (.ok (rf (sp 2048) 4), s))
    ∧ (let c := card 300 3 (sga 2048) 5 0 0 0 0 0
      let s := sQ [job true 1 0 c];
      (cardFlags c).testBit 1 = true ∧ s.clean (rf (sp 2048) 4)
      ∧ engineCheck s (engineId 7) 0 ((job true 1 0 c).core 0) 0 .rmw (cardSaddr c) (cardSigBytes c) = (.ok (rf (sp 2048) 4), s))
    ∧ cardSig (card 300 0 0 0 0 0 0 0 0) = false := by unfold State.clean; decide +kernel
theorem meets_CopyEngine_noRing : (sQ [job true 1 0 cardA]).noRing := noRing_one _ _ rfl rfl
/-- One of a copy node, whose node is still there. -/
theorem meets_CopyEngine_node : (let s := (sQ [{ job true 1 0 cardA with node := some (0, 7), member := none }]).modDie 0 (fun d =>
      { d with pool := [(3, { handle := 7, ctx := 0, words := [], order := 0, level := 0, preds := [], chain := none })] })
    (liveNode s 0 7).map (·.1) = some 3) := by decide +kernel

/-! Windows, publications and collectives -/

def sub0 (f : Crew → Crew) : State :=
  ((tl (putB 256 srcC (va [(1, sga 256), (2, 512), (3, 63), (4, hga 256), (6, 9)] f wA))).setReg 0 (0x600 + 252) 1).setReg 0 (0x600 + 255) 9
def win0 : Window := ⟨hga 256, 512, 0, false, true, 0, []⟩
theorem meets_ReadOnlyWindows : (sub0 id).cur.xs = false ∧ (sub0 id).stepping = false
    ∧ (sub0 id).ready [1, 2, 3, 4, 6] [5] = true ∧ (∀ r ∈ [1, 4], ((sub0 id).val r).toNat < 2 ^ 61 ∧ ((sub0 id).val r).toNat % 256 = 0)
    ∧ ((sub0 id).val 2).toNat % 256 = 0 ∧ 0 < ((sub0 id).val 2).toNat ∧ ((sub0 id).val 1).toNat % 2 ^ 20 + ((sub0 id).val 2).toNat ≤ 2 ^ 20
    ∧ crewCheck (sub0 id) 0 false ((sub0 id).val 1).toNat 1 = .ok (.spad 0 256) ∧ crewCheck (sub0 id) 0 false ((sub0 id).val 4).toNat 1 = .ok (.hbm 0 (2 ^ 50 + 256))
    ∧ ((sub0 id).reg 0 (0x600 + 4 * 63)).getLsbD 0 = true ∧ (((sub0 id).reg 0 (0x600 + 4 * 63)).extractLsb' 1 8).toNat = (sub0 id).myCrew.ctx
    ∧ ((sub0 id).val 6).toNat ≤ ((sub0 id).reg 0 (0x600 + 4 * 63 + 3)).toNat ∧ ((sub0 id).reg 0 (0x600 + 4 * 62)).getLsbD 0 = false := by decide +kernel
theorem meets_ReadOnlyWindows_blocks :
    (let s := sub0 (fun c => { c with win := [(0, win0), (3, { win0 with blocks := [(1, [⟨5, false⟩])] })] });
     (Machine.get {} (s.crew 0).win 0).bound = true ∧ 256 * 1 < (Machine.get {} (s.crew 0).win 0).len ∧ Machine.get [] (Machine.get {} (s.crew 0).win 0).blocks 1 = []
     ∧ issuerCheck s 0 (some 0) (fun _ => none) false ((hga 256).toNat + 256) 256 = .ok (.hbm 0 (2 ^ 50 + 512)) ∧ pathDown s 0 0 = false ∧ linkOpen s 0 0 = true ∧ Place.die (.hbm 0 (2 ^ 50 + 512)) 0 = 0
     ∧ locate s (some 0) 0 .read 256 (.hbm 0 (2 ^ 50 + 512)) = (.ok (lh 512 256), s) ∧ s.admits 0 (rf 512 256) = true ∧ s.anyBad (rf 512 256) = false
     ∧ Machine.get [] (Machine.get {} (s.crew 0).win 3).blocks 1 ≠ []) := by decide +kernel
def chan (s : State) : State := ((s.setReg 0 (0xA00 + 2 * 5) (BitVec.ofNat 64 (1 + 2 * 2 ^ 9 + 300 * 2 ^ 16))).setReg 0 (0x800 + 16) 1).setReg 0 (0x800 + 17) 3
def sPb : State := chan (putB 256 srcC (tl (va [(1, hga 256), (2, 300)] id wA)))
def subP (s : State) : State := ((s.setReg 0 (0x600 + 8) (BitVec.ofNat 64 (1 + 5 * 2 ^ 17))).setReg 0 (0x600 + 9) (hga 4096)).setReg 0 (0x600 + 10) 300
def pubA (acc : Bool) (off : Nat) : Pub :=
  { die := 0, ch := 5, edition := 4, crew := 0, ctx := 0, member := none, src := hga 256, len := 300, seq := 3, accepted := acc, data := if acc then vb (srcC ++ List.replicate 292 0) else [], dests := if acc then [(0, off), (1, 0)] else [] }
theorem meets_Publications : sPb.cur.xs = false ∧ sPb.stepping = false ∧ sPb.ready [1, 2] [] = true ∧ (sPb.val 1).toNat < 2 ^ 61 ∧ gaDie 0 (sPb.val 1).toNat = 0
    ∧ (sPb.reg 0 (0xA00 + 2 * 5)).getLsbD 0 = true ∧ (sPb.val 2).toNat = ((sPb.reg 0 (0xA00 + 2 * 5)).extractLsb' 16 32).toNat ∧ 1 ≤ (sPb.val 2).toNat
    ∧ ((sPb.reg 0 (0xA00 + 2 * 5)).extractLsb' 1 8).toNat = sPb.myCrew.ctx
    ∧ issuerCheck sPb 0 (some 0) (fun _ => none) false (sPb.val 1).toNat 1 = .ok (.hbm 0 (2 ^ 50 + 256))
    ∧ issuerCheck sPb 0 (some 0) (fun _ => none) false ((sPb.val 1).toNat + 299) 1 = .ok (.hbm 0 (2 ^ 50 + 555)) ∧ (sPb.myCrew.counter 3).blocked = false := by decide +kernel
/-- One of another channel stands before it; its last packet, and the one before. -/
def pubZ : Pub := { pubA true 0 with ch := 6 }
theorem meets_Publications_engine :
    (let s := { sPb with pubs := [pubZ, pubA false 0] }
     s.pubs = [pubZ] ++ pubA false 0 :: [] ∧ (pubZ.die = 0 ∧ pubZ.ch ≠ 5) ∧ blocked s (pubA false 0).footprint = false ∧ s.anyBad (rf 256 300) = false
      ∧ engineRange s (engineId 3) 0 (some (crewCore 0)) 0 .read (hga 256).toNat 300 = (.ok (rf 256 300), s)
      ∧ groupMembers s 0 (wfield (s.reg 0 (0xA00 + 2 * 5)) 9 6) = [0, 1])
    ∧ (∀ x ∈ [(0, 256), (256, 44)], let s := subP { sPb with pubs := [pubZ, pubA true x.1] };
      ((pubA true x.1).dests.find? (fun d => d.1 == 0)) = some (0, x.1) ∧ findSub s 0 0 5 = some 2 ∧ linkOpen s 0 0 = true
      ∧ (s.reg 0 (0x600 + 8)).getLsbD 23 = false ∧ 300 ≤ wfield (s.reg 0 (0x600 + 10)) 0 32 ∧ (pubA true x.1).data.length = 300 ∧ min 256 (300 - x.1) = x.2
      ∧ partPoison s (rf (4096 + x.1) x.2) = none
      ∧ engineRange s (engineId 3) 0 none (wfield (s.reg 0 (0x600 + 8)) 1 8) .write (((s.reg 0 (0x600 + 9)).toNat + x.1) % 2 ^ 64) x.2 = (.ok (rf (4096 + x.1) x.2), s)) := by
  decide +kernel
theorem meets_Publications_noRing : sPb.noRing := noRing_one _ (sPb.die 0) (by decide +kernel) (by decide +kernel)
/-- Dies 0 and 1 with routes to each other; group 2 is dies 0, 1 and 2; three FP32 values in each source. -/
def sGr : State :=
  let s := putB (2 ^ 45 + 64 * 2 ^ 20 + 128) [0, 0, 0x80, 0x3F, 0, 0, 0, 0x40, 0, 0, 0x40, 0x40] (putB (sp 128) [0, 0, 0x80, 0x3F, 0, 0, 0, 0x40, 0, 0, 0x40, 0x40] (tl (va [(1, sga 128), (2, sga 1024), (3, 6)] id wA)));
  ((((route 0 1 0x4800 (route 1 0 0x4800 s)).modChip 0 (fun c => { c with supplied := true })).setReg 0 (0x800 + 16) 1)).setReg 0 (0x800 + 17) 7
def sG2 : State := { sGr with cores := sGr.cores ++ [(64, core0)], crews := sGr.crews ++ [(256, crew0)] }
theorem meets_Collectives_joins : sGr.cur.xs = false ∧ sGr.stepping = false ∧ sGr.ready [1, 2, 3] [] = true ∧ sGr.colls = []
    ∧ collCheck sGr 0 (some 0) 0 2 0 (sGr.val 1).toNat (sGr.val 2).toNat 4 (sGr.val 3) = none ∧ (sGr.myCrew.counter 3).blocked = false
    ∧ collsOut sGr 0 2 < 4 ∧ groupMembers sGr 0 2 = [0, 1, 2] ∧ (∀ d ∈ groupMembers (sGr.setReg 0 (0x800 + 17) 3) 0 2, pathDown sGr 0 d = false) := by decide +kernel
theorem noRing_two (s : State) (D E : Die) (h : s.dies = [(0, D), (1, E)]) (hr : Machine.get 0 D.regs 0x111 = 0 ∧ Machine.get 0 E.regs 0x111 = 0) : s.noRing := by
  have ht : ∀ d, Machine.get ({} : Die) [(0, D), (1, E)] d = if d = 0 then D else if d = 1 then E else {} := by
    intro d
    rcases d with _ | _ | d <;> rfl
  intro d
  simp only [State.reg, State.die, h, ht]
  split
  · rw [hr.1]; rfl
  · split
    · rw [hr.2]; rfl
    · rfl
theorem meets_Collectives_noRing : sGr.noRing ∧ ({ sG2 with colls := [] } : State).noRing :=
  ⟨noRing_two _ (sGr.die 0) (sGr.die 1) (by decide +kernel) (by decide +kernel), noRing_two _ (sG2.die 0) (sG2.die 1) (by decide +kernel) (by decide +kernel)⟩
def mbr (d : Nat) (half : Bool) : CollMember :=
  { die := d, crew := 256 * d, ctx := 0, member := none, node := none, shape := (0, 0, half, 6, 0), mask := [0, 1, 2], src := sga 128, dst := sga 1024, seq := d }
def cel (g : List Nat) : CollElem := { got := g, acc := 0x40000000 }
def collA (half : Bool) : Coll := { group := 2, num := 0, members := [mbr 0 half, mbr 1 half], elems := [(0, cel [0]), (1, cel [])] }
/-- The second member's contribution to element 0, whose owner is die 0, after another's and as the first; in both formats. -/
theorem meets_Collectives_contributes : ∀ x ∈ [(false, 4), (true, 2)], let s : State := { sG2 with colls := [collA x.1] }
    let m := mbr 1 x.1
    let o := mbr 0 x.1
    s.colls[0]? = some (collA x.1) ∧ (collA x.1).at 1 = some m ∧ (collA x.1).at (m.mask.getD (m.blockOf 0) 0) = some o ∧ m.combines = true ∧ 0 < m.n
    ∧ m.complete = false ∧ o.complete = false ∧ m.failed = [] ∧ o.failed = [] ∧ o.mask = m.mask ∧ o.shape = m.shape ∧ 1 ∈ o.mask ∧ 2 ∈ o.mask ∧ 1 ≤ credits s 1 0 ∧ 1 ∉ ((collA x.1).elem 0 0).got ∧ pathDown s 1 0 = false ∧ linkOpen s 1 0 = true
    ∧ blocked s m.footprint = false ∧ (collA x.1).at 2 = none ∧ m.width = x.2
    ∧ engineRange s m.id 1 m.core m.ctx .read ((m.src.toNat + 0 * m.width) % 2 ^ 64) m.width = (.ok (rf (2 ^ 45 + 64 * 2 ^ 20 + 128) x.2), s)
    ∧ s.anyBad (rf (2 ^ 45 + 64 * 2 ^ 20 + 128) x.2) = false ∧ 0 < routeLanes s 1 0 ∧ flits m.width ≤ credits s 1 0 := by decide +kernel
def collR : Coll := { group := 2, num := 0, members := [mbr 0 false, mbr 1 false], elems := [(0, cel [0, 1, 2]), (1, cel [2, 1, 0])] }
theorem meets_Collectives_results : let s : State := { sG2 with colls := [collR] }
    let m := mbr 1 false
    collR.at (m.mask.getD 0 0) = some (mbr 0 false) ∧ 0 < m.mask.length ∧ m.complete = false ∧ m.has 0 = false ∧ m.receives 0 = true ∧ blocked s m.footprint = false
    ∧ pathDown s 0 1 = false ∧ pathDown s 1 0 = false ∧ linkOpen s 0 1 = true ∧ m.combines = true ∧ collR.combined m 0 = true ∧ 1 ≤ credits s 0 1
    ∧ (collR.at 0 = some (mbr 0 false) ∧ 2 ∈ (mbr 0 false).mask ∧ collR.at 2 = none)
    ∧ 0 < routeLanes s 0 1 ∧ flits 8 ≤ credits s 0 1 ∧ Machine.get 0 m.part 0 = 0
    ∧ (let all := ((List.range (m.lo 1 - m.lo 0)).map (fun i => collR.elem 0 (m.lo 0 + i))).flatMap m.result
       all.length = 8 ∧ engineRange s m.id 1 m.core m.ctx .write ((m.dst.toNat + m.lo 0 * m.width + 0) % 2 ^ 64) 8
         = (.ok (rf (2 ^ 45 + 64 * 2 ^ 20 + 1024) 8), s)) := by decide +kernel
/-- A block of 300 bytes, the first packet of which has landed. -/
theorem meets_Collectives_packets : (let m := { mbr 1 false with shape := (3, 0, false, 75, 0), part := [(0, 256)] }
    m.lo 1 - m.lo 0 ≤ 75 ∧ Machine.get 0 m.part 0 = 256 ∧ m.has 0 = false ∧ m.combines = false) := by decide +kernel
/-- An allgather's source, and a broadcast's, as their members send them once. -/
theorem meets_Collectives_sources : ∀ kind ∈ [2, 3], let m : Nat → CollMember := fun d => { mbr d false with shape := (kind, 0, false, 3, 0) }
    let c : Coll := { group := 2, num := 0, members := [m 0, m 1] }
    let s : State := { sG2 with colls := [c] };
    (m 1).combines = false ∧ c.at ((m 1).mask.getD 0 0) = some (m 0) ∧ (m 1).receives 0 = true ∧ blocked s (m 0).footprint = false ∧ (m 0).die = 0 ∧ (m 0).sent = none
    ∧ (m 0).mask = (m 1).mask ∧ (m 0).shape = (m 1).shape ∧ s.clean (rf (sp 128) 12)
    ∧ s.leave (m 0).id (rf (sp 128) 12) = s
    ∧ engineRange s (m 0).id 0 (m 0).core (m 0).ctx .read (m 0).src.toNat ((m 0).n * (m 0).width) = (.ok (rf (sp 128) 12), s) := by unfold State.clean; decide +kernel
def collF : Coll := { group := 2, num := 0, members := [{ mbr 0 false with failed := [(0, 2, 0, 22)] }, mbr 1 false], elems := [] }
theorem meets_Collectives_fails : let s : State := { sG2 with colls := [collF] }
    s.colls[0]? = some collF ∧ collF.at 1 = some (mbr 1 false) ∧ collF.at 0 = some { mbr 0 false with failed := [(0, 2, 0, 22)] } ∧ (mbr 1 false).complete = false
    ∧ (mbr 1 false).has 0 = false ∧ (mbr 1 false).mask.getD 0 0 = 0 ∧ 0 ≠ 1 ∧ (mbr 0 false).rank = 0 ∧ 0 ∈ (mbr 1 false).mask ∧ pathDown s 0 1 = false
    ∧ 0 < routeLanes s 0 1 ∧ 1 ≤ credits s 0 1 ∧ 2 ∈ (mbr 1 false).mask ∧ collF.at 2 = none := by decide +kernel
theorem meets_DarkLanesAndPaths : dieChip 0 = dieChip 1 ∧ 0 < routeLanes sGr 0 1 ∧ routeDark sGr 0 1 = false ∧ sGr.colls = []
    ∧ (let s := sGr.setReg 0 (0x600 + 4 * 63) (BitVec.ofNat 64 (1 + 1 * 2 ^ 9));
       (s.reg 0 (0x600 + 4 * 63)).getLsbD 0 = true ∧ wfield (s.reg 0 (0x600 + 4 * 63)) 9 8 = 1 ∧ routeDark s 0 255 = false ∧ s.colls = [])
    -- an access of crew 0 to die 1 once the path is dark, and a path of two lanes with a flit that is kept
    ∧ (let s := after (.pathDarkMark 0 1) sGr
       routeDark s 0 1 = true ∧ crewCheck s 0 false (2 ^ 51 + 2 ^ 50 + 64) 8 = .ok (.hbm 1 (2 ^ 50 + 64)))
    ∧ (let s := (route 0 1 0x4200 sGr).modDie 0 (fun d => { d with paths := [(1, { unack := [(3, 1)] })] })
       routeLanes s 0 1 = 2 ∧ ∀ e ∈ (Machine.get {} (s.die 0).paths 1).unack, e.2 < routeLanes s 0 1) := by decide +kernel

/-! Matrix instructions -/

def til (en : Bool) (slot nr nc : Nat) : Tile := { en := en, slot := slot, nr := nr, nc := nc }
/-- Crew 0 with tile 1 as given. -/
def sT (t : Tile) (f : Crew → Crew) : State :=
  co (fun c => { c with s := 16, tiles := [(1, t)] })
    (va [(1, sga 4096), (2, sga 8192), (3, 48), (4, 49), (6, 64), (7, sga 65536), (8, 128), (9, 129), (10, 0), (11, sga 131040)] f wA)
def fT : T32f := ⟨1, 2, 3, 1, 1, false, 0, 0⟩
/-- A tile of the crew at its largest, an empty one, one of another crew and one not enabled. -/
theorem meets_TileInstructions : (∀ x ∈ [(128, 128), (0, 0), (33, 2)], let s := sT (til true 0 x.1 x.2) id
      s.cur.xs = false ∧ s.stepping = false ∧ ((Machine.get {} (s.core s.myCore).tiles 1).en = true ∧ (Machine.get {} (s.core s.myCore).tiles 1).slot = s.me % 4)
      ∧ tilePending s s.myCore 1 = false ∧ s.myCrew.viq = [] ∧ s.ready [1, 2, 3, 4, 6, 7, 8, 9, 10] [] = true ∧ (s.core s.myCore).mq.length < 8
      ∧ (s.core s.myCore).mrun = none ∧ (s.myCrew.counter 1).blocked = false)
    ∧ (let s := sT (til true 0 128 128) id
       (s.val 8).toNat ≤ 128 ∧ 128 < (s.val 9).toNat ∧ (s.val 3).toNat ≤ 48 ∧ 48 < (s.val 4).toNat ∧ (s.val 10).toNat = 0 ∧ (s.val 6).toNat % 32 = 0
       ∧ (operandCheck s s.me (s.val 1).toNat 32 (127 * 96 + 2 * 48)).isOk = true ∧ (operandCheck s s.me (s.val 2).toNat 32 (127 * 96 + 2 * 48)).isOk = true
       ∧ (operandCheck s s.me (s.val 1).toNat 32 (127 * 64 + 128 * 4)).isOk = true ∧ (operandCheck s s.me (s.val 7).toNat 32 (127 * 64 + 128 * 2)).isOk = true
       ∧ (operandCheck s s.me (s.val 7).toNat 32 (127 * 64 + 4 * 5 * 4)).isOk = true ∧ (operandCheck s s.me (s.val 2).toNat 1 (127 * 4 + 4)).isOk = true)
    ∧ (let s := sT (til true 0 1 8) id; (operandCheck s s.me (s.val 11).toNat 32 (0 * 64 + 8 * 4)).isOk = true)
    ∧ (let s := sT (til true 0 33 2) (fun c => { c with follow := .awaiting, landed := some 0 })
       s.myCrew.follow = .awaiting ∧ s.myCrew.landed = some 0)
    ∧ (Machine.get {} ((sT (til false 0 33 2) id).core 0).tiles 1).en = false
    ∧ (Machine.get {} ((sT (til true 2 33 2) id).core 0).tiles 1).en = true ∧ (Machine.get {} ((sT (til true 2 33 2) id).core 0).tiles 1).slot ≠ 0 % 4 := by
  decide +kernel
/-- The unit runs a command and seven stand behind it: a further one waits, unless it is deferred. -/
theorem meets_TileInstructions_full : ∀ en ∈ [true, false],
    let cmd : MatCmd := ⟨0, .tzero fT, [], 2, 2, none, 0, 0, 0, 0⟩
    let s := co (fun c => { c with mq := List.replicate 7 cmd, mrun := some ⟨cmd, 1, 0, [], 0⟩ }) (sT (til en 0 2 2) id)
    ¬((s.core s.myCore).mq.length + (if (s.core s.myCore).mrun.isSome then 1 else 0) < 8) ∧ s.ready [1, 2, 4] [] = true
    ∧ (Machine.get {} (s.core s.myCore).tiles 1).en = en ∧ ({ fT with op := 4 } : T32f).op.getLsbD 2 = true ∧ fT.op.getLsbD 2 = false
    ∧ 48 < (s.val 4).toNat := by decide +kernel
def mcmd (i : Instr) (args : List Word) (nr nc : Nat) : MatCmd := ⟨0, i, args, nr, nc, some ⟨0, 2, 0⟩, 0, 0, 0, 0⟩
/-- Core 0 runs the command at a block row. -/
def sM (i : Instr) (args : List Word) (nr nc row : Nat) : State :=
  co (fun c => { c with s := 16, tiles := [(1, til true 0 nr nc)], mrun := some ⟨mcmd i args nr nc, 1, row, [], 0⟩ })
    (va [] (fun c => { c with cc := [(2, { joined := 1, batch := { pending := 1 } })] }) wA)
theorem meets_MatrixCommands_starts :
    (let s := co (fun c => { c with s := 16, tiles := [(1, til true 0 2 2)], mq := [mcmd (.mma fT) [sga 4096, sga 8192, 5] 2 2] }) (va [] id wA)
     let cmd := mcmd (.mma fT) [sga 4096, sga 8192, 5] 2 2
     (s.core 0).mrun = none ∧ (s.core 0).mq = cmd :: [] ∧ cmd.first = 1 ∧ unclaimed s 0 cmd.first cmd = true
     ∧ (s.chip (dieChip (coreDie 0))).tripped = false ∧ s.admitsEngine (engineId cmd.seq) (cmd.reads 0 cmd.first) = true
     ∧ s.anyBad (cmd.reads 0 cmd.first) = false) := by decide +kernel
theorem meets_MatrixCommands_telem (i : Instr) (args : List Word) (nr nc row : Nat) (x y : Nat) : ((sM i args nr nc row).telem 0 1 x y).p = false := by
  simp [State.telem, State.core, sM, co, va, cr, wA, State.setReg, State.modDie, State.reset, Machine.get, til]
/-- Block row 0 and the last block row of an mma, an mma that is complete, and the other commands. -/
theorem meets_MatrixCommands_runs (row : Nat) (hr : 32 * row < 128) (p : Nat) :
    ((sM (.mma fT) [sga 4096, sga 8192, 0] 128 128 row).core 0).mrun = some ⟨mcmd (.mma fT) [sga 4096, sga 8192, 0] 128 128, 1, row, [], 0⟩
    ∧ 0 < (mcmd (.mma fT) [sga 4096, sga 8192, 0] 128 128).nc ∧ 32 * row < (mcmd (.mma fT) [sga 4096, sga 8192, 0] 128 128).nr
    ∧ (Machine.get ({} : VByte) ([] : SMap VByte) p).p = false := ⟨rfl, by decide, hr, rfl⟩
theorem meets_MatrixCommands_ends : ∀ x ∈ [(Instr.mma fT, 33), (.tzero fT, 33), (.ten fT, 33), (.tld fT, 33), (.tst fT, 33), (.tst { fT with op := 1 }, 1), (.tst { fT with op := 2 }, 33)],
    let s := sM x.1 [sga 4096, 64, sga 8192] x.2 2 2
    (s.core 0).mrun = some ⟨mcmd x.1 [sga 4096, 64, sga 8192] x.2 2, 1, 2, [], 0⟩ ∧ x.2 ≤ 32 * 2 ∧ x.2 ≤ 128 ∧ (x.2 ≤ 1 ∨ 2 * 4 ≤ (64 : Nat)) := by decide +kernel
theorem meets_MatrixCommands_noRing (i : Instr) (args : List Word) (nr nc row : Nat) : (sM i args nr nc row).noRing := noRing_one _ _ rfl rfl
/-- With no lock, no slice in use and nothing waiting, an engine may perform any access. -/
theorem engine_all (s : State) (r : Nat) (h : s.locks = []) (hf : s.fifo = []) (hd : ∀ d n, Machine.get {} (s.die d).slices n = {})
    (ps : List Nat) : s.admitsEngine r ps = true := by
  simp [State.admitsEngine, State.turnOf, hf, clear_all s h (fun d n => by rw [hd])]
theorem meets_MatrixCommands_admits (i : Instr) (args : List Word) (nr nc row r : Nat) (ps : List Nat) :
    (sM i args nr nc row).admitsEngine r ps = true :=
  engine_all _ r rfl rfl (fun d n => slices_one (sM i args nr nc row) ((sM i args nr nc row).die 0) rfl rfl d n) ps
def desc (gr gc nt z kt rl cl a b : Nat) : List Nat := le 4 ((gr - 1) + (gc - 1) * 16 + (nt - 1) * 32 + z * 128) ++ le 4 (kt + rl * 2 ^ 16 + cl * 2 ^ 24) ++ le 4 a ++ le 4 b
def coreG : Core := { core0 with s := 16, node := some (0, 5), tiles := [(0, til true 0 3 2), (1, til true 0 3 2)] }
/-- Crew 0, which leads the node of cores 0 and 1, with a descriptor at the end of its scratchpad. -/
def sG0 : State := va [(1, sga 131056)] (fun c => { c with home := some (0, 5) }) wA
def sGa (d : List Nat) : State :=
  let s := putB (sp 131056) d sG0
  { s with cores := [(0, coreG), (1, coreG)], crews := s.crews ++ [(4, { crew0 with home := some (0, 5) })] }
def fG : T32f := ⟨1, 0, 0, 2, 0, false, 0, 0⟩
def descs : List (List Nat) := [desc 1 1 1 0 9 5 2 4096 8192, desc 2 1 1 1 50 3 2 4096 20480, desc 1 2 2 0 60 2 3 4096 32768]
def argsOf (s : State) : List Word := (List.range 4).map (fun i => BitVec.ofNat 64 (leNat ((List.range 4).map (fun j => (s.seen 0 (sp 131056 + (4 * i + j))).b))))
theorem meets_GangInstruction_accepts : ∀ d ∈ descs, (sGa d).cur.xs = false ∧ (sGa d).stepping = false ∧ (sGa d).ready [1] [] = true
    ∧ (operandCheck (sGa d) 0 ((sGa d).val 1).toNat 16 16).toOption = some (0, 131056)
    ∧ (sGa d).lets 0 0 (rf (sp 131056) 16) = true ∧ (sGa d).anyBad (rf (sp 131056) 16) = false ∧ (∀ p ∈ rf (sp 131056) 16, ((sGa d).seen 0 p).p = false)
    ∧ gangCheck (sGa d) 0 ((sGa d).val 1).toNat 0 (argsOf (sGa d)) = none ∧ ((sGa d).myCrew.counter 2).blocked = false
    ∧ (∀ n, n < 2 → ((sGa d).core (0 + n)).mq.length + (if ((sGa d).core (0 + n)).mrun.isSome then 1 else 0) < 8) := by decide +kernel
/-- One that pre-emption stopped here before its second step, and one to be armed. -/
theorem meets_GangInstruction_again : let d := desc 2 1 1 1 50 3 2 4096 20480
    let c : MatCmd := ⟨0, .mmag fG, [], 0, 0, none, 3, pc0, 1, 13⟩
    (let s := (sGa d).modCrew 0 (fun k => { k with gang := some c })
     s.myCrew.gang.filter (fun x => x.pc == s.myCrew.a.pc) = some c ∧ gangCheck s 0 (s.val 1).toNat 1 (argsOf s) = none)
    ∧ (let s := (sGa d).modCrew 0 (fun k => { k with follow := .awaiting })
     s.myCrew.gang = none ∧ s.myCrew.follow = .awaiting ∧ s.myCrew.landed = none) := by decide +kernel
def gcmd (d : List Nat) (st : Nat) : MatCmd := ⟨0, .mmag fG, sga 131056 :: argsOf (sGa d), 0, 0, none, 0, 0, st, 0⟩
def sGq (d : List Nat) (st : Nat) : State := { sGa d with cores := [(0, { coreG with mq := [gcmd d st] }), (1, { coreG with mq := [gcmd d st] })] }
def gangs : List (List Nat × Nat) := [(desc 1 1 1 0 9 5 2 4096 8192, 0), (desc 2 1 1 1 50 3 2 4096 20480, 0), (desc 2 1 1 1 50 3 2 4096 20480, 1)]
/-- The one step of a gang of one core, and the first and the last step of a gang of two; and one that is to stop. -/
theorem meets_GangInstruction_steps : ∀ x ∈ gangs,
    ((sGq x.1 x.2).core 0).mq = gcmd x.1 x.2 :: [] ∧ crewCore (gcmd x.1 x.2).crew = 0 ∧ gangHeads (sGq x.1 x.2) (gcmd x.1 x.2) x.2 = true
    ∧ ((sGq x.1 x.2).crew 0).stop ≠ .preempt ∧ ((sGq x.1 x.2).crew 0).gang = none ∧ ((sGq x.1 x.2).crew 0).a.run = .running
    ∧ ((sGq x.1 x.2).chip (dieChip (coreDie 0))).tripped = false ∧ (∀ n ∈ (gcmd x.1 x.2).cores, ((sGq x.1 x.2).core n).mq = [gcmd x.1 x.2]
        ∧ unclaimed (sGq x.1 x.2) n 0 (gcmd x.1 x.2) = true)
    ∧ (let s := (sGq x.1 x.2).modCrew 0 (fun c => { c with stop := .preempt, a := { c.a with run := .halted } })
       (s.crew 0).stop = .preempt ∧ (s.crew 0).a.run ≠ .running ∧ (s.crew 0).gang = none ∧ gangHeads s (gcmd x.1 x.2) x.2 = true) := by decide +kernel
/-- Core 0 in a K step, at a block row of a tile; the other core has done so many steps. -/
def sGr0 (d : List Nat) (st tile row other : Nat) : State :=
  { sGa d with cores := [(0, { coreG with mrun := some ⟨gcmd d st, tile, row, [], 0⟩ }), (1, { coreG with mq := [gcmd d other] })] }
theorem meets_GangInstruction_rows : ∀ x ∈ gangs, (gangOf ((gcmd x.1 x.2).args.drop 1)).rl ≤ 128 ∧ (gangOf ((gcmd x.1 x.2).args.drop 1)).cl ≤ 128
    ∧ 0 < (gangOf ((gcmd x.1 x.2).args.drop 1)).cl ∧ 32 * 0 < (gangOf ((gcmd x.1 x.2).args.drop 1)).rl := by decide +kernel
/-- Another tile of the step to do; a step to do; one that the other core has still to do; and the end. -/
theorem meets_GangInstruction_completes :
    (let d := desc 1 2 2 0 60 2 3 4096 32768
     let s := sGr0 d 0 0 4 0
     (s.core 0).mrun = some ⟨gcmd d 0, 0, 4, [], 0⟩ ∧ 128 ≤ 32 * 4 ∧ 0 + 1 < (gangOf ((gcmd d 0).args.drop 1)).nt
     ∧ unclaimed s 0 1 (gcmd d 0) = true)
    ∧ (let d := desc 2 1 1 1 50 3 2 4096 20480
     (gangOf ((gcmd d 0).args.drop 1)).nt ≤ 0 + 1 ∧ 0 + 1 < ((gangOf ((gcmd d 0).args.drop 1)).kt + 47) / 48
     ∧ ((gangOf ((gcmd d 0).args.drop 1)).kt + 47) / 48 ≤ 1 + 1 ∧ (gcmd d 1).cores = [0, 1]
     ∧ (∀ n ∈ [1], ((sGr0 d 1 0 4 2).core n).mrun = none ∧ ((sGr0 d 1 0 4 2).core n).mq = gcmd d 2 :: [] ∧ (gcmd d 2).seq = (gcmd d 1).seq
        ∧ (gcmd d 2).gstep = 1 + 1 ∧ (gcmd d 2).cause = 0)
     ∧ ((sGr0 d 1 0 4 1).core 1).mq = [gcmd d 1] ∧ (gcmd d 1).gstep ≠ 1 + 1) := by decide +kernel
theorem sGa_eq (d : List Nat) : ∃ m c, sGa d = { sG0 with mem := m, cores := [(0, coreG), (1, coreG)], crews := c } := by
  obtain ⟨m, h⟩ := putB_eq (sp 131056) d sG0
  exact ⟨m, sG0.crews ++ [(4, { crew0 with home := some (0, 5) })], by unfold sGa; rw [h]⟩
theorem meets_GangInstruction_noRing (d : List Nat) (st tile row other : Nat) : (sGr0 d st tile row other).noRing := by
  obtain ⟨m, c, h⟩ := sGa_eq d
  exact noRing_one _ (wA.die 0) (by simp only [sGr0, h]; rfl) rfl
theorem meets_GangInstruction_clean (d : List Nat) (st tile row other r : Nat) (ps : List Nat) :
    ((sGq d st).admitsEngine r ps = true ∧ (sGq d st).clean ps) ∧ (sGr0 d st tile row other).admitsEngine r ps = true
    ∧ (sGr0 d st tile row other).clean ps := by
  obtain ⟨m, c, h⟩ := sGa_eq d
  have hq : (sGq d st).dies = [(0, wA.die 0)] ∧ (sGq d st).locks = [] ∧ (sGq d st).bad = [] ∧ (sGq d st).poison = [] ∧ (sGq d st).fifo = [] := by
    simp only [sGq, h]; exact ⟨rfl, rfl, rfl, rfl, rfl⟩
  have hr : (sGr0 d st tile row other).dies = [(0, wA.die 0)] ∧ (sGr0 d st tile row other).locks = [] ∧ (sGr0 d st tile row other).bad = []
      ∧ (sGr0 d st tile row other).poison = [] ∧ (sGr0 d st tile row other).fifo = [] := by
    simp only [sGr0, h]; exact ⟨rfl, rfl, rfl, rfl, rfl⟩
  exact ⟨⟨engine_all _ r hq.2.1 hq.2.2.2.2 (slices_one _ _ hq.1 rfl) ps, noBad_all _ hq.2.2.1 ps, fun p _ => noPoison_all _ hq.2.2.2.1 p⟩,
    engine_all _ r hr.2.1 hr.2.2.2.2 (slices_one _ _ hr.1 rfl) ps, noBad_all _ hr.2.2.1 ps, fun p _ => noPoison_all _ hr.2.2.2.1 p⟩
theorem meets_GangInstruction_tiles (d : List Nat) (st tile row other n t i j : Nat) : ((sGr0 d st tile row other).telem n t i j).p = false := by
  have hc : (Machine.get ({} : TElem) (Machine.get {} coreG.tiles t).elems (128 * i + j)).p = false := by
    simp only [coreG, Machine.get]
    repeat' split
    all_goals rfl
  simp only [State.telem, State.core, sGr0, Machine.get]
  repeat' split
  · exact hc
  · exact hc
  · rfl
theorem meets_GangInstruction_follows :
    (let cmd := gcmd (desc 2 1 1 1 50 3 2 4096 20480) 0
     ∀ l, l < 2 → let s := (sGa (desc 2 1 1 1 50 3 2 4096 20480)).modCrew 0 (fun c => { c with follow := .armed cmd, landed := some (32 * l) })
     (s.crew 0).follow = .armed cmd ∧ (s.crew 0).landed = some (32 * l) ∧ cmd.cores = [0, 1] ∧ (∀ n ∈ cmd.cores, queueRoom s n = true)) := by decide +kernel

/-! Routing -/

def tkR : Tok := { n := 6, wc := 2, elems := [⟨7, true, false⟩, ⟨7, true, false⟩, ⟨255, true, false⟩, ⟨256, true, false⟩, ⟨3, false, true⟩, ⟨0xFFFFFFFF, true, false⟩] }
/-- Crew 0 with an index token and a register that holds an offset; the allotment of its core ends at 65536. -/
def sR (off : Nat) : State := co (fun c => { c with rcnt := [(7, 2 ^ 32 - 2), (3, 9)] }) (va [(1, BitVec.ofNat 64 off)] (fun c => { c with iq := [tkR] }) wA)
theorem meets_RoutingInstructions : ∀ off ∈ [0, 64512], (sR off).cur.xs = false ∧ (sR off).stepping = false ∧ (sR off).ready [1] [5] = true
    ∧ ((sR off).core 0).rwait.filter (routingWaits (sR off)) = []
    ∧ (sR off).myCrew.iq = tkR :: [] ∧ tkR.whole = true ∧ (∀ e ∈ tkR.elems, e.act = true → e.p = false) ∧ Machine.get 0 ((sR off).core 0).rcnt 7 < 2 ^ 32
    ∧ (sR off).myCrew.unperformed = false ∧ (sR off).poison = []
    ∧ ((sR off).val 1).toNat % 64 = 0 ∧ ((sR off).val 1).toNat + 1024 ≤ 8192 * ((sR off).core 0).s
    ∧ bankInUse (sR off) 0 (!((sR off).core 0).act) = false ∧ (sR off).bad = [] := by decide +kernel
theorem meets_RoutingInstructions_buffers (off : Nat) : (sR off).mayStore ∧ ∀ ps, (sR off).lets 0 0 ps = true := by
  have hs : ∀ d n, Machine.get {} ((sR off).die d).slices n = {} := fun d n => slices_one (sR off) _ rfl rfl d n
  have hst : (sR off).stepping = false := by
    have he : (sR off).myCrew.estep = 0 := rfl
    have hx : (sR off).cur.xs = false := rfl
    simp only [State.stepping, he, hx]; rfl
  refine ⟨⟨rfl, hst, buffers_of _ _ rfl rfl rfl rfl rfl hs⟩, fun ps => ?_⟩
  have hp : ((sR off).crew 0).pendingAt 0 ps = false := by
    simp [Crew.pendingAt, sR, co, va, cr, crew0, State.crew, Machine.get]
  simp [State.lets, admits_all (sR off) 0 rfl rfl hs ps, hp]
/-- Crew 1 waits before it. -/
theorem meets_RoutingInstructions_waits : let s := co (fun c => { c with rwait := [1, 0] }) { sR 0 with crews := (sR 0).crews ++ [(1, { crew0 with a := { seq0 with wait := some (.rtbias ⟨0, 1, 0, 0, 0, 0⟩) } })] }
    (s.core 0).rwait.filter (routingWaits s) = [1] ∧ [1].head? ≠ some s.me := by decide +kernel
/-- R155: expert 7 counts to its bound and no further; two of the six elements name expert 7 and one 255. -/
theorem test_rtcnt : regAfter (.rtcnt ⟨5, 0, 0, 0, 0, 0⟩) (sR 0) 5 = 3 ∧ Machine.get 0 ((after (.rtcnt ⟨5, 0, 0, 0, 0, 0⟩) (sR 0)).core 0).rcnt 7 = 2 ^ 32 - 1 := by
  decide +kernel

/-! Vector instructions -/

def shr : Share := ⟨1, 1⟩
def vent (i : Instr) (wc vl prog : Nat) (part : Word) : VEntry :=
  { instr := i, pc := pc0, st := 0, join := false, bad := false, vl := vl, vt := ⟨wc, 0, 0⟩, sh := shr, xs := [(1, ⟨3, false⟩), (2, ⟨5, false⟩)], rnull := 2, issued := true, prog := prog, part := part }
def tokV (n : Nat) : Tok := { n := n, wc := 2, elems := (List.range n).map (fun i => ⟨BitVec.ofNat 64 (i * 7 + 3), true, false⟩) }
/-- The core of crew 0 with a share of one group, tile 1 and these bytes in its vector registers. -/
def coreV (v : SMap VByte) : Core := { core0 with s := 16, cls := 1, lgate := 0xFD, vregs := v, lpart := [(0, shr)], tiles := [(1, til true 0 33 2)] }
def crewV (l : List VEntry) (n : Nat) : Crew :=
  { crew0 with viq := l, masks := [(1, BitVec.ofNat _ 0x2CB5)], x := { seq0 with busy := [3] }, lq := [(2, [tokV n])], sq := [(2, [tokV 1, { n := n, wc := 2 }])], iq := [{ n := n, wc := 2 }] }
def sE (e : VEntry) (v : SMap VByte) : State := { wX with crews := [(0, crewV [e] e.vl)], cores := [(0, coreV v)] }
theorem src_clean (s : State) (k : Nat) (e : VEntry) (v wc i : Nat) (hv : (s.core (crewCore k)).vregs = [])
    (hq : ∀ j, ∀ x ∈ (((s.crew k).lqAt j).headD {}).elems, x.p = false) : (s.src k e v wc i).2 = false := by
  simp only [State.src]
  split
  · simp [State.velem, readElem, hv]
  · split
    · simp only [List.getD_eq_getElem?_getD]
      cases h : (((s.crew k).lqAt (v % 8)).headD {}).elems[i]? with
      | none => rfl
      | some x => exact hq _ x (List.mem_of_getElem? h)
    · rfl
theorem lq_clean (e : VEntry) (j : Nat) : ∀ x ∈ ((((sE e []).crew 0).lqAt j).headD {}).elems, x.p = false := by
  have h : ((sE e []).crew 0).lqAt j = if 2 = j then [tokV e.vl] else [] := rfl
  rw [h]; split
  · intro x hx; simp only [List.headD, tokV, List.mem_map] at hx; obtain ⟨n, -, rfl⟩ := hx; rfl
  · intro x hx; cases hx
def readyB (e : VEntry) : Bool := decide (e.prog < max 1 e.len) && decide (e.vl ≤ 16384) && decide (e.vt.wc ≤ 3) && match vform e.instr with
  | some f => VMem.ready ⟨e, f⟩ (sE e []) 0 []
  | none => false
/-- An entry at the head of the VIQ of crew 0 that is alone there. -/
theorem alone_of (i : Instr) (wc vl prog : Nat) (part : Word) {f : VForm} (hf : vform i = some f) (h : readyB (vent i wc vl prog part) = true) :
    (sE (vent i wc vl prog part) []).Alone 0 (vent i wc vl prog part) f [] := by
  simp only [readyB, Bool.and_eq_true, decide_eq_true_eq] at h
  obtain ⟨⟨⟨hp, hl⟩, hw⟩, hr⟩ := h
  simp only [show (vent i wc vl prog part).instr = i from rfl, hf] at hr
  refine ⟨rfl, rfl, by simp, hf, rfl, fun x y h => (nomatch h), rfl, hp, hl, rfl, rfl, ?_, hr, hw, ?_, ?_, ?_,
    fun o _ n => src_clean _ _ _ _ _ _ rfl (lq_clean _)⟩
  · show Nat.testBit 0 0 = false; decide
  all_goals (simp [vent, shr])
def vD (vd : BitVec 7) (va : BitVec 7 := 1) (e : Bool := false) (vb : BitVec 7 := 2) : T32d := ⟨vd, va, vb, 1, true, false, 0, e, 2⟩
def vB (vd : BitVec 7) (fn : BitVec 4 := 0) (va : BitVec 7 := 1) (vb : BitVec 7 := 2) (x : BitVec 5 := 3) : T48b := ⟨vd, va, vb, 3, 1, false, true, 0, false, 2, x, fn⟩
def vG (v : BitVec 7) : T32g := ⟨v, 1, 1, 1, true, false, 2, 5⟩
/-- The last group of a register destination with its exception mask, a group that a store queue takes, and no element. -/
theorem meets_ElementGroups_elem :
    (∃ f op, (sE (vent (.vfadd (vD 63 1 true)) 2 12 8 0) []).Alone 0 (vent (.vfadd (vD 63 1 true)) 2 12 8 0) f [] ∧ f.sem = .elem op ∧ f.vd = some 63 ∧ f.e = true
      ∧ VEntry.groupEnd (vent (.vfadd (vD 63 1 true)) 2 12 8 0) = 12)
    ∧ (∃ f op, (sE (vent (.vsub (vD 0x52 0x42)) 2 12 0 0) []).Alone 0 (vent (.vsub (vD 0x52 0x42)) 2 12 0 0) f [] ∧ f.sem = .elem op ∧ f.vd = some (0x50 + 2)
      ∧ ((sE (vent (.vsub (vD 0x52 0x42)) 2 12 0 0) []).crew 0).pushed 2 = [tokV 1] ++ [({ n := 12, wc := 2 } : Tok)] ∧ (tokV 1).n ≤ (tokV 1).elems.length)
    ∧ (∃ f op, (sE (vent (.vadd (vD 4)) 2 0 0 0) []).Alone 0 (vent (.vadd (vD 4)) 2 0 0 0) f [] ∧ f.sem = .elem op ∧ f.vd = some 4) :=
  ⟨⟨_, _, alone_of _ _ _ _ _ rfl (by decide +kernel), rfl, rfl, rfl, rfl⟩, ⟨_, _, alone_of _ _ _ _ _ rfl (by decide +kernel), rfl, rfl, rfl, by decide⟩,
    _, _, alone_of _ _ _ _ _ rfl (by decide +kernel), rfl, rfl⟩
theorem meets_ElementGroups_compare :
    (∃ f op, (sE (vent (.vcmp (vB 7 4)) 3 12 8 0) []).Alone 0 (vent (.vcmp (vB 7 4)) 3 12 8 0) f [] ∧ f.sem = .compare op ∧ f.vd = some 7)
    ∧ ∃ f, (sE (vent (.vsel (vD 4 0x42)) 2 12 0 0) []).Alone 0 (vent (.vsel (vD 4 0x42)) 2 12 0 0) f [] ∧ f.sem = .select ∧ f.vd = some 4 :=
  ⟨⟨_, _, alone_of _ _ _ _ _ rfl (by decide +kernel), rfl, rfl⟩, _, alone_of _ _ _ _ _ rfl (by decide +kernel), rfl, rfl⟩
/-- Bounds of VectorFunctions: the largest operand of the widest element, and a source narrower than, and as wide as, its destination. -/
theorem meets_VectorFunctions : 3 ≤ 3 ∧ 2 ^ 64 - 1 < 2 ^ (8 * 2 ^ 3) ∧ (((5 : BitVec 4).extractLsb' 0 2).toNat = 1 ∧ (0xFFFF : Nat) < 2 ^ (8 * 2 ^ 1) ∧ 1 < 3
    ∧ (5 : BitVec 4).getLsbD 2 = true ∧ (1 : BitVec 4).getLsbD 2 = false) ∧ (((2 : BitVec 4).extractLsb' 0 2).toNat = 2 ∧ 2 ≤ 2 ∧ (2 : BitVec 4).getLsbD 3 = false) := by decide
/-- Moves that go group by group, and one that goes in one step. -/
def moves1 : List Instr := [.vbc (vD 4), .vbc (vD 4 0x42), .viota (vD 4), .vexpand (vD 4), .vrgat (vD 4), .vslup (vB 4), .vsldn (vB 4)]
def moves2 : List Instr := [.vrcls (vB 4), .vins (vB 4 0 1 0x62 1), .vcompress (vB 4), .vext (vB 4 1), .vtrd (vG 4), .vtcd (vG 4), .vtwr (vG 4), .viq (vG 4)]
/-- Lists of two pairs in registers 8, 9 and 16, 17, and of one pair in 8 and 16. -/
def vR : T48b := ⟨8, 1, 0x61, 16, 0, false, false, 0, false, 0, 13, 1⟩
/-- Every move alone at its first group. -/
theorem meets_VectorMoves : ∀ i ∈ moves1 ++ moves2 ++ [Instr.vrins vR, .vrpick vR],
    ∃ f, (sE (vent i 2 12 0 0) []).Alone 0 (vent i 2 12 0 0) f [] ∧ (vent i 2 12 0 0).prog = 0 ∧ (3 : Word).toNat + 12 ≤ 16384
      ∧ (vent i 2 12 0 0).part.toNat = (sE (vent i 2 12 0 0) []).rank 0 f 0 := by
  intro i hi
  have hr : readyB (vent i 2 12 0 0) = true := List.all_eq_true.1 (show (moves1 ++ moves2 ++ [Instr.vrins vR, .vrpick vR]).all
    (fun i => readyB (vent i 2 12 0 0)) = true by decide +kernel) i hi
  cases hf : vform i with
  | none => simp [readyB, vent, hf] at hr
  | some f => exact ⟨f, alone_of _ _ _ _ _ hf hr, rfl, by decide, rfl⟩
theorem meets_VectorMoves_second : ∀ i ∈ [Instr.viota (vD 4), .vexpand (vD 4)],
    ∃ f, (sE (vent i 2 12 8 5) []).Alone 0 (vent i 2 12 8 5) f [] ∧ (vent i 2 12 8 5).part.toNat = (sE (vent i 2 12 8 5) []).rank 0 f 8 := by
  intro i hi
  simp only [List.mem_cons, List.not_mem_nil, or_false] at hi
  obtain rfl | rfl := hi
  all_goals exact ⟨_, alone_of _ _ _ _ _ rfl (by decide +kernel), by decide +kernel⟩
/-- The other hypotheses of the moves: the tile of vtrd and the registers that vext and vcompress write. -/
theorem meets_VectorMoves_rest : (vB 4).x.toNat ≠ 0
    ∧ (∀ i j, ((sE (vent (.vtrd (vG 4)) 2 12 0 0) []).telem (crewCore 0) (vG 4).t.toNat i j).p = false) :=
  ⟨by decide, fun _ _ => rfl⟩
/-- A vqdrop at the first and at the last group of its token. -/
theorem meets_VectorMoves_drop : ∀ prog ∈ [0, 8], let e := vent (.vqdrop (vG 4)) 2 12 prog 12
    ∃ f, (sE e []).Alone 0 e f [] ∧ ((sE e []).crew 0).lqAt (vG 4).q.toNat = tokV 12 :: [] ∧ e.part.toNat = (tokV 12).n
      ∧ (e.groupEnd = 12 ↔ prog = 8) := by
  intro prog hp
  simp only [List.mem_cons, List.not_mem_nil, or_false] at hp
  obtain rfl | rfl := hp
  all_goals exact ⟨_, alone_of _ _ _ _ _ rfl (by decide +kernel), rfl, rfl, by decide⟩
/-- vrins at a later group, with the bank that it captured, and the lists of vrpick. -/
theorem meets_VectorMoves_lists : (∃ f, (sE (vent (.vrins vR) 2 12 8 0) []).Alone 0 (vent (.vrins vR) 2 12 8 0) f [] ∧ f.vd = some 8 ∧ f.vc = some 16
      ∧ f.k = 2 ∧ 8 + 2 * 2 ^ (vent (.vrins vR) 2 12 8 0).vt.grp ≤ 16 ∧ 16 + 2 * 2 ^ (vent (.vrins vR) 2 12 8 0).vt.grp ≤ 64)
    ∧ (∃ f, vform (.vrpick vR) = some f ∧ f.vd = some 8 ∧ f.vc = some 16 ∧ f.men = false ∧ f.k = 1)
    ∧ ∀ i prog v n, ((sE (vent i 2 12 prog 0) []).velem (crewCore 0) (vent i 2 12 prog 0) 2 v n).2 = false :=
  ⟨⟨_, alone_of _ _ _ _ _ rfl (by decide +kernel), rfl, rfl, rfl, by decide, by decide⟩, ⟨_, rfl, rfl, rfl, rfl, rfl⟩,
    fun i prog v n => by simp [State.velem, readElem, sE, coreV, crewCore, State.core, Machine.get]⟩
/-- A first group, a last one that writes a register, and the running value of the second group of a scan. -/
theorem meets_ReductionsAndScans :
    (∃ f op ident sx, (sE (vent (.vredsum (vB 4)) 2 12 0 0) []).Alone 0 (vent (.vredsum (vB 4)) 2 12 0 0) f [] ∧ f.sem = .reduce op ident sx ∧ f.xd = some 3
      ∧ VEntry.groupEnd (vent (.vredsum (vB 4)) 2 12 0 0) < 12)
    ∧ (∃ f op ident sx, (sE (vent (.vfredmax (vB 4)) 2 12 8 0) []).Alone 0 (vent (.vfredmax (vB 4)) 2 12 8 0) f [] ∧ f.sem = .reduce op ident sx ∧ f.xd = some 3
      ∧ VEntry.groupEnd (vent (.vfredmax (vB 4)) 2 12 8 0) = 12)
    ∧ (∃ f op ident, (sE (vent (.vscan (vB 63)) 2 12 8 0x12345) []).Alone 0 (vent (.vscan (vB 63)) 2 12 8 0x12345) f [] ∧ f.sem = .scan op ident ∧ f.vd = some 63
      ∧ (vB 63).fn = 0 ∧ 0 < (vent (.vscan (vB 63)) 2 12 8 0x12345).vl) :=
  ⟨⟨_, _, _, _, alone_of _ _ _ _ _ rfl (by decide +kernel), rfl, rfl, by decide⟩, ⟨_, _, _, _, alone_of _ _ _ _ _ rfl (by decide +kernel), rfl, rfl, by decide⟩,
    _, _, _, alone_of _ _ _ _ _ rfl (by decide +kernel), rfl, rfl, rfl, by decide⟩
/-- The X stream before a vector instruction: its length, its type, and its VIQ. -/
def sI (wc : Nat) (viq : List VEntry) (lq : SMap (List Tok)) : State :=
  { wX with crews := [(0, { crewV viq 12 with x := { seq0 with vl := 12, vtype := ⟨wc, 0, 0⟩, share := shr }, lq := lq })], cores := [(0, coreV [])] }
/-- The instruction enters here, the members of its convoy being it and rest. -/
def entersB (i : Instr) (rest : List Instr) (s : State) (bad tok : Bool) : Bool := match vform i with
  | some f => decide (joined f s = (some rest, s)) && s.ready f.captures [] && enterReady f rest s && (f.badType s.seqr.vtype == bad)
      && (tileTrap s f (if f.captures.contains (f.xs.getD 0) then s.val (f.xs.getD 0) else 0).toNat s.seqr.vl).isNone
      && ((missingToken s.myCrew f s.seqr.vtype).isNone == tok) && s.cur.xs && decide (s.myCrew.stop = .none) && decide (s.myCrew.a.run = .running)
  | none => false
/-- An entry that fills the VIQ, one with its token at hand, one whose token may still come, a tile slice; and types that trap. -/
theorem meets_VectorInstructionsEnter : entersB (.vadd (vD 4)) [] (sI 0 (List.replicate 15 (vent (.vadd (vD 4)) 2 12 0 0)) []) false true = true
    ∧ entersB (.vfma (vB 4 0 0x42)) [] (sI 2 [] [(2, [tokV 12])]) false true = true ∧ entersB (.vmul (vD 4 0x42)) [] (sI 2 [] []) false false = true
    ∧ entersB (.vtrd (vG 4)) [] (sI 2 [] []) false true = true ∧ entersB (.vfadd (vD 4)) [] (sI 3 [] []) true true = true := by decide +kernel
/-- One that continues the convoy of the entry before it, as the last of the VIQ. -/
theorem meets_VectorInstructionsEnter_joins : (let s := sI 0 (List.replicate 15 (vent (.vadd (vD 4)) 2 12 0 0)) []
    entersB (.vadd (vD 4)) [] ({ s with cur := { s.cur with c := true } }.modSeqr (fun q => { q with elig := true })) false true = true) := by decide +kernel
def vP : Instr := .vadd ⟨4, 1, 2, 0, false, false, 0, false, 0⟩
/-- The first of a convoy of two, whose line is held: the VIQ takes both, and with one more entry it would take neither. -/
def sI2 (n : Nat) : State :=
  let w := ((encode vP 0 true).map (fun p => p.1 + p.2 * 2 ^ 16)).getD 0
  let s := (sI 0 (List.replicate n (vent vP 2 12 0 0)) []).modSeqr (fun q => { q with
    pc := pc0 + 64, lines := [(pcLine pc0, (lineOfWord 48 w).map (fun b => ⟨b, false⟩))] })
  { s with cur := { s.cur with link := pc0 } }
theorem meets_VectorInstructionsEnter_convoy : entersB vP [vP] (sI2 14) false true = true
    ∧ entersB vP [vP] (sI2 15) false true = false := by decide +kernel
/-- Tile slices that trap: past the end of the tile, of a tile that is off, and of one of another crew. -/
theorem meets_VectorInstructionsEnter_tiles :
    let trap := fun (g : T32g) (s : State) => match vform (.vtrd g) with
      | some f => if decide (joined f s = (some [], s)) && s.ready f.captures [] && enterReady f [] s && !f.badType s.seqr.vtype
          then (tileTrap s f (if f.captures.contains (f.xs.getD 0) then s.val (f.xs.getD 0) else 0).toNat s.seqr.vl).map (fun t => (t.code, t.reason)) else none
      | none => none
    trap { vG 4 with x := 3 } (sI 2 [] []) = some (8, 0) ∧ trap { vG 4 with t := 2 } (sI 2 [] []) = some (23, 1)
    ∧ trap (vG 4) (co (fun c => { c with tiles := [(1, til true 3 33 2)] }) (sI 2 [] [])) = some (23, 2) := by decide +kernel
/-- R112, R111: element 2 is selected by mask 0x2CB5 and receives 0 + 3 and element 1 stays; the scalar operand is register 1. -/
theorem test_vadd_masked : ((after (.elementGroupAdvance 0) (sE (vent (.vadd (vD 4 1 false 0x61)) 2 12 0 0) [])).velem 0 (vent (.vadd (vD 4)) 2 12 0 0) 2 4 2).1 = 3
    ∧ ((after (.elementGroupAdvance 0) (sE (vent (.vadd (vD 4 1 false 0x61)) 2 12 0 0) [])).velem 0 (vent (.vadd (vD 4)) 2 12 0 0) 2 4 1).1 = 0 := by decide +kernel
def head (i : Instr) (join bad : Bool) : VEntry := { vent i 2 12 0 0 with issued := false, join := join, bad := bad }
def sH (l : List VEntry) (run : Run) : State :=
  { wX with crews := [(0, { crewV l 12 with x := { seq0 with vl := 12, vtype := ⟨2, 0, 0⟩, share := shr, run := run }, lq := [(2, [tokV 12]), (3, [tokV 11])] })], cores := [(0, coreV [])] }
def eA : VEntry := head (.vadd ⟨4, 1, 2, 1, false, false, 0, false, 2⟩) false false
def eM : VEntry := head (.vfmul ⟨5, 0x42, 2, 1, false, false, 0, false, 2⟩) true false
def eX : VEntry := head (.vfmul ⟨5, 1, 2, 1, false, false, 0, false, 2⟩) true true
def eQ : VEntry := head (.vadd ⟨5, 0x43, 2, 1, false, false, 0, false, 2⟩) false false
def eB : VEntry := { vent (.vfadd ⟨6, 7, 8, 1, false, false, 0, false, 2⟩) 2 12 8 0 with issued := true }
def tokensB (s : State) (n : Nat) : Option (Nat × Nat) := match checkTokens (s.crew 0) (s.crew 0).flight (members (convoyOf ((s.crew 0).viq.drop n))) with
  | .fine => some (99, 0)
  | .wrong j q _ => some (j, q)
  | _ => none
/-- A convoy of two between an entry that has issued and one behind it, one that breaks R47, one whose token has the wrong length, and one that pushes. -/
def eP : VEntry := head (.vadd ⟨0x51, 1, 2, 1, false, false, 0, false, 2⟩) false false
theorem meets_ConvoyIssues : ∀ x ∈ [([eB], [eA, eM], [eA], Run.running), ([], [eQ], [], Run.halted), ([eB], [eA, eX], [eA], Run.running), ([eB], [eP], [], Run.running)],
      let s := sH (x.1 ++ x.2.1 ++ x.2.2.1) x.2.2.2
      (s.crew 0).flight.length = x.1.length ∧ x.2.1 = convoyOf ((s.crew 0).viq.drop x.1.length) ∧ x.2.1 ≠ [] ∧ (s.crew 0).vheld = false
      ∧ (s.crew 0).viqOn = true ∧ convoyOpen s 0 = false ∧ (s.crew 0).estep.testBit 0 = false ∧ (∀ e ∈ (s.crew 0).viq, (vform e.instr).isSome = true) := by decide +kernel
theorem meets_ConvoyIssues_issues : ∀ x ∈ [[eA, eM], [eP]], let s := sH ([eB] ++ x) .running
    let ms := members x
    convoyFault [] ms = none ∧ headTokens (s.crew 0) ms = true ∧ tokensB s 1 = some (99, 0) ∧ (s.core (crewCore 0)).ckstall = false ∧ stallFault (agePends (s.crew 0)) [] ms = none
    ∧ earlierDone (s.crew 0) ms = true ∧ (firstSlots ms = 0 ∨ (s.crew 0).pushRoom (s.core (crewCore 0)).q (firstSlots ms) = true)
    ∧ gatedFor s (crewCore 0) ms = [] ∧ pipesFree s 0 ms = true := by decide +kernel
theorem meets_ConvoyIssues_traps : convoyFault [] (members [eA, eX]) = some 1 ∧ (sH [eQ] .halted).myCrew.stop ≠ .trap
    ∧ convoyFault [] (members [eQ]) = none ∧ headTokens ((sH [eQ] .halted).crew 0) (members [eQ]) = true ∧ tokensB (sH [eQ] .halted) 0 = some (0, 3) ∧ 0 < firstSlots (members [eP]) := by decide +kernel
def sK (vl nb : Nat) : State :=
  { wX with crews := [(0, { crew0 with x := { seq0 with vl := vl }, masks := [(1, BitVec.ofNat _ 0x2CB5), (2, BitVec.ofNat _ 0x1F0F0F00F)], bq := List.replicate nb 7 })] }
theorem meets_MaskInstructions : (∀ vl ∈ [0, 12, 16384], (sK vl 15).cur.xs = true ∧ (sK vl 15).stepping = false ∧ (sK vl 15).seqr.vl ≤ 16384
    ∧ maskPending (sK vl 15).myCrew [2, 1, 2] true = false ∧ maskPending (sK vl 15).myCrew [1] false = false ∧ (sK vl 15).ready [1] [5] = true
    ∧ (sK vl 15).myCrew.bq.length < 16) := by decide +kernel
/-- R130: mnot of mask 1 = 0x2CB5 in the first twelve elements: 0x34A. -/
theorem test_mnot : (Machine.get 0 (after (.mnot ⟨3, 1, 0, 0⟩) (sK 12 0)).myCrew.masks 3).toNat = 0x34A := by decide +kernel

/-! System registers, privileged instructions and stops -/

def regsS : List (Nat × Word) := [(1, 0xFFFF123456789ABC), (2, 0)]
def sSy : State := va regsS (fun c => { c with chain := { bound := true, hwm := 9, pos := 4 }, trap := { cause := 5, tval := 7 } }) wA
def unp (s : State) : State := s.setReg 0 0xC00 1
/-- Registers of every rule: general, read-only, of the system, of the access sequencer, of a table and its first and last words; and a number that
names none. -/
theorem meets_SystemRegisters : sSy.stepping = false ∧ sSy.ready [1] [5] = true ∧ sSy.drained sSy.me ∧ sSy.sysPriv sSy.me = true ∧ (unp sSy).sysPriv (unp sSy).me = false
    ∧ (∀ n ∈ [0x010, 0x020, 0x100, 0x108, 0x112, 0x040, 0x060, 0x110, 0x111, 0x148, 0x500, 0x6FF, 0xC00, 0xC01, 0xFFD, 0xFFC], (selector 0 n).isSome = true)
    ∧ selector 0 0x7000 = none ∧ wX.stepping = false ∧ wX.cur.xs = true
    ∧ ((selector 0 0x112).map (·.aseq) = some true ∧ (selector 0 0x010).map (·.ro) = some true ∧ (selector 0 0x010).map (·.aseq) = some false
      ∧ (selector 0 0x060).map (·.ro) = some false ∧ (selector 0 0x500).map (·.writeSys) = some true ∧ (selector 0 0x113).map (·.readSys) = some true) := by
  unfold State.drained; decide +kernel
/-- A save area in one page whose checks pass; its bytes are not listed. -/
def saveB (s : State) (acc : Acc) (ga : Word) (align n : Nat) : Bool :=
  decide (ga.toNat % align = 0) && decide (ga.toNat / 2 ^ 60 ≤ 1) && decide (n ≤ 2 ^ 16 - ga.toNat % 2 ^ 16)
    && match issuerCheck s s.myDie none (fun _ => none) acc.writes ga.toNat n with
      | .error _ => false
      | .ok pl => !pathDown s s.myDie (pl.die s.myDie) && linkOpen s s.myDie (pl.die s.myDie)
        && match locate s none s.myCrew.ctx acc n pl with
          | (.ok _, t) => decide (t = s)
          | _ => false
theorem saveAddr_ok (s : State) (acc : Acc) (ga : Word) (align n : Nat) (h : saveB s acc ga align n = true) :
    (saveAddr s acc ga align n).1 = .ok () := by
  simp only [saveB, Bool.and_eq_true, decide_eq_true_eq] at h
  obtain ⟨⟨⟨h1, h2⟩, h3⟩, h4⟩ := h
  have h5 : ¬(ga.toNat % align ≠ 0 ∨ ga.toNat / 2 ^ 60 > 1) := by omega
  simp only [saveAddr, if_neg h5, enginePages, Nat.min_eq_left h3, engineLook]
  split at h4
  · cases h4
  · rename_i pl hp
    simp only [Bool.and_eq_true, Bool.not_eq_true'] at h4
    obtain ⟨⟨h6, h7⟩, h8⟩ := h4
    split at h8
    · rename_i l t hl
      simp [h6, h7, hl]
    · cases h8
/-- The supervisor, with crew 1 as its target in a state. -/
def sPr (st : Nat) (f : Crew → Crew) : State := tl
  { wA with crews := [(0, { crew0 with a := { seq0 with regs := rg [(1, hga 0), (2, hga 4096), (3, 5), (4, 6), (5, 0x7FFFFFFFFFFFFFFF)] }, tsel := 1 }), (1, f { crew0 with state := st, trap := { epca := 0x1000, epcx := 0x2000 }, lq := [(2, [{ marker := true }, { n := 3 }])] })] }
theorem meets_PrivilegedInstructions : (∀ st ∈ [0, 1, 3, 4, 5], (sPr st id).cur.xs = false ∧ (sPr st id).sysPriv 0 = true ∧ (sPr st id).stepping = false
      ∧ targetOf (sPr st id) 0 = 1 ∧ ((sPr st id).crew 1).state = st ∧ ((sPr st id).crew 1).latch = none ∧ (((sPr st id).crew 1).lq.map (·.1)).Nodup)
    ∧ (((sPr 4 (fun c => { c with latch := some { seq := 1, words := [] } })).crew 1).latch.isSome = true)
    ∧ (let s := sPr 3 id
       (s.crew 0).wcb = [] ∧ (s.crew 0).unperformed = false ∧ redPending s 0 = false ∧ (s.myCrew.counter 1).blocked = false ∧ s.ready [1, 2, 3, 4, 5] [6] = true ∧ invAddr s (s.val 2).toNat = none
       ∧ s.saves = [] ∧ (s.reg 0 0x144).extractLsb' 24 24 = 0 ∧ (s.reg 0 0x144).getLsbD 48 = false
       ∧ saveB s .write (s.val 1) 4096 (areaBytes (s.core 0).q (heldRange s 1).g (s.crew 1).asked) = true
       ∧ saveB s .write (s.val 2) 64 (64 + 67584 * (crewTiles s 1).length) = true)
    ∧ (let s := sPr 0 id; saveB s .read (s.val 1) 4096 64 = true ∧ saveB s .read (s.val 2) 64 64 = true)
    ∧ (let s := (sPr 3 id).setReg 0 0x144 (BitVec.ofNat 64 (2 ^ 48)); (s.reg 0 0x144).getLsbD 48 = true ∧ s.myCrew.stop = .none)
    ∧ (unp (sPr 3 id)).sysPriv 0 = false ∧ { sPr 3 id with cur := { xs := true } }.cur.xs = true ∧ ((sPr 1 id).crew 1).stop = .none := by decide +kernel
/-- An ended crew with a load, with a vamo, and with nothing issued; nothing of it is written to an error ring. -/
theorem meets_PrivilegedInstructions_ends : (∀ l ∈ [[], [jobA, jobC]], let s := sPr 3 (fun c => { c with loads := l })
      (s.crew 1).state ≠ 0 ∧ (s.crew 1).state ≠ 6 ∧ (s.crew 1).loads = l) ∧ jobA.store = none ∧ jobA.tok.marker = false ∧ (sPr 3 id).noRing :=
  ⟨by decide +kernel, rfl, rfl, noRing_one _ ((sPr 3 id).die 0) rfl rfl⟩
/-- So that each area passes saveAddr. -/
theorem meets_PrivilegedInstructions_areas (st : Nat) (acc : Acc) (ga : Word) (align n : Nat) (h : saveB (sPr st id) acc ga align n = true) :
    (saveAddr (sPr st id) acc ga align n).1 = .ok () :=
  saveAddr_ok _ _ _ _ _ h
/-- R409: eret drops the marker of the target's queue and restores its PC. -/
theorem test_eret : ((after .eret (sPr 4 id)).crew 1).a.pc = 0x1000 ∧ ((after .eret (sPr 4 id)).crew 1).lqAt 2 = [{ n := 3 }] := by decide +kernel
def words8 : List Word := [1, 2, 3, 4, 5, 6, 7, 8]
def sSt (f : Crew → Crew) : State := { wA with crews := [(0, f { crew0 with a := { seq0 with pc := 0x111, run := .halted }, x := { seq0 with run := .exited, pc := 0x222 } }), (1, {})] }
/-- A ring of two records at offset 1024 of the scratchpad, with these counts, and these records waiting. -/
def ring (wr rd : Nat) (l : List TrapRec) (s : State) : State :=
  putB (sp 1024) (le 8 wr ++ le 8 rd) ((s.setReg 0 0x110 (BitVec.ofNat 64 (2 ^ 60 + 2 ^ 59 + 1024 + 2))).modDie 0 (fun d => { d with traps := l, seqno := 9 }))
theorem meets_StopsAndRecords :
    (let s := ring 0 0 [] (sSt (fun c => { c with state := 2, stop := .trap, trap := { cause := 5, tval := 6 } }))
     let c := s.crew 0
     c.state = 2 ∧ c.stop = .trap ∧ c.a.run ≠ .running ∧ c.x.run ≠ .running ∧ viqStuck s 0 = true ∧ pushesDone s 0 = true ∧ c.wcb = []
     ∧ ((s.reg (crewDie 0) 0x110).extractLsb' 0 6) ≠ 0 ∧ (s.die (crewDie 0)).traps.length < 64)
    ∧ (let s := ring 0 0 (List.replicate 64 ⟨3, words8⟩) (sSt id); ¬(s.die (crewDie 0)).traps.length < 64)
    ∧ (let s := sSt (fun c => { c with state := 2, stop := .trap, x := { c.x with run := .running } })
       (s.crew 0).state = 2 ∧ (s.crew 0).stop = .trap ∧ (s.crew 0).x.run = .running ∧ (s.crew 0).inside = false ∧ convoyOpen s 0 = false)
    ∧ (∀ x ∈ [(0, 0), (4, 3), (2 ^ 64 - 1, 2 ^ 64 - 2)], let s := ring x.1 x.2 [⟨3, words8⟩, ⟨4, words8⟩] wA
       let base := ringBase 0 (s.reg 0 0x110)
       (s.die 0).traps = ⟨3, words8⟩ :: [⟨4, words8⟩] ∧ words8.length = 8 ∧ ((s.reg 0 0x110).extractLsb' 0 6).toNat = 2
       ∧ s.num base 8 - s.num (base + 8) 8 < 2 ∧ s.num (base + 8) 8 ≤ s.num base 8 ∧ s.unheld (ringBytes base 2 (s.num base 8)) = true)
    ∧ (let s := sSt (fun c => { c with state := 6, latch := some ⟨4, words8⟩ })
       (s.crew 0).state = 6 ∧ (s.crew 0).wcb = [] ∧ settled s 0 = true ∧ (s.crew 0).loads = [] ∧ (s.crew 0).reads = [] ∧ ranOut (s.crew 0) = true ∧ (s.crew 0).home = none) := by decide +kernel
/-- A crew that stops for pre-emption, with a gang that has stopped before it. -/
theorem meets_StopsAndRecords_preempt : let g : MatCmd := ⟨0, .mmag fG, [], 0, 0, none, 3, 0x100, 1, 0⟩
    let s := sSt (fun c => { c with state := 2, stop := .preempt, lq := [(2, [{}])], gang := some g })
    let c := s.crew 0
    c.state = 2 ∧ c.stop = .preempt ∧ c.a.run ≠ .running ∧ c.x.run ≠ .running ∧ c.inside = false ∧ viqStuck s 0 = true
    ∧ pushesDone s 0 = true ∧ matrixStopped s 0 = true ∧ c.wcb = [] ∧ (s.core (crewCore 0)).mq = [] ∧ (c.gang.map (·.pc)).getD c.a.pc = 0x100
    ∧ (∀ m ∈ (s.core (crewCore 0)).mq, m.crew ≠ 0) := by decide +kernel
/-- One that a trap stops after its gang has stopped. -/
theorem meets_StopsAndRecords_gang : let g : MatCmd := ⟨0, .mmag fG, [], 0, 0, none, 3, 0x100, 1, 0⟩
    let s := ring 0 0 [] (sSt (fun c => { c with state := 2, stop := .trap, gang := some g }))
    let c := s.crew 0
    c.state = 2 ∧ c.stop = .trap ∧ c.a.run ≠ .running ∧ c.x.run ≠ .running ∧ viqStuck s 0 = true ∧ pushesDone s 0 = true ∧ c.wcb = []
    ∧ (c.gang.map (·.pc)).getD c.a.pc = 0x100 ∧ ((s.reg (crewDie 0) 0x110).extractLsb' 0 6) ≠ 0 := by decide +kernel
theorem meets_StopsAndRecords_latch : let s := ring 0 0 [] (sSt (fun c => { c with latch := some ⟨4, words8⟩ }))
    (s.crew 0).latch = some ⟨4, words8⟩ ∧ (s.die (crewDie 0)).traps.length < 64 ∧ 0 ∈ s.crews.map (·.1)
    ∧ ∀ j, crewDie j = crewDie 0 → j ≠ 0 → (s.crew j).latch = none := by
  refine ⟨rfl, by decide +kernel, by decide +kernel, fun j _ hj => ?_⟩
  show (Machine.get {} [(0, _), (1, ({} : Crew))] j).latch = none
  simp only [Machine.get, if_neg (Ne.symm hj)]
  split <;> rfl

/-! The task graph -/

def krec : List Nat := [0, 0, 0, 0] ++ List.replicate 16 0 ++ [0x5000, 0x6000, 1 + 2 ^ 44, 2] ++ List.replicate 5 0 ++ [8 + 16 * 256 + 2 * 65536, 0, 77]
def crec : List Nat := [1, 0, 0, 0] ++ List.replicate 16 0 ++ [(hga 4096).toNat, (hga 8192).toNat, 64, 0, 0, 0, 0, 0] ++ List.replicate 4 0
def wordsOf (r : List Nat) : List Word := r.map (BitVec.ofNat 64)
/-- The records of a kernel, or of a copy, at offset 1024, and a pool. -/
def sTg (f : Crew → Crew) (r : List Nat) (pool : SMap Node) : State :=
  ((putB (sp 1024) (r.flatMap (le 8)) (tl (va [(1, sga 1024), (2, 0x401), (3, 5)] f wA))).setReg 0 0xB00 0x1FFFF).modDie 0 (fun d => { d with pool := pool, gens := [(1, 62), (0, 63)] })
def nodeK (r : List Nat) (p : Nat) : Node := { handle := 0x401, ctx := 0, words := wordsOf r, order := 0, level := 0, preds := [], chain := none, phase := p }
theorem meets_TaskGraph_posts : ∀ r ∈ [krec, crec], let s := sTg id r []
    s.cur.xs = false ∧ s.stepping = false ∧ s.ready [1] [5] = true ∧ s.drained 0 ∧ ownScratchpad s.me (s.val 1).toNat = true
    ∧ (s.val 1).toNat % 64 = 0 ∧ crewCheck s 0 false (s.val 1).toNat 256 = .ok (.spad 0 1024) ∧ (s.core s.myCore).owner = some s.myCrew.ctx
    ∧ s.lets 0 0 (rf (sp 1024) 256) = true ∧ s.anyBad (rf (sp 1024) 256) = false ∧ s.poison = []
    ∧ wordsOf r = (List.range 32).map (fun i => BitVec.ofNat 64 (leNat ((List.range 8).map (fun j => (s.seen 0 (sp 1024 + (8 * i + j))).b))))
    ∧ recCtxen (resolveRegions 0 (wordsOf r)) = false ∧ recReason s 0 0 (resolveRegions 0 (wordsOf r)) = none ∧ poolRoom s 0 0 = true
    ∧ (s.myCrew.counter 0).blocked = false := by unfold State.drained; decide +kernel
theorem meets_TaskGraph_again : runsAgain (waiting (.tgpost ⟨5, 1, 0, 0, 0, 0⟩) (sTg id krec [])) (.tgpost ⟨5, 1, 0, 0, 0, 0⟩)
    (fun s => s.ready [1] [5] && poolRoom s 0 0) = true := by decide +kernel
/-- A crew that is done and whose wait has its answer, one that has not begun to wait for a node of the pool, and a handle of no node. -/
theorem meets_TaskGraph_waits :
    (let s := sTg (fun c => { c with done := true, await := some (0x401, some 2) }) krec []
     s.myCrew.done = true ∧ s.ready [2] [5] = true ∧ s.myCrew.await = some ((s.val 2).toNat % 2 ^ 16, some 2))
    ∧ (let s := sTg id krec [(1, nodeK krec 1)]
       s.myCrew.done = false ∧ (s.crew 0).wcb = [] ∧ (s.crew 0).unperformed = false ∧ redPending s 0 = false ∧ s.ready [2] [5] = true ∧ s.myCrew.await = none
       ∧ (liveNode s 0 ((s.val 2).toNat % 2 ^ 16) = some (1, nodeK krec 1) ∧ (nodeK krec 1).ctx = s.myCrew.ctx) ∧ s.myCrew.stop = .none
       ∧ s.ready [3] [5] = true ∧ ∀ e ∈ (s.die 0).pool, e.2.handle ≠ (s.val 3).toNat % 2 ^ 16) := by
  decide +kernel
/-- tgdone with a copy job of the crew still to run. -/
theorem meets_TaskGraph_done : (let s := { sQ [job false 0 0 cardA] with jseq := 8 }.modCrew 0 (fun c => { c with home := some (0, 0x401) })
    s.myCrew.done = false ∧ s.myCrew.home.isSome = true ∧ writesLeft s 0 s.jseq = true) := by decide +kernel
theorem meets_TaskGraph_dispatches :
    (let s := sTg id krec [(1, nodeK krec 0)]
     (s.chip (dieChip 0)).tripped = false ∧ readyNodes s 0 0 = [nodeK krec 0] ∧ recType (nodeK krec 0).words = 0 ∧ (findPlacement (s.modNode (0, 0x401) (fun x => { x with phase := 1 })) 0 (nodeK krec 0)).isSome = true)
    ∧ (let s := sTg id crec [(1, nodeK crec 0)]
       (s.chip (dieChip 0)).tripped = false ∧ readyNodes s 0 1 = [nodeK crec 0] ∧ recType (nodeK crec 0).words = 1 ∧ coreDie 0 = 0 ∧ partitionHas s 0 0 = true ∧ copyRoom s 0 = true)
    ∧ (let s := co (fun c => { c with node := some (0, 0x401) }) (sTg (fun c => { c with home := some (0, 0x401) }) krec [(1, nodeK krec 1)])
       (s.die 0).pool = [(1, nodeK krec 1)] ∧ (nodeK krec 1).halted = false ∧ groupSize (nodeK krec 1).words = 1 ∧ (nodeK krec 1).placed.length < widCount (nodeK krec 1).words
       ∧ groupFits s 0 (nodeK krec 1) [] [(widOf (nodeK krec 1).words 0, 1)] s = true ∧ (s.core (crewCore 1)).node = some (0, 0x401)
       ∧ (s.core (crewCore 1)).owner = some (nodeK krec 1).ctx) := by decide +kernel
theorem meets_TaskGraph_crews :
    (let s := { sTg id krec [] with crews := [(0, { crew0 with a := {}, x := {} })] }
     (s.crew 0).state = 1 ∧ (s.crew 0).a.run = .off ∧ (s.crew 0).x.run = .off ∧ (s.chip (crewChip 0)).tripped = false)
    ∧ (let s := { sTg id krec [(1, { nodeK krec 1 with frozen := [(1, 9)] })] with crews := [(0, { crew0 with prod := some ((0, 0x401), 1), wid := 3 })] }
       (s.crew 0).prod = some ((0, 0x401), 1) ∧ findNode s (0, 0x401) = some { nodeK krec 1 with frozen := [(1, 9)] }
       ∧ { nodeK krec 1 with frozen := [(1, 9)] }.frozen.find? (fun e => e.1 == 1) = some (1, 9))
    ∧ (let s := { sTg id krec [] with crews := [(0, { crew0 with a := { run := .exited }, x := { run := .exited } })] }
       residue (s.crew 0) true = none ∧ residue (s.crew 0) false = none ∧ quiet s 0 = true ∧ (s.crew 0).home = none)
    ∧ (let s := { sTg id krec [] with crews := [(0, { crew0 with a := { run := .exited }, x := { run := .exited }, lq := [(2, [{ n := 3 }])] })] }
       (residue (s.crew 0) true).isSome = true)
    ∧ (let s := { sTg id krec [] with crews := [(0, { crew0 with a := { run := .exited }, x := { run := .exited }, bq := [1] })] }
       residue (s.crew 0) true = none ∧ (residue (s.crew 0) false).isSome = true) := by decide +kernel

/-! Tables of a die, and translation -/

/-- Crews 0 and 1 occupied; every group of a share of crew 0 is free of the other crews. -/
def sTw : State := { wA with crews := [(0, crew0), (1, { crew0 with state := 2 })] }
def shOf (v : Word) (i : Nat) : Share := ⟨(v.extractLsb' (8 * i) 3).toNat, (v.extractLsb' (8 * i + 3) 4).toNat⟩
def lpartOk (s : State) (d : Nat) (v : Word) : Bool := (List.range 4).all (fun i =>
  (!occupied s (4 * d + i) || (shOf v i).g != 0) && (occupied s (4 * d + i) || shOf v i == ⟨0, 0⟩) && decide ((shOf v i).b + (shOf v i).g ≤ 8)
    && (List.range 8).all (fun j => (List.range 4).all (fun m => m == i || !(decide ((shOf v i).b ≤ j) && decide (j < (shOf v i).b + (shOf v i).g))
      || (!(decide ((shOf v m).b ≤ j) && decide (j < (shOf v m).b + (shOf v m).g)) && !holds s (4 * d + m) j))))
/-- Two shares that fill the lanes, and shares that overlap. -/
theorem meets_TableWrites_lpart : lpartOk sTw 0 (BitVec.ofNat 64 (4 * 8 + (4 + 4 * 8) * 2 ^ 8)) = true
    ∧ lpartOk sTw 0 (BitVec.ofNat 64 (5 * 8 + (4 + 4 * 8) * 2 ^ 8)) = false := by decide +kernel
/-- Cluster 0 is busy in partition 0, which holds clusters 0 and 1; partition 15 may take cluster 2 and not cluster 1. -/
def sTp : State := wA.setReg 0 0xB00 7
theorem meets_TableWrites_partition : (sTp.reg 0 0xB00).getLsbD 0 = true ∧ (sTp.reg 0 0xB00).getLsbD 2 = true ∧ (sTp.reg 0 0xB0F).getLsbD 0 = false
    ∧ (∀ q, q < 16 → q ≠ 0 → (sTp.reg 0 (0xB00 + q)).getLsbD 0 = false) ∧ (9 : Word).getLsbD 0 = true ∧ (5 : Word).getLsbD 2 = true
    ∧ clusterBusy sTp 0 0 0 = true ∧ (sTp.reg 0 0xB00).getLsbD 1 = true := by decide +kernel
/-- The last entry of each table, and a die with ports. -/
theorem meets_TableWrites_ends : 15 < 16 ∧ 63 < 64 ∧ 511 < 512 ∧ 1023 < 1024 ∧ 255 < 256 ∧ (7 % 8 = 0 ∨ 7 % 8 = 7) ∧ 1 < 2 := by decide
/-- R291: a write of a subscription entry clears its edition. -/
theorem test_subscription_write : (after (.subscriptionEntryWrite 0 63 0xFFFFFFFF) (sub0 id)).reg 0 (0x600 + 252) = 0x7FFFFF
    ∧ (after (.subscriptionEntryWrite 0 63 0xFFFFFFFF) (sub0 id)).reg 0 (0x600 + 255) = 0 := by decide +kernel
def vaW : Nat := 2 ^ 50 + 2 ^ 39 * 3 + 2 ^ 30 * 5 + 2 ^ 21 * 7 + 2 ^ 16 * 9 + 0x1234
def tbl (l : Nat) : Nat := 0x100000 * (l + 1)
def entW (l : Nat) : Word := if l < 3 then BitVec.ofNat 64 (1 + tbl (l + 1)) else leafW 0 (2 ^ 31)
def idxW (l : Nat) : Nat := [2051, 5, 7, 9].getD l 0
/-- A table of each level on the way to the page of vaW. -/
def sW4 : State := (List.range 4).foldl (fun s l => putB (tbl l + 8 * idxW l) (le 8 (entW l).toNat) s) (wA.setReg 0 0xC01 (BitVec.ofNat 64 (tbl 0)))
theorem meets_TranslationSteps_walk : vaW < 2 ^ 51 ∧ (sW4.reg 0 0xC00).getLsbD 0 = true ∧ vaW / 2 ^ 39 % 2 ^ 12 = 2051 ∧ vaW / 2 ^ 30 % 2 ^ 9 = 5 ∧ vaW / 2 ^ 21 % 2 ^ 9 = 7
    ∧ vaW / 2 ^ 16 % 2 ^ 5 = 9 ∧ (sW4.reg 0 0xC01).toNat = tbl 0 ∧ (∀ l, l < 3 → ((entW l).extractLsb' 8 44).toNat * 2 ^ 8 = tbl (l + 1))
    ∧ (∀ l, l < 4 → sW4.num (tbl l + 8 * idxW l) 8 = (entW l).toNat) ∧ sW4.poison = [] ∧ sW4.bad = []
    ∧ (∀ l, l < 3 → (entW l).extractLsb' 0 8 = 1 ∧ (entW l).extractLsb' 52 12 = 0) ∧ (entW 3).extractLsb' 0 2 = 3 ∧ leafMalformed 3 (entW 3).toNat vaW = false
    ∧ (sW4.die 0).tlb = [] ∧ (sW4.die 0).walks = [] ∧ (∀ l, l < 4 → sW4.clear [tbl l + 8 * idxW l, tbl l + 8 * idxW l + 4] = true) ∧ ((sW4.modDie 0 (fun d => { d with walks := [⟨0, vaW⟩] })).die 0).walks[0]? = some ⟨0, vaW⟩
    ∧ ((sW4.setReg 0 0xC00 2).reg 0 0xC00).getLsbD 0 = false := by decide +kernel
/-- R379, R380: the walk ends at the leaf of the fourth table. -/
theorem test_walk : (walk sW4 0 0 vaW).res = .ok ⟨0, 3, vaW / 2 ^ 16, leafW 0 (2 ^ 31)⟩ := by decide +kernel
/-- The same tables with a leaf of a gigabyte, or of two megabytes, in the place of a pointer; and one whose bytes such a page cannot have. -/
def sLf (lev pa : Nat) : State := putB (tbl lev + 8 * idxW lev) (le 8 (leafW 0 pa).toNat) sW4
theorem meets_TranslationSteps_leaves : ∀ lev ∈ [1, 2], ∀ pa ∈ [2 ^ 31, 2 ^ 16],
    let e := fun (l : Nat) => if l < lev then entW l else leafW 0 pa
    (∀ l, l ≤ lev → (sLf lev pa).num (tbl l + 8 * idxW l) 8 = (e l).toNat ∧ (sLf lev pa).clear [tbl l + 8 * idxW l, tbl l + 8 * idxW l + 4] = true)
    ∧ (sLf lev pa).poison = [] ∧ (sLf lev pa).bad = [] ∧ ((sLf lev pa).reg 0 0xC01).toNat = tbl 0 ∧ ((sLf lev pa).reg 0 0xC00).getLsbD 0 = true
    ∧ (∀ l, l < lev → (e l).extractLsb' 0 8 = 1 ∧ (e l).extractLsb' 52 12 = 0 ∧ ((e l).extractLsb' 8 44).toNat * 2 ^ 8 = tbl (l + 1))
    ∧ (e lev).extractLsb' 0 2 = 3 ∧ leafMalformed lev (e lev).toNat vaW = decide (pa = 2 ^ 16) := by decide +kernel
/-- A miss that stands first among those that wait, and one that finds none waiting. -/
theorem meets_TranslationSteps_misses : ∀ ms ∈ [[], [⟨0, vaW⟩, ⟨0, 2 ^ 50⟩]], let s := sW4.modDie 0 (fun d => { d with misses := ms, walks := [⟨0, 2 ^ 40⟩] })
    (∀ e ∈ (s.die 0).tlb, e.hits 0 vaW = false) ∧ (s.die 0).walks.length < 256 ∧ ((s.die 0).misses = [] ∨ (s.die 0).misses.head? = some ⟨0, vaW⟩)
    ∧ (∀ w ∈ (s.die 0).walks, ¬(w.ctx = 0 ∧ w.va / 2 ^ 16 = vaW / 2 ^ 16)) := by decide +kernel
def invA (kind : Nat) (ts : List Nat) (dr : SMap (List TlbEntry)) : Inv :=
  { kind := kind, ctx := 0, va := 2 ^ 16 * 2 ^ 20, pdie := 0, home := 0, targets := ts, member := some ⟨0, 2, 0⟩, dropped := dr }
def sIn (kind : Nat) (ts : List Nat) (dr : SMap (List TlbEntry)) : State :=
  { route 0 1 0x4800 (route 1 0 0x4800 (tl wA)) with invs := [invA kind ts dr], chips := [(0, { supplied := true })] }
theorem meets_TranslationSteps_drops : ∀ x ∈ [(0, [0]), (1, [0, 1]), (2, [1])], (sIn x.1 x.2 []).invs[0]? = some (invA x.1 x.2 [])
    ∧ (∀ d ∈ x.2, pathDown (sIn x.1 x.2 []) 0 d = false ∧ linkOpen (sIn x.1 x.2 []) 0 d = true ∧ (sIn x.1 x.2 []).reg d 0x111 = 0) := by decide +kernel
/-- A held store still uses an entry that has been dropped, and then none does; and the path of a target is dark. -/
theorem meets_TranslationSteps_waits :
    (let s := (sIn 1 [0, 1] []).modCrew 0 (fun c => { c with wcb := [⟨1, [(3, ⟨7, false⟩)], true⟩] })
     stillUsed s 0 (((s.die 0).tlb ++ (s.cores.filter (fun c => coreDie c.1 == 0)).flatMap (·.2.l1)).filter ((invA 1 [0, 1] []).hits 0)) = true)
    ∧ (let s := sIn 1 [0, 1] [(0, tlbs)]
       (invA 1 [0, 1] [(0, tlbs)]).dropped.find? (fun e => e.1 == 0) = some (0, tlbs) ∧ stillUsed s 0 tlbs = false)
    ∧ pathDown (route 0 1 0x5800 (sIn 1 [0, 1] [])) 0 1 = true := by decide +kernel

/-! Saves, loads and partition swaps -/

/-- A range in one page of HBM whose translation is at hand; its bytes are not listed. -/
theorem hbm_range (s : State) (r die : Nat) (core : Option Nat) (ctx : Nat) (acc : Acc) (ga n va : Nat) (e : TlbEntry)
    (hi : issuerCheck s die core (fun _ => none) acc.writes ga n = .ok (.hbm die va)) (hp : pathDown s die die = false) (hl : linkOpen s die die = true)
    (ht : translate s core die ctx va = (.ok e, s)) (ha : allowed e.leaf acc = true) (hb : va % 2 ^ leafShift e.lev + n ≤ 2 ^ leafShift e.lev)
    (hc : ∀ ps, s.admitsEngine r ps = true) (hn : n ≤ 2 ^ 16 - ga % 2 ^ 16) :
    engineRange s r die core ctx acc ga n = (.ok ((List.range n).map (fun i => leafByte die e (va + i))), s) := by
  have hm : min n (2 ^ 16 - ga % 2 ^ 16) = n := Nat.min_eq_left hn
  simp only [engineRange, enginePages, hm, engineCheck, engineLook, hi, Place.die, hp, hl, locate, ht, ha, if_neg (Nat.not_lt.2 hb)]
  simp [hc]
def leaf0 : TlbEntry := ⟨0, 1, 2 ^ 20, leafW 0 0⟩
def saveJ (load : Bool) : SaveJob := ⟨load, hga 8192, none, 0, 0, none, 0⟩
def crewS : Crew := { crew0 with state := 3, wid := 0x123456789ABC, node := 0x401, trap := { cause := 5, tval := 9, epca := 0x1122334455667788, epcx := 0x99 } }
/-- Crew 1 halted or empty, on a core without queues, and its area at byte 8192 with a header. -/
def sSv (load : Bool) : State :=
  let s : State := { wA with cores := [(0, { core0 with q := 0 })], crews := [(0, crew0), (1, if load then {} else crewS)], saves := [(1, saveJ load)] }
  putB 8192 (le 4 1 ++ le 4 24576 ++ le 8 0 ++ le 8 1 ++ le 8 0x401 ++ le 8 0x1234 ++ [0, 0, 0, 8, 0, 0]) (tl s)
def area (n : Nat) : List Nat := (List.range n).map (fun i => leafByte 0 leaf0 (2 ^ 50 + 8192 + i))
theorem leaf0_byte (i : Nat) (h : i < 24576) : leafByte 0 leaf0 (2 ^ 50 + 8192 + i) = 8192 + i := by
  have h1 : leafPa leaf0.leaf.toNat = 0 := by decide +kernel
  have h2 : leafPch leaf0.leaf.toNat = 0x40 := by decide +kernel
  have h3 : leafShift leaf0.lev = 30 := by decide +kernel
  simp only [leafByte, h1, h2, h3, if_pos, hbmByte]
  omega
theorem area_nodup : (area 24576).Nodup := by
  have h : area 24576 = (List.range 24576).map (8192 + ·) := by
    apply List.map_congr_left; intro i hi; exact leaf0_byte i (List.mem_range.1 hi)
  rw [h]; exact List.Nodup.map (fun a b hab => Nat.add_left_cancel hab) List.nodup_range
theorem saves_admit (load : Bool) (r : Nat) (ps : List Nat) : (sSv load).admitsEngine r ps = true := by
  cases load
  · exact engine_all _ r rfl rfl (fun d m => slices_one (sSv false) ((sSv false).die 0) rfl rfl d m) ps
  · exact engine_all _ r rfl rfl (fun d m => slices_one (sSv true) ((sSv true).die 0) rfl rfl d m) ps
theorem meets_SavesLoadsSwaps_save : (sSv false).saves.find? (fun e => e.1 == 1) = some (1, saveJ false) ∧ ((sSv false).saves.map (·.1)).Nodup
    ∧ quiet (sSv false) 1 = true ∧ divided (sSv false) 1 = true ∧ (saveJ false).tiles = none ∧ (area 24576).Nodup
    ∧ 24576 + 2176 * ((sSv false).core (1 / 4)).q + 18432 * (heldRange (sSv false) 1).g * (1 + ((sSv false).crew 1).asked) = 24576
    ∧ (area 24576).length = 24576 ∧ jobRange (sSv false) (saveJ false) .write (saveJ false).area 24576 = (.ok (area 24576), sSv false) :=
  ⟨rfl, by decide, by decide +kernel, by decide +kernel, rfl, area_nodup, by decide +kernel, by simp [area], hbm_range _ _ _ _ _ _ _ _ _ leaf0 (by decide +kernel) (by decide +kernel)
    (by decide +kernel) (by decide +kernel) (by decide +kernel) (by decide +kernel) (saves_admit false _) (by decide +kernel)⟩
theorem meets_SavesLoadsSwaps_load : (sSv true).saves.find? (fun e => e.1 == 1) = some (1, saveJ true) ∧ (saveJ true).load = true
    ∧ jobRange (sSv true) (saveJ true) .read (saveJ true).area 64 = (.ok (area 64), sSv true) ∧ (sSv true).anyBad (area 64) = false
    ∧ areaBad ((area 64).map (sSv true).vbyte) = false ∧ areaNum ((area 64).map (sSv true).vbyte) 4 4 = 24576
    ∧ jobRange (sSv true) (saveJ true) .read (saveJ true).area 24576 = (.ok (area 24576), sSv true) ∧ (sSv true).anyBad (area 24576) = false
    ∧ (∀ p ∈ area 24576, ((sSv true).vbyte p).p = false) ∧ loadReason (sSv true) 1 ((area 24576).map (sSv true).vbyte) [] = none :=
  ⟨rfl, rfl, hbm_range _ _ _ _ _ _ _ _ _ leaf0 (by decide +kernel) (by decide +kernel) (by decide +kernel) (by decide +kernel) (by decide +kernel) (by decide +kernel)
    (saves_admit true _) (by decide +kernel), by decide +kernel, by decide +kernel, by decide +kernel,
   hbm_range _ _ _ _ _ _ _ _ _ leaf0 (by decide +kernel) (by decide +kernel) (by decide +kernel) (by decide +kernel) (by decide +kernel) (by decide +kernel)
    (saves_admit true _) (by decide +kernel), noBad_all _ rfl _, fun p _ => noPoison_all _ rfl p, by decide +kernel⟩
/-- Partition 1 with a reserve of the shadow store; cluster 0 has a running crew, and cluster 1 none. -/
def sSw (rsv q : Nat) (f : Die → Die) : State := ((wA.setReg 0 0x138 (BitVec.ofNat 64 (rsv * 2 ^ 10))).setReg 0 0xB01 (BitVec.ofNat 64 q)).modDie 0 f
theorem meets_SavesLoadsSwaps_swap : ((sSw 1 3 id).die 0).swap = none ∧ (∃ n ∈ partCores (sSw 1 3 id) 0 1, coreHalted (sSw 1 3 id) n = false)
    ∧ (∀ rsv ∈ [0, 1, 30], (∀ n ∈ partCores (sSw rsv 5 id) 0 1, coreHalted (sSw rsv 5 id) n = true)
      ∧ (((sSw rsv 5 id).reg 0 0x138).extractLsb' 10 6).toNat = rsv
      ∧ decide (shadowUsed (sSw rsv 5 id) 0 + ((partCores (sSw rsv 5 id) 0 1).map (fun n => imageKib ((sSw rsv 5 id).core n))).sum ≤ 1024 * rsv) = decide (rsv = 30))
    ∧ (let s := sSw 30 5 (fun d => { d with swap := some 1 }); (s.die 0).swap = some 1 ∧ Machine.get [] (s.die 0).shadow 1 = [] ∧ partCores s 0 1 ≠ []
      ∧ ∀ n ∈ partCores s 0 1, ∀ k ∈ coreCrews n, pushesDone s k = true ∧ (s.crew k).reads = [] ∧ divided s k = true ∧ (s.crew k).wcb = []) := by
  refine ⟨by decide +kernel, ⟨0, by decide +kernel⟩, by decide +kernel, by decide +kernel⟩

/-! Changes of the network -/

def sN (st : Nat) (f : Chip → Chip) (s : State) : State := { s.setReg 0 0x132 (BitVec.ofNat 64 st) with chips := [(0, f { supplied := true, booted := true })] }
def sNw : State := putB (sp 1024) ((List.range 32).map (· + 1) ++ le 8 (sga 2048).toNat ++ List.replicate 24 0) (cr id wA)
def chgA : Option (Nat × Word) := some (0, sga 2048)
def two (s : State) : State := route 0 1 0x4801 (route 0 2 0x4801 s)
theorem meets_NetworkChanges_request : ((sN 0 id sNw).chip 0).change = none ∧ ((sN 0 id sNw).chip 0).phase = 0 ∧ (sN 0 id sNw).reg 0 0x111 = 0
    ∧ mayTrain (sN 0 id sNw) 0 1 = true ∧ ((sN 0 id sNw).chip (0 / 8)).booted = true ∧ (wA.chip (0 / 8)).booted = false ∧ (sN 0 id sNw).colls = []
    ∧ 1 ≤ (if 0 / 8 = 1 / 8 then 8 else 1) ∧ ownSpad (sN 0 id sNw) 0 (sga 1024).toNat 64 1 = some (rf (sp 1024) 64) ∧ (sN 0 id sNw).anyBad (rf (sp 1024) 64) = false
    ∧ ((sN 1 (fun c => { c with phase := 1, change := chgA }) sNw).chip 0).change.isSome = true := by decide +kernel
theorem meets_NetworkChanges_phases :
    (let s := sN 1 (fun c => { c with phase := 1 }) (two (sNw.setReg 0 0x130 7))
     (s.chip 0).change = none ∧ s.reg 0 0x111 = 0 ∧ (s.chip 0).phase = 1 ∧ 6 < ((s.reg 0 0x130).extractLsb' 0 32).toNat ∧ s.chips = [(0, s.chip 0)]
     ∧ (s.chip 0).supplied = true ∧ livePaths s ≠ [])
    ∧ (let s := sN 2 (fun c => { c with phase := 2, change := chgA }) (two sNw)
       (s.chip 0).phase = 2 ∧ (0, 1) ∈ livePaths s ∧ (Machine.get {} (s.die 0).paths 1).unack = [] ∧ (Machine.get {} (s.die 0).paths 1).marker = false
       ∧ pathBusy s 0 1 = false ∧ (changing s 2).isSome = true ∧ (0, 2) ∈ livePaths s ∧ (Machine.get {} (s.die 0).paths 2).marker = false)
    ∧ (let s := sN 2 (fun c => { c with phase := 2, change := chgA }) sNw
       (s.chip 0).change.isSome = true ∧ s.chips = [(0, s.chip 0)] ∧ livePaths s = []) := by decide +kernel
theorem meets_NetworkChanges_training :
    (let s := sN 3 (fun c => { c with phase := 3, change := chgA }) (two sNw); (s.chip 0).phase = 3 ∧ (s.chip 0).change.isSome = true ∧ s.chips = [(0, s.chip 0)])
    ∧ (let s := sN 4 (fun c => { c with phase := 4 }) (two sNw); (s.chip 0).phase = 4 ∧ (s.chip 0).change = none ∧ training s = false)
    ∧ (let s := (sN 4 (fun c => { c with phase := 4 }) (two sNw)).modDie 0 (fun d => { d with paths := [(2, { retrain := true })] })
       (s.chip 0).phase = 4 ∧ training s = true)
    ∧ (∀ l ∈ [true, false], let s := sN (if l then 7 else 4) (fun c => { c with phase := 4, change := chgA, late := l }) (two sNw)
       (s.chip 0).change = some (0, sga 2048) ∧ s.reg 0 0x111 = 0 ∧ (s.chip 0).late = l ∧ training s = false
       ∧ ownSpad s 0 (sga 2048).toNat 4 4 = some (rf (sp 2048) 4) ∧ s.unheld (rf (sp 2048) 4) = true) := by decide +kernel
/-- A request that comes while the training after a time-out goes on, with its block and the word that it names. -/
theorem meets_NetworkChanges_lost : let s := sN 7 (fun c => { c with phase := 4, change := chgA, late := true }) sNw
    (s.chip 0).change.isSome = true ∧ ((s.reg 0 0x132).extractLsb' 0 3).toNat = 7 ∧ s.reg 0 0x111 = 0
    ∧ ownSpad s 0 (sga 1024).toNat 64 1 = some (rf (sp 1024) 64) ∧ s.anyBad (rf (sp 1024) 64) = false
    ∧ ownSpad s 0 (leNat ((((rf (sp 1024) 64).map s.byte).drop 32).take 8)) 4 4 = some (rf (sp 2048) 4) ∧ s.unheld (rf (sp 2048) 4) = true := by
  decide +kernel

/-! Ethernet ports, clocks and power -/

/-- A port with an address, queue pair 1 and key 5 of die 0, and bytes at 4096. -/
def sRd : State :=
  let s := ((((tl wA).setReg 0 0x1014 (BitVec.ofNat 64 (1 + 2 + 4 + 8 + 9 * 2 ^ 12 + 65534 * 2 ^ 40))).setReg 0 0x1015 (hga 4096)).setReg 0 0x1016 8192)
  let s := ((s.setReg 0 0x2004 (BitVec.ofNat 64 (1 + 3 * 2 ^ 11))).setReg 0 0x2005 (BitVec.ofNat 64 (2 ^ 24 * (2 ^ 24 - 1)))).setReg 0 0x2006 77
  let s := ((s.setReg 0 0x2800 (BitVec.ofNat 64 (3 + 5 * 4 + 0x112233445566 * 2 ^ 16))).setReg 0 0x2801 (BitVec.ofNat 64 (0xFFFF * 2 ^ 32 + 1))).setReg 0 0x2802 0
  putB 4096 [1, 2, 3, 4, 5, 6, 7, 0xFF, 9] s
def frm (tags : Nat) : Frame := ⟨4200, tags, false, 4791⟩
def pk (psn len : Nat) (va : Word) (n : Nat) : Rdma :=
  ⟨0, 77, 0x101, psn, 3, 9 * 1024 + 5, va.toNat, len, (List.range n).map (BitVec.ofNat 8), 0xFF07060504030201, 5, false, frm 1⟩
def expPsn : Nat := ((sRd.reg 0 (0x2000 + 4 * 1 + 1)).extractLsb' 24 24).toNat
/-- A packet at the last PSN, one that comes again, one too early, and one whose range ends past its region. -/
theorem meets_RdmaOperations : qpOf sRd 0 (pk (2 ^ 24 - 1) 20 (hga 4096) 20) = some 1 ∧ (pk (2 ^ 24 - 1) 20 (hga 4096) 20).ce = false ∧ frameListed (frm 1) = true ∧ frameListed (frm 2) = false
    ∧ (2 ^ 24 - 1 + 2 ^ 24 - expPsn) % 2 ^ 24 = 0 ∧ 20 ≤ qpMtu (sRd.reg 0 0x2004) ∧ (sRd.die 0).msgs = []
    ∧ keyOk sRd 0 (9 * 1024 + 5) 0 2 (hga 4096).toNat 20 = true ∧ netRange 0 0 .netWrite 2 (hga 4096).toNat 20 sRd = (.ok (rf 4096 20), sRd)
    ∧ keyOk sRd 0 (9 * 1024 + 5) 0 1 (hga 4096).toNat 20 = true ∧ netRange 0 0 .netRead 2 (hga 4096).toNat 20 sRd = (.ok (rf 4096 20), sRd)
    ∧ keyOk sRd 0 (9 * 1024 + 5) 0 3 (hga 4096).toNat 8 = true ∧ netRange 0 0 .netRmw 2 (hga 4096).toNat 8 sRd = (.ok (rf 4096 8), sRd) ∧ (hga 4096).toNat % 8 = 0
    ∧ keyOk sRd 0 (9 * 1024 + 5) 0 1 (hga 12280).toNat 9 = false
    ∧ 2 ^ 23 ≤ (2 ^ 24 - 2 + 2 ^ 24 - expPsn) % 2 ^ 24 ∧ 0 < (0 + 2 ^ 24 - expPsn) % 2 ^ 24 ∧ (0 + 2 ^ 24 - expPsn) % 2 ^ 24 < 2 ^ 23
    ∧ (let p := { pk 5 8 (hga 4096) 8 with seg := 4 }; qpOf sRd 0 p = some 1 ∧ 3 < p.seg)
    ∧ (let p := { pk 5 8 (hga 4096) 8 with qpn := 0x102, ce := true }; portOpen sRd 0 p.port = true ∧ p.port ∉ (sRd.die 0).paused ∧ qpOf sRd 0 p = none) := by
  decide +kernel
/-- The key counts one operation less than it can, and then as many as it can: the packet must stand. -/
theorem meets_RdmaOperations_room : ((sRd.reg 0 (0x1000 + 4 * ((9 * 1024 + 5) % 1024))).extractLsb' 40 16).toNat = 65534
    ∧ (let s := sRd.setReg 0 0x1014 (BitVec.ofNat 64 (1 + 2 + 4 + 8 + 9 * 2 ^ 12 + 65535 * 2 ^ 40))
       ¬((s.reg 0 (0x1000 + 4 * ((9 * 1024 + 5) % 1024))).extractLsb' 40 16).toNat < 65535 ∧ 0 ∉ (s.die 0).pausing
       ∧ qpOf s 0 (pk (2 ^ 24 - 1) 20 (hga 4096) 20) = some 1 ∧ keyOk s 0 (9 * 1024 + 5) 0 1 (hga 4096).toNat 20 = true
       ∧ netRange 0 0 .netRead 2 (hga 4096).toNat 20 s = (.ok (rf 4096 20), s)) := by decide +kernel
def nop (kind n : Nat) : NetOp := ⟨1, 5, 3, 1024, kind, rf 4096 n, (rf 7 n).map (BitVec.ofNat 8), 0, 0xFF07060504030201, 3⟩
theorem meets_RdmaOperations_runs : ∀ x ∈ [(0, 9), (1, 9), (2, 8), (3, 8)], let s := sRd.modDie 0 (fun d => { d with netOps := [nop x.1 x.2] })
    (s.die 0).netOps = nop x.1 x.2 :: [] ∧ s.admitsEngine (netId 0) (nop x.1 x.2).bytes = true ∧ (∀ p ∈ (nop x.1 x.2).bytes, linkOpen s 0 (byteDie p) = true)
    ∧ s.anyBad (nop x.1 x.2).bytes = false ∧ (∀ p ∈ (nop x.1 x.2).bytes, (s.vbyte p).p = false) ∧ (nop x.1 x.2).bytes.length ≤ 1024
    ∧ 0 ∉ (s.die 0).paused ∧ 0 ∈ ((s.modDie 0 (fun d => { d with paused := [0] })).die 0).paused := by decide +kernel
theorem meets_RdmaOperations_ports : (sRd.reg 0 0x2800).getLsbD 0 = true ∧ (sRd.reg 0 0x2800).getLsbD 1 = true
    ∧ (sRd.reg 0 0x2801).toNat + (sRd.reg 0 0x2802).toNat * 2 ^ 64 = 0xFFFF * 2 ^ 32 + 1 ∧ (0 % 8 = 0 ∨ 0 % 8 = 7) ∧ 1 < 2
    ∧ (sRd.chip 0).booted = false ∧ (({ sRd with chips := [(0, { booted := true })] } : State).chip 0).booted = true := by decide +kernel
def chA (f : Chip → Chip) (s : State) : State := { s with chips := [(0, f { supplied := true })] }
/-- A port slave in domain 3, and a ring of two telemetry records at offset 1024. -/
def sCk (wr rd : Nat) : State :=
  putB (sp 1024) (le 8 wr ++ le 8 rd) (((wA.setReg 0 0x147 (BitVec.ofNat 64 (1 + 2 ^ 2 * 3))).setReg 0 0x2800 3).setReg 0 0x148 (BitVec.ofNat 64 (2 ^ 60 + 2 ^ 59 + 1024 + 2)))
theorem meets_ClockAndTelemetry : ptpMine (sCk 5 4) 0 0 3 = true ∧ ((sCk 5 4).reg 0 0x147).getLsbD 0 = true ∧ 999900000 % 100000 = 0 ∧ 999900000 < 1000000000
    ∧ ((sCk 5 4).chip 0).sample = none
    ∧ (let s := chA (fun c => { c with sample := some (5, 100000), sampled := [(0, 5)] }) (sCk 5 4)
       (s.chip 0).sample = some (5, 100000) ∧ (∀ e ∈ (s.chip 0).sampled, e.1 ≠ 7) ∧ plausible (s.chip 0) (min 65535 70000) = false ∧ plausible (s.chip 0) (min 65535 9) = true)
    ∧ (∀ x ∈ [(5, 4), (2 ^ 64 - 1, 2 ^ 64 - 2)], let s := chA (fun c => { c with sample := some (5, 100000), sampled := (List.range 8).map (fun i => (i, i * 9362)) }) (sCk x.1 x.2)
       (s.chip 0).sampled = (List.range 8).map (fun i => (i, i * 9362)) ∧ (∀ i, i < 8 → i * 9362 < 2 ^ 16) ∧ ((s.reg 0 0x148).extractLsb' 0 6).toNat = 2
       ∧ s.num (ringBase 0 (s.reg 0 0x148)) 8 - s.num (ringBase 0 (s.reg 0 0x148) + 8) 8 < 2) := by decide +kernel
/-- Two masters of which the second is the better, and one of two that are alike. -/
def mast : SMap (List Nat) := [(7, [128, 6]), (9, [127, 248])]
theorem meets_ClockAndTelemetry_masters : let s := chA (fun c => { c with masters := mast }) (sCk 5 4)
    bestMaster (s.chip 0).masters = some 9 ∧ bestMaster (s.chip 0).masters ≠ some 7 ∧ ptpMine s 0 0 3 = true
    ∧ mast = [(7, [128, 6])] ++ (9, [127, 248]) :: [] ∧ (∀ e ∈ [(7, [128, 6])], better [127, 248] e.2 = true)
    ∧ ([(3, [5]), (4, [5])] : SMap (List Nat)) = [] ++ (3, [5]) :: [(4, [5])] ∧ (∀ e ∈ [(4, [5])], better e.2 [5] = false) := by decide +kernel
/-- Die 7 is listed, with both its ports open. -/
theorem meets_ClockAndTelemetry_ports : let s := { wA with dies := wA.dies ++ [(7, { regs := [(0x2800, 3), (0x2810, 3)] })] }
    ∀ p, p < 2 → portOpen s (8 * 0 + 7) p = true := by decide +kernel
def ramp (a b fl en : Nat) : Word := BitVec.ofNat 64 (a + b * 2 ^ 12 + fl * 2 ^ 24 + en * 2 ^ 36)
def hsh : Nat := 0x1234
def sPw (f : Chip → Chip) : State := chA f ((wA.setReg 0 0x143 (ramp 500 300 2000 3)).setReg 0 0x141 (BitVec.ofNat 64 (1 + 4 * 2 ^ 8 + 2 * 2 ^ 12 + (2 ^ 32 - 1) * 2 ^ 16)))
/-- R434: the worked values of a ramp up: the target rises by 5 W, and ballast and filler make up nothing above it. -/
theorem test_limiter : ((after (.limiterInterval 0 ⟨1650, 350, 300, 560, 480, 260⟩ 0) (sPw (fun c => { c with pdrawn := 150000 }))).chip 0).pdrawn = 150500 := by decide +kernel
theorem meets_PowerSteps : ((sPw (fun c => { c with pdrawn := 350000, floors := [3600, 5] })).chip 0).tripped = false ∧ (sPw id).reg 0 0x111 = 0 ∧ 3600 ≤ 3600
    ∧ ((sPw (fun c => { c with floors := [3600, 5] })).chip 0).floors = 3600 :: [5]
    ∧ (1 ≤ ((ramp 4000 1 3600 0).extractLsb' 0 12).toNat ∧ ((ramp 4000 1 3600 0).extractLsb' 0 12).toNat ≤ 4000 ∧ 1 ≤ ((ramp 4000 1 3600 0).extractLsb' 12 12).toNat
      ∧ ((ramp 4000 1 3600 0).extractLsb' 12 12).toNat ≤ 4000 ∧ ((ramp 4000 1 3600 0).extractLsb' 24 12).toNat ≤ 3600)
    ∧ ¬(1 ≤ ((ramp 0 1 3600 0).extractLsb' 0 12).toNat) ∧ ¬((ramp 4000 1 3601 0).extractLsb' 24 12).toNat ≤ 3600
    ∧ ((sPw id).reg 0 0x141).getLsbD 0 = true ∧ (wA.reg 0 0x141).getLsbD 0 = false ∧ ((sPw id).die 0).droop = [] := by decide +kernel
/-- Intervals below 3,600 W, of a chip that runs at it, and one that comes to it with each consumer within its line. -/
def sPm (p : Nat) : State := (sPw (fun c => { c with pdrawn := p })).setReg 0 0x143 (ramp 500 300 3600 3)
theorem meets_PowerSteps_limits : ((sPm 360000).chip 0).pdrawn = 360000 ∧ ((sPm 200000).chip 0).pdrawn < 360000 ∧ ((sPm 200000).chip 0).shortN = 0
    ∧ (let c := (sPw (fun c => { c with pdrawn := 350000, shortN := 2, target := 345000 })).chip 0
       c.shortN ≠ 0 ∧ c.pdrawn < 360000 ∧ c.target - 300 < 360000)
    ∧ ((sPm 359900).chip 0).pdrawn < 360000 ∧ (sPm 359900).reg 0 0x111 = 0 ∧ ((sPm 359900).chip 0).tripped = false
    ∧ ((after (.limiterInterval 0 ⟨1650, 350, 300, 560, 480, 110⟩ 0) (sPm 359900)).chip 0).pdrawn = 360000
    ∧ (∀ e ∈ [(1650, 1650), (350, 350), (300, 300), (560, 560), (480, 480), (110, 110)], 100 * e.1 ≤ 100 * e.2) := by decide +kernel
/-- R434, R439: at 3,600 W the matrix line is held, and ballast makes up the rest. -/
theorem test_limiter_line : ((after (.limiterInterval 0 ⟨2500, 100, 0, 0, 0, 0⟩ 0) (sPm 360000)).reg 0 0x144).extractLsb' 36 12 = 1200 := by decide +kernel
def sDr (l : Nat) : State :=
  let s : State := { sPw id with cores := [(0, { core0 with sig := hsh, lgate := l }), (1, { core0 with sig := hsh, thrott := 5 })] }
  s.modDie 0 (fun d => { d with droop := [((hsh % 256) ^^^ (hsh / 256), (hsh, 2))] })
theorem meets_PowerSteps_cores : ((sDr 3).core (64 * 0 + 2 * 0)).sig = hsh ∧ ((sDr 3).core 1).sig = hsh ∧ hsh < 2 ^ 16 ∧ hsh ≠ 0
    ∧ Machine.get (0, 0) ((sDr 3).die 0).droop ((hsh % 256) ^^^ (hsh / 256)) = (hsh, 2) ∧ (((sDr 3).reg 0 0x141).extractLsb' 12 2).toNat ≤ 2
    ∧ (((sDr 3).reg 0 0x141).extractLsb' 8 4).toNat ≠ 0 ∧ 1 < (((sDr 3).reg 0 0x141).extractLsb' 12 2).toNat ∧ (((sDr 3).die 0).droop.map (·.1)).Nodup
    ∧ ((sDr 3).core 0).lgate < 256 ∧ ((sDr 3).core 0).lgate.testBit 7 = false ∧ groupInUse (sDr 3) 0 7 = false
    ∧ (let s := sH [eA] .halted; let s := co (fun c => { c with lgate := 2 }) s; 1 ∈ wantedGroups s 0 ∧ (s.core 0).lgate < 256) := by decide +kernel
theorem meets_PowerSteps_islands : 38 < 39 ∧ (16 ≤ ((16 : Word).extractLsb' 0 7).toNat ∧ ((64 : Word).extractLsb' 0 7).toNat ≤ 64)
    ∧ ¬(16 ≤ ((15 : Word).extractLsb' 0 7).toNat) ∧ ¬((65 : Word).extractLsb' 0 7).toNat ≤ 64
    ∧ ((wA.setReg 0 (0x150 + 38) (BitVec.ofNat 64 (2 ^ 26 + 0x55))).reg 0 (0x150 + 38)).getLsbD 26 = true ∧ 4095 < 2 ^ 12 := by decide +kernel

/-! Chips -/

theorem sha256_length (m : List Byte) : (sha256 m).length = 32 := by simp [sha256]
theorem treeRoot_length (tree sig : List Byte) : ∀ (n node : Nat) (x : List Byte), x.length = 32 → (treeRoot tree sig n node x).length = 32
  | 0, _, _, h => h
  | n + 1, node, _, _ => treeRoot_length tree sig n (node / 2) _ (sha256_length _)
theorem lmsRoot_length (tree m sig : List Byte) : (lmsRoot tree m sig).length = 32 := treeRoot_length _ _ _ _ _ (sha256_length _)
/-- FIPS 180-4: the digest of the three bytes abc starts with ba7816bf. -/
theorem test_sha256 : (sha256 [0x61, 0x62, 0x63]).take 4 = [0xBA, 0x78, 0x16, 0xBF] := by decide +kernel
theorem bytesAt_left (a b : List Byte) (o n : Nat) (h : o + n ≤ a.length) : bytesAt (a ++ b) o n = bytesAt a o n := by
  simp only [bytesAt, List.drop_append, List.take_append, List.length_drop]
  rw [Nat.sub_eq_zero_of_le (by omega : n ≤ a.length - o)]; simp
theorem bytesAt_right (a b : List Byte) (o n : Nat) (h : a.length ≤ o) : bytesAt (a ++ b) o n = bytesAt b (o - a.length) n := by
  simp only [bytesAt, List.drop_append, List.drop_eq_nil_of_le h, List.nil_append]
def zs (n : Nat) : List Byte := List.replicate n 0
/-- One level of a signature of leaf 0, and the fixed words before a root of a key and of the key that a signature holds. -/
def lvl : List Byte := be32 0 ++ be32 3 ++ zs 2176 ++ be32 7 ++ zs 480
def top : List Byte := be32 2 ++ be32 7 ++ be32 3 ++ zs 16
def mid : List Byte := be32 7 ++ be32 3 ++ zs 16
def front : List Byte := be32 1 ++ lvl ++ mid
/-- The key and the signature that lead to the roots they hold, for a message. -/
def key1 (m : List Byte) : List Byte := mid ++ lmsRoot (zs 16) m lvl
def keyA (m : List Byte) : List Byte := top ++ lmsRoot (zs 16) (key1 m) lvl
def sigA (m : List Byte) : List Byte := front ++ (lmsRoot (zs 16) m lvl ++ lvl)
theorem sigA_low (m : List Byte) (o n : Nat) (h : o + n ≤ 2696) : bytesAt (sigA m) o n = bytesAt front o n :=
  bytesAt_left _ _ _ _ (by rw [show front.length = 2696 by decide +kernel]; exact h)
theorem sigA_high (m : List Byte) (o n : Nat) (h : 2728 ≤ o) : bytesAt (sigA m) o n = bytesAt lvl (o - 2728) n := by
  have hh : front.length = 2696 := by decide +kernel
  rw [sigA, bytesAt_right _ _ _ _ (by omega), bytesAt_right _ _ _ _ (by rw [lmsRoot_length]; omega), lmsRoot_length, hh,
    show o - 2696 - 32 = o - 2728 by omega]
theorem keyA_low (m : List Byte) (o n : Nat) (h : o + n ≤ 28) : bytesAt (keyA m) o n = bytesAt top o n :=
  bytesAt_left _ _ _ _ (by rw [show top.length = 28 by decide +kernel]; exact h)
theorem all_root (m : List Byte) (rest : List Byte) : bytesAt (lmsRoot (zs 16) m lvl ++ rest) 0 32 = lmsRoot (zs 16) m lvl := by
  rw [bytesAt_left _ _ _ _ (by rw [lmsRoot_length])]; simp [bytesAt, lmsRoot_length]
theorem keyA_root (m : List Byte) : bytesAt (keyA m) 28 32 = lmsRoot (zs 16) (key1 m) lvl := by
  have h := all_root (key1 m) []
  rw [keyA, bytesAt_right _ _ _ _ (by decide +kernel), show 28 - top.length = 0 by decide +kernel]
  simpa using h
theorem sigA_root (m : List Byte) : bytesAt (sigA m) 2696 32 = lmsRoot (zs 16) m lvl := by
  rw [sigA, bytesAt_right _ _ _ _ (by decide +kernel), show 2696 - front.length = 0 by decide +kernel]; exact all_root m lvl
theorem sigA_key (m : List Byte) : bytesAt (sigA m) 2672 56 = key1 m := by
  have h : ∀ l : List Byte, bytesAt l 2672 56 = bytesAt l 2672 24 ++ bytesAt l 2696 32 := by
    intro l; simp only [bytesAt]; rw [show (56 : Nat) = 24 + 32 from rfl, List.take_add, List.drop_drop]
  rw [h, sigA_low _ _ _ (by decide), sigA_root, show bytesAt front 2672 24 = mid by decide +kernel, key1]
theorem lengthIs_of {l : List Byte} {n : Nat} (h : l.length = n) (hn : 0 < n) : lengthIs n l = true := by
  simp [lengthIs, List.isEmpty_iff, List.drop_eq_nil_iff, h]; omega
theorem holds_of {l : List Byte} {ws : List (Nat × Nat)} (h : ∀ e ∈ ws, leNat (bytesAt l e.1 4).reverse = e.2) : holdsWords l ws = true := by
  simp only [holdsWords, List.all_eq_true, beq_iff_eq]; exact h
theorem sigA_word (m : List Byte) (o : Nat) (h : o + 4 ≤ 2696 ∨ 2728 ≤ o) :
    leNat (bytesAt (sigA m) o 4).reverse = leNat (if o + 4 ≤ 2696 then bytesAt front o 4 else bytesAt lvl (o - 2728) 4).reverse := by
  split
  · rw [sigA_low _ _ _ ‹_›]
  · rw [sigA_high _ _ _ (by omega)]
/-- The signature is one of the message under the key. -/
theorem sigA_verifies (m : List Byte) : hssVerify (keyA m) m (sigA m) = true := by
  have ht : ∀ e ∈ hssTypes ++ [(4, 0), (2728, 0)], leNat (bytesAt (sigA m) e.1 4).reverse = e.2 := by
    intro e he
    rw [sigA_word m e.1 ((by decide +kernel : ∀ e ∈ hssTypes ++ [(4, 0), (2728, 0)], e.1 + 4 ≤ 2696 ∨ 2728 ≤ e.1) e he)]
    exact (by decide +kernel : ∀ e ∈ hssTypes ++ [(4, 0), (2728, 0)],
      leNat (if e.1 + 4 ≤ 2696 then bytesAt front e.1 4 else bytesAt lvl (e.1 - 2728) 4).reverse = e.2) e he
  have hk : ∀ e ∈ [(0, 2), (4, 7), (8, 3)], leNat (bytesAt (keyA m) e.1 4).reverse = e.2 := by
    intro e he
    rw [keyA_low m e.1 4 ((by decide : ∀ e ∈ [(0, 2), (4, 7), (8, 3)], e.1 + 4 ≤ 28) e he)]
    exact (by decide +kernel : ∀ e ∈ [(0, 2), (4, 7), (8, 3)], leNat (bytesAt top e.1 4).reverse = e.2) e he
  have hs : hssShape (keyA m) (sigA m) = true := by
    simp only [hssShape, Bool.and_eq_true]
    refine ⟨⟨⟨⟨lengthIs_of ?_ (by decide), holds_of fun e he => ht e (by simp [he])⟩, lengthIs_of ?_ (by decide)⟩, holds_of hk⟩, ?_⟩
    · rw [sigA, List.length_append, List.length_append, lmsRoot_length]; decide +kernel
    · rw [keyA, List.length_append, lmsRoot_length]; decide +kernel
    · simp only [List.all_cons, List.all_nil, ht (4, 0) (by simp), ht (2728, 0) (by simp)]; decide
  have h1 : bytesAt (sigA m) 4 2668 = lvl := by rw [sigA_low _ _ _ (by decide)]; decide +kernel
  have h2 : bytesAt (sigA m) 2728 2668 = lvl := by rw [sigA_high _ _ _ (by decide)]; decide +kernel
  have h3 : bytesAt (keyA m) 12 16 = zs 16 := by rw [keyA_low _ _ _ (by decide)]; decide +kernel
  have h4 : bytesAt (sigA m) 2680 16 = zs 16 := by rw [sigA_low _ _ _ (by decide)]; decide +kernel
  simp [hssVerify, hs, h1, h2, h3, h4, sigA_key, sigA_root, keyA_root]
def slotA (v : Nat) (good : Bool) : Slot :=
  let images := [[1], [2]]
  ⟨v, keyA (leBytes 8 v ++ images.flatten), if good then sigA (leBytes 8 v ++ images.flatten) else [], images⟩
def fwA (s0 s1 : Slot) : Firmware :=
  { self := 31, rom := sha256 s1.key, slot0 := s0, slot1 := s1, minVer := 3, root := [5, 6, 7], mac := [1], ip := [2], node := 9, mv := [700], leaf := 12, serial := [4], supervisor := (0x1800000000001000, 0x1800000000002000) }
theorem rom_eq (a b : Slot) : (fwA a b).rom = sha256 b.key := rfl
/-- A signed image that is new enough in either slot, and none: the signature and the version that the chip has accepted decide. -/
theorem meets_ChipEvents_boots : 31 < 32 ∧ (fwA (slotA 7 true) (slotA 7 true)).self = 31
    ∧ (let ok := fun (fw : Firmware) (x : Slot) => sha256 x.key = fw.rom ∧ hssVerify x.key (leBytes 8 x.ver ++ x.images.flatten) x.sig = true
        ∧ (sNw.chip 31).minVer ≤ x.ver
      (let fw := fwA (slotA 7 true) (slotA 7 true); ok fw fw.slot0)
      ∧ (let fw := fwA (slotA 7 false) (slotA 7 true); ¬ok fw fw.slot0 ∧ ok fw fw.slot1)
      ∧ (let fw := fwA (slotA 7 false) (slotA 7 false); ¬ok fw fw.slot0 ∧ ¬ok fw fw.slot1)) := by
  have hv : (sNw.chip 31).minVer ≤ 7 := by decide +kernel
  have hg : hssVerify (slotA 7 true).key (leBytes 8 (slotA 7 true).ver ++ (slotA 7 true).images.flatten) (slotA 7 true).sig = true := by
    rw [slotA]; exact sigA_verifies (leBytes 8 7 ++ ([[1], [2]] : List (List Byte)).flatten)
  have hb : ¬hssVerify (slotA 7 false).key (leBytes 8 (slotA 7 false).ver ++ (slotA 7 false).images.flatten) (slotA 7 false).sig = true := by
    simp [slotA, hssVerify, hssShape, lengthIs, hssBytes]
  exact ⟨by decide, rfl, ⟨(rom_eq _ _).symm, hg, hv⟩, ⟨fun h => hb h.2.1, (rom_eq _ _).symm, hg, hv⟩, fun h => hb h.2.1, fun h => hb h.2.1⟩
def blk : List Nat := (List.range 32).map (· + 1) ++ le 8 (hga 4096).toNat ++ le 8 (sga 2048).toNat ++ List.replicate 16 0
def sAt (leaf : Nat) : State := chA (fun c => { c with attest := some (0, sga 1024, 0), leaf := leaf }) (putB (sp 1024) blk (tl (va [] id wA)))
def certificate : List Nat := (List.range 5588).map (fun i => leafByte 0 leaf0 (2 ^ 50 + 4096 + i))
theorem certificate_bytes : certificate = (List.range 5588).map (4096 + ·) := by
  have h1 : leafPa leaf0.leaf.toNat = 0 := by decide +kernel
  have h2 : leafPch leaf0.leaf.toNat = 0x40 := by decide +kernel
  have h3 : leafShift leaf0.lev = 30 := by decide +kernel
  apply List.map_congr_left; intro i hi
  have hi := List.mem_range.1 hi
  simp only [leafByte, h1, h2, h3, if_pos, hbmByte]
  omega
theorem meets_ChipEvents_attests : ((sAt 7).chip 0).attest = some (0, sga 1024, 0) ∧ ownSpad (sAt 7) 0 (sga 1024).toNat 64 64 = some (rf (sp 1024) 64)
    ∧ leNat ((((rf (sp 1024) 64).map (sAt 7).byte).drop 40).take 8) = (sga 2048).toNat ∧ ownSpad (sAt 7) 0 (sga 2048).toNat 4 4 = some (rf (sp 2048) 4)
    ∧ 2 ^ 30 ≤ ((sAt (2 ^ 30)).chip 0).leaf ∧ ((sAt (2 ^ 30 - 1)).chip 0).leaf < 2 ^ 30
    ∧ leNat ((((rf (sp 1024) 64).map (sAt 7).byte).drop 32).take 8) = (hga 4096).toNat ∧ leNat ((((rf (sp 1024) 64).map (sAt 7).byte).drop 48).take 16) = 0
    ∧ (sNw.chip 0).attest = none ∧ ((sAt 7).chip 0).attest.isSome = true := by decide +kernel
theorem sAt_admits (r : Nat) (ps : List Nat) : (sAt 7).admitsEngine r ps = true := by
  obtain ⟨m, h⟩ := putB_eq (sp 1024) blk (tl (va [] id wA))
  have hq : (sAt 7).dies = (tl (va [] id wA)).dies ∧ (sAt 7).locks = [] ∧ (sAt 7).fifo = [] := by
    exact ⟨by simp only [sAt, chA, h], by simp only [sAt, chA, h]; rfl, by simp only [sAt, chA, h]; rfl⟩
  exact engine_all _ r hq.2.1 hq.2.2 (slices_one _ _ hq.1 rfl) ps
theorem meets_ChipEvents_block : (sAt 7).admitsEngine (securityId 0) (rf (sp 1024) 64) = true ∧ (sAt 7).clean (rf (sp 1024) 64) ∧ (sAt 7).unheld (rf (sp 2048) 4) = true :=
  ⟨sAt_admits _ _, by unfold State.clean; decide +kernel, by decide +kernel⟩
theorem meets_ChipEvents_certificate : engineRange (sAt 7) (securityId 0) (crewDie 0) (some (crewCore 0)) 0 .write (hga 4096).toNat 5588 = (.ok certificate, sAt 7)
    ∧ certificate.Nodup ∧ certificate.length = 5588 ∧ ∀ p ∈ rf (sp 2048) 4, p ∉ certificate :=
  ⟨hbm_range _ _ _ _ _ _ _ _ _ leaf0 (by decide +kernel) (by decide +kernel) (by decide +kernel) (by decide +kernel) (by decide +kernel) (by decide +kernel)
    (sAt_admits _) (by decide +kernel),
   by rw [certificate_bytes]; exact List.Nodup.map (fun a b h => Nat.add_left_cancel h) List.nodup_range, by simp [certificate_bytes], by
     intro p hp hc
     rw [certificate_bytes] at hc
     simp only [List.mem_map, List.mem_range, rf, sp] at hp hc
     obtain ⟨i, hi, rfl⟩ := hp
     obtain ⟨j, hj, h⟩ := hc
     omega⟩
theorem meets_ChipEvents_scrub : 8 * (2 ^ 42 - 1) < 2 ^ 45 ∧ (sAt 7).reg (byteDie (8 * 5)) 0x111 = 0 ∧ Machine.get false (sAt 7).bad 5 = false := by decide +kernel
/-- A ring of two error records, and a word of a scratchpad that has no mark. -/
theorem meets_ChipEvents_records : let s := putB (sp 1024) (le 8 5 ++ le 8 4) (wA.setReg 0 0x111 (BitVec.ofNat 64 (2 ^ 60 + 2 ^ 59 + 1024 + 2)))
    (byteDie (8 * 5) = 0 ∧ ((s.reg 0 0x111).extractLsb' 0 6).toNat = 2 ∧ s.num (ringBase 0 (s.reg 0 0x111)) 8 - s.num (ringBase 0 (s.reg 0 0x111) + 8) 8 < 2
      ∧ s.unheld (ringBytes (ringBase 0 (s.reg 0 0x111)) 2 5) = true ∧ s.num (ringBase 0 (s.reg 0 0x111)) 8 = 5 ∧ (s.die 0).ringWait = []
      ∧ Machine.get false s.bad 5 = false ∧ Machine.get false s.poison 5 = false)
    ∧ 2 ^ 45 ≤ 8 * (2 ^ 42 + 5) ∧ 8 * (2 ^ 42 + 5) < 2 ^ 46 ∧ Machine.get false wA.poison (2 ^ 42 + 5) = false ∧ wA.reg (byteDie (8 * (2 ^ 42 + 5))) 0x111 = 0 := by
  decide +kernel

end Sys2Proof.Tests
end

section
/-!
SUPPORT. What the operations of file 04 compute on words, in the terms of R90 to R95: products, order, bit counts, bit
fields and the loading of constants.
-/
namespace Sys2Proof.Machine

/-! ### Products and order (R90) -/

theorem opMulh_eq (x y : Word) :
    opMulh x y = (x.signExtend 128 * y.signExtend 128).extractLsb' 64 64 := by
  have hx : (x.signExtend 128).toInt = x.toInt := BitVec.toInt_signExtend_of_le (by decide)
  have hy : (y.signExtend 128).toInt = y.toInt := BitVec.toInt_signExtend_of_le (by decide)
  have hm : x.signExtend 128 * y.signExtend 128 = BitVec.ofInt 128 (x.toInt * y.toInt) := by
    rw [BitVec.ofInt_mul, ← hx, ← hy, BitVec.ofInt_toInt, BitVec.ofInt_toInt]
  rw [hm]
  apply BitVec.eq_of_toNat_eq
  simp only [opMulh, BitVec.toNat_ofInt, BitVec.extractLsb'_toNat, Nat.shiftRight_eq_div_pow]
  omega

theorem opMulhu_eq (x y : Word) :
    opMulhu x y = (x.zeroExtend 128 * y.zeroExtend 128).extractLsb' 64 64 := by
  have hxy : x.toNat * y.toNat < 2 ^ 64 * 2 ^ 64 := Nat.mul_lt_mul'' x.isLt y.isLt
  apply BitVec.eq_of_toNat_eq
  simp only [opMulhu, BitVec.toNat_ofNat, BitVec.extractLsb'_toNat, BitVec.toNat_mul, BitVec.truncate_eq_setWidth,
    BitVec.toNat_setWidth, Nat.mul_mod_mod, Nat.mod_mul_mod, Nat.shiftRight_eq_div_pow]
  omega

/-- Where equal keys choose equally, it makes no difference on which side equality falls. -/
theorem ite_le_eq_ite_lt {α β : Type} [LinearOrder β] {a b : β} {p q : α} (h : a = b → p = q) :
    (if a ≤ b then p else q) = if a < b then p else q := by
  rcases lt_trichotomy a b with hab | hab | hab
  · rw [if_pos hab.le, if_pos hab]
  · simp [h hab]
  · rw [if_neg hab.not_ge, if_neg hab.not_gt]

theorem opMin_eq (x y : Word) : opMin x y = if x.slt y then x else y := by
  simpa [opMin, BitVec.slt] using ite_le_eq_ite_lt (p := x) (q := y) BitVec.eq_of_toInt_eq

theorem opMax_eq (x y : Word) : opMax x y = if x.slt y then y else x := by
  simpa [opMax, BitVec.slt] using ite_le_eq_ite_lt (p := y) (q := x) (fun h => (BitVec.eq_of_toInt_eq h).symm)

theorem opMinu_eq (x y : Word) : opMinu x y = if x.ult y then x else y := by
  simpa [opMinu, BitVec.ult] using ite_le_eq_ite_lt (p := x) (q := y) BitVec.eq_of_toNat_eq

theorem opMaxu_eq (x y : Word) : opMaxu x y = if x.ult y then y else x := by
  simpa [opMaxu, BitVec.ult] using ite_le_eq_ite_lt (p := y) (q := x) (fun h => (BitVec.eq_of_toNat_eq h).symm)

theorem boolWord_slt (x y : Word) : boolWord (x.slt y) = if x.toInt < y.toInt then 1 else 0 := by
  simp [boolWord, BitVec.slt]

theorem boolWord_ult (x y : Word) : boolWord (x.ult y) = if x.toNat < y.toNat then 1 else 0 := by
  simp [boolWord, BitVec.ult]

theorem boolWord_beq (x y : Word) : boolWord (x == y) = if x = y then 1 else 0 := by
  simp [boolWord]

/-! ### Bit counts (R92) -/

/-- The number that clz writes. -/
def leadingZeros (x : Word) : Nat := if x = 0 then 64 else 63 - x.toNat.log2

theorem opClz_eq (x : Word) : opClz x = BitVec.ofNat 64 (leadingZeros x) := by
  unfold opClz leadingZeros; split <;> rfl

theorem log2_lt_of_ne_zero {x : Word} (h : x ≠ 0) : x.toNat.log2 < 64 :=
  (Nat.log2_lt (fun h0 => h (BitVec.eq_of_toNat_eq h0))).2 x.isLt

theorem leadingZeros_le (x : Word) : leadingZeros x ≤ 64 := by
  unfold leadingZeros; split <;> omega

theorem getLsbD_above_leadingZeros {x : Word} {i : Nat} (h : i < leadingZeros x) : x.getLsbD (63 - i) = false := by
  unfold leadingZeros at h
  split at h
  · next h0 => simp [h0]
  · next h0 =>
    have hlog := log2_lt_of_ne_zero h0
    exact Nat.testBit_lt_two_pow ((Nat.log2_lt (fun hz => h0 (BitVec.eq_of_toNat_eq hz))).1 (by omega))

theorem getLsbD_at_leadingZeros {x : Word} (h : leadingZeros x < 64) : x.getLsbD (63 - leadingZeros x) = true := by
  have h0 : x ≠ 0 := by rintro rfl; simp [leadingZeros] at h
  have hlog := log2_lt_of_ne_zero h0
  have hpos : 63 - leadingZeros x = x.toNat.log2 := by rw [leadingZeros, if_neg h0]; omega
  rw [hpos]
  exact Nat.testBit_log2 (fun hz => h0 (BitVec.eq_of_toNat_eq hz))

theorem trailing_le (n x : Nat) : trailing n x ≤ n := by
  induction n generalizing x with
  | zero => exact le_rfl
  | succ n ih =>
    unfold trailing
    split
    · omega
    · exact Nat.succ_le_succ (ih _)

theorem testBit_below_trailing {n x i : Nat} (h : i < trailing n x) : x.testBit i = false := by
  induction n generalizing x i with
  | zero => simp [trailing] at h
  | succ n ih =>
    unfold trailing at h
    split at h
    · omega
    · next hodd =>
      cases i with
      | zero => simpa using hodd
      | succ i => rw [Nat.testBit_succ]; exact ih (by omega)

theorem testBit_at_trailing {n x : Nat} (h : trailing n x < n) : x.testBit (trailing n x) = true := by
  induction n generalizing x with
  | zero => omega
  | succ n ih =>
    unfold trailing at h ⊢
    split at h
    · next hodd => simp [hodd]
    · next hodd => rw [if_neg hodd, Nat.testBit_succ]; exact ih (by omega)

theorem ones_eq (n x : Nat) : ones n x = ((List.range n).filter (fun i => x.testBit i)).length := by
  induction n generalizing x with
  | zero => rfl
  | succ n ih =>
    have hshift : (fun i => x.testBit i) ∘ Nat.succ = fun i => (x / 2).testBit i :=
      funext fun i => Nat.testBit_succ x i
    rw [ones, ih, List.range_succ_eq_map, List.filter_cons, List.filter_map, hshift]
    rcases Nat.mod_two_eq_zero_or_one x with h | h
    · simp [h]
    · simp [h, Nat.add_comm]

/-! ### Bit fields and constants (R93 to R95) -/

theorem shamt_signExtend {i : BitVec 22} (h : i.toNat < 64) : shamt (i.signExtend 64) = i.toNat := by
  have hmsb : i.msb = false := by
    rw [BitVec.msb_eq_decide, decide_eq_false_iff_not]
    omega
  rw [shamt, BitVec.signExtend_eq_setWidth_of_msb_false hmsb, BitVec.toNat_setWidth]
  omega

theorem getLsbD_bitsOf (x : Word) (lo n : Nat) {i : Nat} (h : i < 64) :
    (BitVec.ofNat 64 (bitsOf x.toNat lo n)).getLsbD i = (decide (i < n) && x.getLsbD (lo + i)) := by
  rw [BitVec.getLsbD_ofNat, bitsOf, Nat.testBit_mod_two_pow, Nat.testBit_div_two_pow]
  simp [h, BitVec.getLsbD, Nat.add_comm]

/-- A number with a field of n bits at lo replaced: what stands above, the new field, and what stands below. -/
theorem replaceBits_eq (w lo n x : Nat) :
    w - bitsOf w lo n * 2 ^ lo + x % 2 ^ n * 2 ^ lo = 2 ^ lo * (2 ^ n * (w / 2 ^ lo / 2 ^ n) + x % 2 ^ n) + w % 2 ^ lo := by
  have hw : 2 ^ lo * (2 ^ n * (w / 2 ^ lo / 2 ^ n) + bitsOf w lo n) + w % 2 ^ lo = w := by
    rw [bitsOf, Nat.div_add_mod, Nat.div_add_mod]
  have hsplit (y : Nat) : 2 ^ lo * (2 ^ n * (w / 2 ^ lo / 2 ^ n) + y) + w % 2 ^ lo
      = 2 ^ lo * (2 ^ n * (w / 2 ^ lo / 2 ^ n)) + w % 2 ^ lo + y * 2 ^ lo := by ring
  rw [hsplit] at hw ⊢
  omega

theorem testBit_replaceBits (w lo n x i : Nat) :
    (w - bitsOf w lo n * 2 ^ lo + x % 2 ^ n * 2 ^ lo).testBit i
      = if lo ≤ i ∧ i < lo + n then x.testBit (i - lo) else w.testBit i := by
  rw [replaceBits_eq, Nat.testBit_two_pow_mul_add _ (Nat.mod_lt _ (Nat.two_pow_pos lo)),
    Nat.testBit_two_pow_mul_add _ (Nat.mod_lt _ (Nat.two_pow_pos n))]
  by_cases hlo : i < lo
  · simp [hlo, Nat.testBit_mod_two_pow, show ¬lo ≤ i by omega]
  · by_cases hn : i < lo + n
    · simp [hlo, hn, Nat.testBit_mod_two_pow, show i - lo < n by omega, show lo ≤ i by omega]
    · simp [hlo, hn, Nat.testBit_div_two_pow, show ¬i - lo < n by omega, show i - lo - n + n + lo = i by omega]

theorem getLsbD_putField (w : Word) (lo n x : Nat) {i : Nat} (h : i < 64) :
    (putField w lo n x).getLsbD i = if lo ≤ i ∧ i < lo + n then x.testBit (i - lo) else w.getLsbD i := by
  rw [putField, BitVec.getLsbD_ofNat, testBit_replaceBits]
  simp [h, BitVec.getLsbD]

theorem bfPos_eq (f : T32c) : bfPos f = (f.imm.extractLsb' 0 6).toNat := by
  simp [bfPos, bitsOf, BitVec.extractLsb'_toNat]

theorem bfLen_eq (f : T32c) : bfLen f = (f.imm.extractLsb' 6 6).toNat + 1 := by
  simp [bfLen, bitsOf, BitVec.extractLsb'_toNat, Nat.shiftRight_eq_div_pow]

theorem lowerHalf_append (i : BitVec 32) (x : Word) :
    BitVec.ofNat 64 (i.toNat * 2 ^ 32 + x.toNat % 2 ^ 32) = i ++ x.extractLsb' 0 32 := by
  apply BitVec.eq_of_toNat_eq
  rw [BitVec.toNat_append, ← Nat.shiftLeft_add_eq_or_of_lt (BitVec.isLt _)]
  simp only [BitVec.toNat_ofNat, BitVec.extractLsb'_toNat, Nat.shiftLeft_eq, Nat.shiftRight_zero]
  omega

end Sys2Proof.Machine
end

section
/-!
SUPPORT. What the shared shapes of the scalar instructions do: two operands, one operand, and an operand and an immediate.
-/
namespace Sys2Proof.Machine

variable {s : State} {i j : Instr}

/-- An instruction that ends by writing v to d gives v. -/
theorem gives_of_exec {d : Nat} {v : Word} {L : Nat} (hs : s.stepping = false) (hx : exec i s = done (s.setR d v L)) :
    s.Gives i d v L := by
  obtain ⟨t, ht, hw⟩ := done_setR s d v L hs
  exact ⟨t, hx.trans ht, hw⟩

theorem gives_binary {f : T16a} {L : Nat} {op : Word → Word → Word} {v : Word}
    (hr : s.ready [f.a.toNat, f.b.toNat] [f.d.toNat] = true) (hs : s.stepping = false)
    (hx : exec i s = binary j f L op s) (hv : op (s.val f.a.toNat) (s.val f.b.toNat) = v) : s.Gives i f.d.toNat v L :=
  gives_of_exec hs (hx.trans ((use2_of_ready s j _ _ _ _ hr).trans (by rw [hv])))

theorem gives_unary {f : T16a} {op : Word → Word} {v : Word} (hr : s.ready [f.a.toNat] [f.d.toNat] = true)
    (hs : s.stepping = false) (hx : exec i s = unary j f op s) (hv : op (s.val f.a.toNat) = v) : s.Gives i f.d.toNat v 1 :=
  gives_of_exec hs (hx.trans ((use1_of_ready s j _ _ _ hr).trans (by rw [hv])))

theorem gives_immediate {f : T32a} {op : Word → Word → Word} {v : Word} (hr : s.ready [f.a.toNat] [f.d.toNat] = true)
    (hs : s.stepping = false) (hx : exec i s = immediate j f op s) (hv : op (s.val f.a.toNat) (f.imm.signExtend 64) = v) :
    s.Gives i f.d.toNat v 1 :=
  gives_of_exec hs (hx.trans ((use1_of_ready s j _ _ _ hr).trans (by rw [hv])))

/-! ### Bit counts (R92) -/

section
variable {f : T16a}

theorem gives_clz (hr : s.ready [f.a.toNat] [f.d.toNat] = true) (hs : s.stepping = false) :
    ∃ n, s.Gives (.clz f) f.d.toNat (BitVec.ofNat 64 n) 1 ∧ n ≤ 64
      ∧ (∀ i, i < n → (s.val f.a.toNat).getLsbD (63 - i) = false)
      ∧ (n < 64 → (s.val f.a.toNat).getLsbD (63 - n) = true) :=
  ⟨_, gives_unary hr hs (exec_clz s f) (opClz_eq _), leadingZeros_le _, fun _ => getLsbD_above_leadingZeros,
    getLsbD_at_leadingZeros⟩

theorem gives_ctz (hr : s.ready [f.a.toNat] [f.d.toNat] = true) (hs : s.stepping = false) :
    ∃ n, s.Gives (.ctz f) f.d.toNat (BitVec.ofNat 64 n) 1 ∧ n ≤ 64
      ∧ (∀ i, i < n → (s.val f.a.toNat).getLsbD i = false)
      ∧ (n < 64 → (s.val f.a.toNat).getLsbD n = true) :=
  ⟨_, gives_unary hr hs (exec_ctz s f) rfl, trailing_le _ _, fun _ => testBit_below_trailing, testBit_at_trailing⟩

theorem gives_popc (hr : s.ready [f.a.toNat] [f.d.toNat] = true) (hs : s.stepping = false) :
    s.Gives (.popc f) f.d.toNat
      (BitVec.ofNat 64 ((List.range 64).filter (fun i => (s.val f.a.toNat).getLsbD i)).length) 1 :=
  gives_unary hr hs (exec_popc s f) (by rw [opPopc, ones_eq]; rfl)

end

/-! ### Selection, bit fields and constants (R94, R95) -/

theorem gives_sel {f : T32c} (hr : s.ready [f.a.toNat, f.b.toNat, f.c.toNat] [f.d.toNat] = true) (hs : s.stepping = false) :
    s.Gives (.sel f) f.d.toNat (if s.val f.c.toNat = 0 then s.val f.b.toNat else s.val f.a.toNat) 1 := by
  refine gives_of_exec hs ((exec_sel s f).trans ((useRegs_of_ready s _ _ _ _ hr).trans ?_))
  simp [ite_not]

theorem gives_bfx {f : T32c} (hr : s.ready [f.a.toNat] [f.d.toNat] = true) (hs : s.stepping = false) :
    ∃ v, s.Gives (.bfx f) f.d.toNat v 1
      ∧ ∀ i, i < 64 → v.getLsbD i = (decide (i < (f.imm.extractLsb' 6 6).toNat + 1)
          && (s.val f.a.toNat).getLsbD ((f.imm.extractLsb' 0 6).toNat + i)) := by
  refine ⟨_, gives_of_exec hs ((exec_bfx s f).trans (use1_of_ready s _ _ _ _ hr)), fun i hi => ?_⟩
  rw [getLsbD_bitsOf _ _ _ hi, bfPos_eq, bfLen_eq]

theorem gives_bfi {f : T32c} (hr : s.ready [f.a.toNat, f.d.toNat] [f.d.toNat] = true) (hs : s.stepping = false) :
    let pos := (f.imm.extractLsb' 0 6).toNat
    let len := (f.imm.extractLsb' 6 6).toNat + 1
    ∃ v, s.Gives (.bfi f) f.d.toNat v 1
      ∧ ∀ i, i < 64 → v.getLsbD i =
        if pos ≤ i ∧ i < pos + len then (s.val f.a.toNat).getLsbD (i - pos) else (s.val f.d.toNat).getLsbD i := by
  intro pos len
  refine ⟨_, gives_of_exec hs ((exec_bfi s f).trans (use2_of_ready s _ _ _ _ _ hr)), fun i hi => ?_⟩
  rw [getLsbD_putField _ _ _ _ hi, bfPos_eq, bfLen_eq]
  rfl

theorem gives_li {f : T48a} (hr : s.ready [] [f.d.toNat] = true) (hs : s.stepping = false) :
    s.Gives (.li f) f.d.toNat (f.imm.signExtend 64) 1 :=
  gives_of_exec hs ((exec_li s f).trans (useRegs_of_ready s _ _ _ _ hr))

theorem gives_lih {f : T48a} (hr : s.ready [f.d.toNat] [f.d.toNat] = true) (hs : s.stepping = false) :
    s.Gives (.lih f) f.d.toNat (f.imm ++ (s.val f.d.toNat).extractLsb' 0 32) 1 :=
  gives_of_exec hs ((exec_lih s f).trans ((use1_of_ready s _ _ _ _ hr).trans (by rw [lowerHalf_append])))

/-! ### The forms that the encodings admit (R43, R92, R93) -/

theorem unused_single_eq_none {n : Nat} : unused [n] = none ↔ n = 0 := by
  simp [unused, need]

theorem wellFormed_bitCount {f : T16a} (h : i ∈ [Instr.clz f, .ctz f, .popc f]) : i.wellFormed = true ↔ f.b = 0 := by
  have hd : i.defect = unused [f.b.toNat] := by
    simp only [List.mem_cons, List.not_mem_nil, or_false] at h
    rcases h with rfl | rfl | rfl <;> rfl
  rw [Instr.wellFormed, hd, beq_iff_eq, unused_single_eq_none, ← BitVec.toNat_inj]
  rfl

theorem wellFormed_immediate {f : T32a} (h : i ∈ [Instr.addi f, .andi f, .ori f, .xori f]) : i.wellFormed = true := by
  simp only [List.mem_cons, List.not_mem_nil, or_false] at h
  rcases h with rfl | rfl | rfl | rfl <;> rfl

theorem wellFormed_shiftImmediate {f : T32a} (h : i ∈ [Instr.slli f, .srli f, .srai f]) :
    i.wellFormed = true ↔ f.imm.toNat < 64 := by
  have hd : i.defect = need .reservedValue (decide (f.imm.toNat ≤ 63)) := by
    simp only [List.mem_cons, List.not_mem_nil, or_false] at h
    rcases h with rfl | rfl | rfl <;> rfl
  simp only [Instr.wellFormed, hd, beq_iff_eq, need, decide_eq_true_eq, ite_eq_left_iff, reduceCtorEq, imp_false, not_not]
  omega

/-- Settles O8: each shape of instruction by its rule above, with the results of R90 to R95 on words. -/
theorem scalarResults : Obligations.ScalarResults := by
  unfold Obligations.ScalarResults
  refine ⟨?registerRegister, fun s hs => ⟨?bitCounts, ?immediates, ?sel, ?bitFields, ?constants, ?bitCountForms,
    ?immediateForms⟩⟩
  case registerRegister =>
    intro s f hr hs a b sh
    exact ⟨gives_binary hr hs (exec_add s f) rfl, gives_binary hr hs (exec_sub s f) rfl,
      gives_binary hr hs (exec_mul s f) rfl, gives_binary hr hs (exec_mulh s f) (opMulh_eq a b),
      gives_binary hr hs (exec_mulhu s f) (opMulhu_eq a b), gives_binary hr hs (exec_and s f) rfl,
      gives_binary hr hs (exec_or s f) rfl, gives_binary hr hs (exec_xor s f) rfl, gives_binary hr hs (exec_andn s f) rfl,
      gives_binary hr hs (exec_sll s f) rfl, gives_binary hr hs (exec_srl s f) rfl, gives_binary hr hs (exec_sra s f) rfl,
      gives_binary hr hs (exec_min s f) (opMin_eq a b), gives_binary hr hs (exec_max s f) (opMax_eq a b),
      gives_binary hr hs (exec_minu s f) (opMinu_eq a b), gives_binary hr hs (exec_maxu s f) (opMaxu_eq a b),
      gives_binary hr hs (exec_slt s f) (boolWord_slt a b), gives_binary hr hs (exec_sltu s f) (boolWord_ult a b),
      gives_binary hr hs (exec_seq s f) (boolWord_beq a b)⟩
  case bitCounts => exact fun f hr => ⟨gives_clz hr hs, gives_ctz hr hs, gives_popc hr hs⟩
  case immediates =>
    intro f hr a
    refine ⟨gives_immediate hr hs (exec_addi s f) rfl, gives_immediate hr hs (exec_andi s f) rfl,
      gives_immediate hr hs (exec_ori s f) rfl, gives_immediate hr hs (exec_xori s f) rfl, fun hi => ?_⟩
    have hsh := shamt_signExtend hi
    exact ⟨gives_immediate hr hs (exec_slli s f) (by rw [hsh]), gives_immediate hr hs (exec_srli s f) (by rw [hsh]),
      gives_immediate hr hs (exec_srai s f) (by rw [hsh])⟩
  case sel => exact fun f hr => gives_sel hr hs
  case bitFields => exact fun f => ⟨fun hr _ => gives_bfx hr hs, fun hr _ => gives_bfi hr hs⟩
  case constants => exact fun f => ⟨fun hr => gives_li hr hs, fun hr => gives_lih hr hs⟩
  case bitCountForms => exact fun f => ⟨rfl, fun _ => wellFormed_bitCount⟩
  case immediateForms => exact fun f => ⟨rfl, fun _ => wellFormed_immediate, fun _ => wellFormed_shiftImmediate⟩

end Sys2Proof.Machine
end

section
/-!
SUPPORT. The divisions (R91) and the dividers that serve them (R466).
-/
namespace Sys2Proof.Machine

/-! ### Quotients and remainders (R91) -/

/-- Only the least integer divided by -1 has a quotient beyond the greatest one. -/
theorem tdiv_le_maxInt {x y : Word} (h : ¬(x.toInt = -2 ^ 63 ∧ y.toInt = -1)) : x.toInt.tdiv y.toInt ≤ maxInt := by
  have hx : -2 ^ 63 ≤ x.toInt := BitVec.le_toInt x
  have hx' : x.toInt < 2 ^ 63 := BitVec.toInt_lt
  have hq : (x.toInt.tdiv y.toInt).natAbs = x.toInt.natAbs / y.toInt.natAbs := Int.natAbs_tdiv _ _
  have hmul : x.toInt.natAbs / y.toInt.natAbs * y.toInt.natAbs ≤ x.toInt.natAbs := Nat.div_mul_le_self _ _
  have hle : x.toInt.natAbs / y.toInt.natAbs ≤ x.toInt.natAbs := Nat.div_le_self _ _
  by_contra hgt
  rw [maxInt, not_le] at hgt
  have hquot : x.toInt.natAbs / y.toInt.natAbs = 2 ^ 63 := by omega
  rw [hquot] at hmul
  have hy : y.toInt = 0 ∨ y.toInt = 1 := by omega
  rcases hy with hy | hy
  · simp [hy] at hgt
  · rw [hy, Int.tdiv_one] at hgt
    omega

theorem opDiv_eq (x y : Word) :
    opDiv x y = if y = 0 then (if 0 ≤ x.toInt then 0x7FFFFFFFFFFFFFFF else 0x8000000000000000)
      else if x.toInt = -2 ^ 63 ∧ y.toInt = -1 then 0x7FFFFFFFFFFFFFFF else BitVec.ofInt 64 (x.toInt.tdiv y.toInt) := by
  unfold opDiv
  split
  · split <;> rfl
  · split
    · next h => rw [h.1, h.2]; rfl
    · next h => rw [min_eq_right (tdiv_le_maxInt h)]

theorem opDivu_eq (x y : Word) :
    opDivu x y = if y = 0 then 0xFFFFFFFFFFFFFFFF else BitVec.ofNat 64 (x.toNat / y.toNat) := rfl

theorem opRem_eq (x y : Word) :
    opRem x y = if y = 0 then x else BitVec.ofInt 64 (x.toInt - y.toInt * x.toInt.tdiv y.toInt) := by
  rw [opRem, Int.tmod_def]

theorem opRemu_eq (x y : Word) :
    opRemu x y = if y = 0 then x else BitVec.ofNat 64 (x.toNat - y.toNat * (x.toNat / y.toNat)) := by
  rw [opRemu, Nat.mod_eq_sub]

/-! ### A division joins the queue of its divider (R466) -/

@[simp] theorem Core.divider_setDivider (c : Core) (xs : Bool) (v : Divider) : (c.setDivider xs v).divider xs = v := by
  cases xs <;> rfl

/-- The sequencer with d interlocked, unless d is register 0. -/
def Seqr.interlock (q : Seqr) (d : Nat) : Seqr := if d = 0 then q else { q with busy := d :: q.busy }

@[simp] theorem Seqr.interlock_pc (q : Seqr) (d : Nat) : (q.interlock d).pc = q.pc := by unfold interlock; split <;> rfl
@[simp] theorem Seqr.interlock_loops (q : Seqr) (d : Nat) : (q.interlock d).loops = q.loops := by unfold interlock; split <;> rfl
@[simp] theorem Seqr.reg_interlock (q : Seqr) (d r : Nat) : (q.interlock d).reg r = q.reg r := by unfold interlock; split <;> rfl

theorem Seqr.mem_busy_interlock (q : Seqr) {d : Nat} (h : d ≠ 0) : d ∈ (q.interlock d).busy := by
  simp [interlock, h]

/-- The state in which the current sequencer has issued a division with result v for d, before it goes on. -/
def State.joinDivider (s : State) (d : Nat) (v : Word) : State :=
  (s.modSeqr (fun q => q.interlock d)).modCore s.myCore (fun c =>
    c.setDivider s.cur.xs { c.divider s.cur.xs with wait := (c.divider s.cur.xs).wait ++ [⟨s.me, d, v⟩] })

section
variable (s : State) (d : Nat) (v : Word)

@[simp] theorem State.joinDivider_cur : (s.joinDivider d v).cur = s.cur := rfl

@[simp] theorem State.joinDivider_seqr : (s.joinDivider d v).seqr = s.seqr.interlock d :=
  State.seqr_modSeqr s (fun q => q.interlock d)

theorem State.joinDivider_stepping : (s.joinDivider d v).stepping = s.stepping := State.stepping_setSeqr s _

@[simp] theorem State.joinDivider_divider :
    ((s.joinDivider d v).core s.myCore).divider s.cur.xs
      = { (s.core s.myCore).divider s.cur.xs with
          wait := ((s.core s.myCore).divider s.cur.xs).wait ++ [⟨s.me, d, v⟩] } := by
  simp [State.joinDivider]

@[simp] theorem State.joinDivider_byte (p : Nat) : (s.joinDivider d v).byte p = s.byte p := rfl

theorem State.crew_setSeqr_of_ne (q : Seqr) {k : Nat} (h : k ≠ s.me) : (s.setSeqr q).crew k = s.crew k :=
  State.crew_modCrew_of_ne s _ _ h

theorem State.joinDivider_crew_of_ne {k : Nat} (h : k ≠ s.me) : (s.joinDivider d v).crew k = s.crew k :=
  State.crew_setSeqr_of_ne s _ h

/-- What the issue of a division leaves: it waits in the queue of its slice's divider with its result, its register is
interlocked, its sequencer has gone on, and the rest is as it was. -/
def State.DivisionIssued (t : State) : Prop :=
  ((t.core s.myCore).divider s.cur.xs).wait = ((s.core s.myCore).divider s.cur.xs).wait ++ [⟨s.me, d, v⟩]
    ∧ ((t.core s.myCore).divider s.cur.xs).run = ((s.core s.myCore).divider s.cur.xs).run
    ∧ (d ≠ 0 → d ∈ t.seqr.busy)
    ∧ t.seqr.pc = s.after.2 ∧ t.seqr.loops = s.after.1
    ∧ (∀ r, t.seqr.reg r = s.seqr.reg r) ∧ (∀ p, t.byte p = s.byte p)
    ∧ ∀ k, k ≠ s.me → t.crew k = s.crew k

theorem done_joinDivider (h : s.stepping = false) :
    ∃ t, done (s.joinDivider d v) = .next t ∧ s.DivisionIssued d v t := by
  refine ⟨_, done_eq _ ((s.joinDivider_stepping d v).trans h), ?queue, ?run, fun hd => ?busy, ?pc, ?loops, fun r => ?regs,
    fun p => ?bytes, fun k hk => ?crews⟩
  case queue => simp
  case run => simp
  case busy => simp [Seqr.mem_busy_interlock _ hd]
  case pc => simp [Seqr.finish_pc, State.after_eq]
  case loops => simp [Seqr.finish_loops, State.after_eq]
  case regs => simp
  case bytes => simp
  case crews => rw [State.crew_setSeqr_of_ne _ _ (by exact hk), State.joinDivider_crew_of_ne _ _ _ hk]

end

theorem issues_division {s : State} {i j : Instr} {f : T16a} {op : Word → Word → Word} {v : Word}
    (hr : s.ready [f.a.toNat, f.b.toNat] [f.d.toNat] = true) (hs : s.stepping = false)
    (hx : exec i s = division j f op s) (hv : op (s.val f.a.toNat) (s.val f.b.toNat) = v) :
    ∃ t, exec i s = .next t ∧ s.DivisionIssued f.d.toNat v t := by
  obtain ⟨t, ht, hi⟩ := done_joinDivider s f.d.toNat v hs
  have hdone : division j f op s = done (s.joinDivider f.d.toNat v) := by
    rw [← hv]
    exact use2_of_ready s j _ _ _ _ hr
  exact ⟨t, hx.trans (hdone.trans ht), hi⟩

/-! ### The divider serves its queue (R466) -/

theorem exec_divisionStart_of_idle {s : State} {core : Nat} {xs : Bool} {o : DivOp} {r : List DivOp}
    (hrun : ((s.core core).divider xs).run = none) (hwait : ((s.core core).divider xs).wait = o :: r) :
    exec (.divisionStart core xs) s = .next (s.modCore core (fun c => c.setDivider xs ⟨some o, r⟩)) := by
  simp only [exec_divisionStart, execDivisionStart, divisionStartEv, hrun, hwait, Option.getD_some]

/-- The sequencer in which the result v of a division has come to d. -/
def Seqr.takeQuotient (q : Seqr) (d : Nat) (v : Word) : Seqr := { q with busy := q.busy.erase d }.write d ⟨v, false⟩ 0

theorem Seqr.reg_takeQuotient_self (q : Seqr) (d : Nat) (v : Word) :
    (q.takeQuotient d v).reg d = if d = 0 then {} else ⟨v, false⟩ := by
  rw [takeQuotient, reg_write]
  by_cases hd : d = 0 <;> simp [hd]

theorem Seqr.reg_takeQuotient_of_ne (q : Seqr) {d r : Nat} (v : Word) (h : r ≠ d) :
    (q.takeQuotient d v).reg r = q.reg r := by
  rw [takeQuotient, reg_write, if_neg (fun hr => h hr.1)]
  rfl

theorem Seqr.not_mem_busy_takeQuotient (q : Seqr) {d : Nat} (v : Word) (h : q.busy.count d ≤ 1) :
    d ∉ (q.takeQuotient d v).busy := by
  rw [takeQuotient, write_busy, ← List.count_eq_zero, List.count_erase_self]
  omega

theorem exec_divisionResult_of_running {s : State} {core : Nat} {xs : Bool} {o : DivOp}
    (hrun : ((s.core core).divider xs).run = some o) :
    exec (.divisionResult core xs) s
      = .next ((s.modCore core (fun c => c.setDivider xs ⟨none, ((s.core core).divider xs).wait⟩)).modCrew o.crew
          (fun c => c.setSeq xs ((c.seq xs).takeQuotient o.d o.v))) := by
  simp only [exec_divisionResult, execDivisionResult, divisionResultEv, hrun, Option.getD_some]
  rfl

/-- Settles O9: R91's quotients and remainders join the queue, and the two events of the divider serve it in order. -/
theorem divisions : Obligations.Divisions := by
  unfold Obligations.Divisions
  refine ⟨?issue, fun s core xs o r => ⟨?start, ?result⟩⟩
  case issue =>
    intro s f hr hs a b issues
    exact ⟨issues_division hr hs (exec_div s f) (opDiv_eq a b), issues_division hr hs (exec_divu s f) (opDivu_eq a b),
      issues_division hr hs (exec_rem s f) (opRem_eq a b), issues_division hr hs (exec_remu s f) (opRemu_eq a b)⟩
  case start =>
    intro hrun hwait
    exact ⟨_, exec_divisionStart_of_idle hrun hwait, by simp, rfl, fun p => rfl⟩
  case result =>
    intro hrun hcount
    refine ⟨_, exec_divisionResult_of_running hrun, ?written, ?free, fun d hd => ?others, by simp,
      fun k hk => State.crew_modCrew_of_ne _ _ _ hk, fun p => rfl⟩
    case written => simp [Seqr.reg_takeQuotient_self]
    case free => simpa using Seqr.not_mem_busy_takeQuotient _ o.v hcount
    case others => simp [Seqr.reg_takeQuotient_of_ne _ _ hd]

end Sys2Proof.Machine
end

section
/-!
SUPPORT. Which index token rtcnt counts: the first that no issued access still reads (R154, R322).
-/
namespace Sys2Proof.Machine

/-- The experts that the active elements of an index token name (R154). -/
def Tok.experts (t : Tok) : List Nat := (t.elems.filter (fun e => e.act && decide (e.v.toNat < 256))).map (·.v.toNat)

section
variable {s : State}

theorem awaitToken_of_whole {i : Instr} {queue : Nat} {t : Tok} {whole : Bool} {ahead : State → State} {k : Tok → Out}
    (hw : t.whole = true) : awaitToken i queue (some t) t.n none whole ahead s k = k t := by
  simp [awaitToken, hw]

/-- The routing state of the core has come to the current crew: no other crew's instruction waits there before it (R158). -/
def State.routingTurn (s : State) : Prop :=
  (s.core s.myCore).rwait.filter (routingWaits s) = []
    ∨ ((s.core s.myCore).rwait.filter (routingWaits s)).head? = some s.me

theorem routed_of_turn {i : Instr} {k : State → Out} (h : s.routingTurn) :
    routed i true s k = k (s.modCore s.myCore
      (fun c => { c with rwait := ((s.core s.myCore).rwait.filter (routingWaits s)).filter (· != s.me) })) := by
  rcases h with h | h <;> simp [routed, h]

theorem State.stepping_modMe {f : Crew → Crew} (h : (f s.myCrew).estep = s.myCrew.estep) :
    (s.modMe f).stepping = s.stepping := by
  have hc : (s.modMe f).myCrew = f s.myCrew := State.crew_modCrew_self s s.me f
  rw [State.stepping, State.stepping, hc, h]
  rfl

theorem reg_after_done_setR {d : Nat} {v : Word} (hs : s.stepping = false) :
    ∃ u, done (s.setR d v 0) = .next u ∧ u.seqr.reg d = if d = 0 then {} else ⟨v, false⟩ := by
  obtain ⟨u, hu, ⟨hd, -⟩, -⟩ := done_setR s d v 0 hs
  exact ⟨u, hu, hd⟩

/-- rtcnt counts the token that follows those which issued accesses have claimed, not always the head of iq. -/
theorem rtcnt_counts_after_claimed {f : T32e} {t : Tok} (hx : s.cur.xs = false) (hs : s.stepping = false)
    (hr : s.ready [] [f.d.toNat] = true) (hturn : s.routingTurn) (ht : s.myCrew.iq[s.myCrew.claimedIq]? = some t)
    (hn : s.myCrew.iq.head?.map (·.n) = some t.n) (hw : t.whole = true) (hp : ∀ e ∈ t.elems, e.act = true → e.p = false) :
    ∃ u, exec (.rtcnt f) s = .next u
      ∧ u.seqr.reg f.d.toNat = if f.d.toNat = 0 then {} else ⟨BitVec.ofNat 64 t.experts.length, false⟩ := by
  have hmark : t.elems.findIdx? (fun e => e.act && e.p) = none := by simpa using hp
  rw [exec_rtcnt, execRtcnt, inA_of_A s _ hx, useRegs_of_ready s _ _ _ _ hr, iqToken, ht, hn, Option.getD_some,
    awaitToken_of_whole hw, hmark]
  dsimp only
  rw [routed_of_turn hturn]
  refine reg_after_done_setR ?_
  split
  · exact (State.stepping_modMe rfl).trans hs
  · exact hs

end

/-- An index token of one element. -/
def indexToken (v : Word) : Tok := { n := 1, wc := 2, elems := [⟨v, true, false⟩] }

/-- The job of an issued vsqi of one element, which has its token of iq still to give back (R322). -/
def indexedStore : LoadJob :=
  { tok := { n := 1, wc := 2 }, member := none,
    store := some { sq := 0, op := .write, iq := true,
                    left := [.at ⟨(List.range 4).map (spadByte 0 7 + ·), 0, false, 0⟩] } }

/-- The A stream of crew 0 after a vsqi whose element is not performed yet: the token at the head of iq, which names expert 7,
is the vsqi's, and the token behind it names no expert. -/
def afterIndexedStore : State :=
  { State.reset with crews := [(0, { state := 1, a := { run := .running }, loads := [indexedStore],
                                     iq := [(indexToken 7).readAll, indexToken 256] })] }

/-- Refutes O41: behind a vsqi that is not performed yet, rtcnt counts the token after the vsqi's and answers 0, where the
statement, which does not ask that no issued access claims the head of iq, has the head's one expert. -/
theorem not_routingInstructions : ¬ Obligations.RoutingInstructions := by
  unfold Obligations.RoutingInstructions
  intro h
  obtain ⟨hcount, -⟩ := h afterIndexedStore ⟨5, 0, 0, 0, 0, 0⟩ rfl rfl
  obtain ⟨t, ht, ⟨hhead, -⟩, -⟩ := hcount (indexToken 7).readAll [indexToken 256] (.inl rfl) (by decide) rfl rfl (by decide)
  obtain ⟨u, hu, hnext⟩ := rtcnt_counts_after_claimed (s := afterIndexedStore) (f := ⟨5, 0, 0, 0, 0, 0⟩) (t := indexToken 256)
    rfl rfl (by decide) (.inl rfl) rfl rfl rfl (by decide)
  rw [ht] at hu
  cases hu
  rw [hhead] at hnext
  exact absurd hnext (by decide)

end Sys2Proof.Machine
end

section
/-!
SUPPORT. What taking a trap leaves of the current sequencer and crew (R398 to R403), and the checks before an instruction
that raise one: the end PC of a level (R313) and poisoned operands (R115).
-/
namespace Sys2Proof.Machine

variable {s : State} {i : Instr}

/-! ### The current crew after a change of it -/

@[simp] theorem State.myCrew_modMe (s : State) (f : Crew → Crew) : (s.modMe f).myCrew = f s.myCrew :=
  State.crew_modCrew_self s s.me f

@[simp] theorem State.seqr_modMe (s : State) (f : Crew → Crew) : (s.modMe f).seqr = (f s.myCrew).seq s.cur.xs := by
  rw [State.seqr, State.myCrew_modMe, State.modMe_cur]

@[simp] theorem Crew.setSeq_stop (c : Crew) (xs : Bool) (q : Seqr) : (c.setSeq xs q).stop = c.stop := by cases xs <;> rfl
@[simp] theorem Crew.setSeq_trap (c : Crew) (xs : Bool) (q : Seqr) : (c.setSeq xs q).trap = c.trap := by cases xs <;> rfl
@[simp] theorem Crew.setSeq_cq (c : Crew) (xs : Bool) (q : Seqr) : (c.setSeq xs q).cq = c.cq := by cases xs <;> rfl

/-! ### Taking a trap -/

section
variable (k : Crew) (xs : Bool) (c : Trap)

@[simp] theorem Crew.takeTrap_stop : (k.takeTrap xs c).stop = .trap := by
  unfold Crew.takeTrap
  dsimp only
  split
  · assumption
  · rfl

@[simp] theorem Crew.takeTrap_seq : (k.takeTrap xs c).seq xs = (k.seq xs).mature := by
  unfold Crew.takeTrap
  dsimp only
  split <;> cases xs <;> rfl

@[simp] theorem Crew.takeTrap_cq : (k.takeTrap xs c).cq = k.cq := by
  unfold Crew.takeTrap
  dsimp only
  split <;> rfl

/-- The first trap of a crew goes to sys.cause (R403). -/
theorem Crew.takeTrap_trap_first (h : k.stop ≠ .trap) :
    (k.takeTrap xs c).trap = { k.trap with cause := c.word xs, cause2 := 0, cinfo := c.cinfo, tval := c.tvalReg } := by
  simp [Crew.takeTrap, h]

/-- A trap of the other slice before the crew has stopped goes to sys.cause2 (R402). -/
theorem Crew.takeTrap_trap_second (h : k.stop = .trap) :
    (k.takeTrap xs c).trap = { k.trap with cause2 := c.word xs } := by
  simp [Crew.takeTrap, h]

end

/-- The PC that a trap records: after the instruction for BKPT and TRAP, else that of the instruction (R400). -/
def State.trapPc (s : State) (c : Trap) : Word := if c.code == Cause.bkpt || c.code == Cause.trap then s.cur.link else s.seqr.pc

theorem myCrew_takeTrap (s : State) (c : Trap) :
    (takeTrap c s).myCrew = (s.myCrew.takeTrap s.cur.xs c).setSeq s.cur.xs
      { s.seqr.mature with run := .halted, wait := none, pc := s.trapPc c } := by
  rw [takeTrap, State.myCrew_modMe]
  dsimp only
  rw [Crew.takeTrap_seq]
  rfl

theorem seqr_takeTrap (s : State) (c : Trap) :
    (takeTrap c s).seqr = { s.seqr.mature with run := .halted, wait := none, pc := s.trapPc c } := by
  have hxs : (takeTrap c s).cur.xs = s.cur.xs := rfl
  rw [State.seqr, myCrew_takeTrap, hxs, Crew.seq_setSeq]

theorem trapped_takeTrap (s : State) (c : Trap) : s.Trapped (takeTrap c s) c (s.trapPc c) := by
  refine ⟨rfl, by rw [seqr_takeTrap], by rw [seqr_takeTrap], by simp [myCrew_takeTrap], fun h => ?first, fun h => ?second,
    fun r => ?regs, fun p => rfl⟩
  case first => simp [myCrew_takeTrap, Crew.takeTrap_trap_first _ _ _ h]
  case second => simp [myCrew_takeTrap, Crew.takeTrap_trap_second _ _ _ h]
  case regs => rw [seqr_takeTrap]; rfl

theorem raises_of_exec {c : Trap} (hx : exec i s = raise c s) : s.Raises i c (s.trapPc c) :=
  ⟨_, hx, trapped_takeTrap s c⟩

/-! ### Checks before an instruction -/

/-- A control instruction at the end PC of an active level raises LOOPSTK with reason 4 (R313). -/
theorem raises_at_level_end {k : Out} (h : s.atLevelEnd = true) (hx : exec i s = control s k) :
    s.Raises i { code := 12, reason := 4 } s.seqr.pc :=
  raises_of_exec (hx.trans (if_pos h))

theorem Seqr.blocked_eq_false {q : Seqr} {rs : List Nat} (h : ∀ r ∈ rs, r = 0 ∨ r ∉ q.busy) : q.blocked rs = false := by
  simpa [Seqr.blocked, or_iff_not_imp_left] using h

theorem useRegs_of_poison {rs ws : List Nat} {k : List Word → Out} (hb : ∀ r ∈ rs ++ ws, r = 0 ∨ r ∉ s.seqr.busy)
    (hc : (s.core s.myCore).ckstall = false) (hp : ∃ r ∈ rs, (s.seqr.read r).p = true) :
    useRegs i rs ws s k = raise { code := Cause.poison } s := by
  have hany : rs.any (fun r => (s.seqr.read r).p) = true := List.any_eq_true.2 hp
  simp only [useRegs, Seqr.blocked_eq_false hb, readRegs, hc, hany, Bool.false_and, Bool.false_eq_true, if_false, if_true]

end Sys2Proof.Machine
end

section
/-!
SUPPORT. What completing, a transfer of control and a skip leave where stepping is off (R40, R310, R312, R313), for a
meaning that first changes its registers, its crew or its core.
-/
namespace Sys2Proof.Machine

variable {s t : State} {i : Instr}

theorem State.OnlySeqr.of_setSeqr {q : Seqr} (h : (s.setSeqr q).OnlySeqr t) : s.OnlySeqr t := by
  obtain ⟨ht, hb⟩ := h
  exact ⟨by rwa [State.setSeqr_setSeqr] at ht, hb⟩

theorem State.onlySeqr_setSeqr (s : State) (q : Seqr) : s.OnlySeqr (s.setSeqr q) :=
  ⟨by rw [State.seqr_setSeqr], fun _ => rfl⟩

/-- Of a state that differs from s in its current crew alone, only that crew differs from s. -/
theorem State.OnlySeqr.onlyCrew {f : Crew → Crew} (h : (s.modMe f).OnlySeqr t) : s.OnlyCrew t (f s.myCrew) := by
  obtain ⟨ht, hb⟩ := h
  refine ⟨?_, hb⟩
  rw [ht, State.seqr_setSeqr, State.setSeqr, State.modCrew]
  show ((s.setCrew s.me (f s.myCrew)).setCrew s.me (((s.modMe f).myCrew).setSeq s.cur.xs t.seqr)) = _
  rw [State.setCrew_setCrew, State.myCrew_modMe]

/-! ### Completing -/

theorem done_of_not_stepping (hs : s.stepping = false) :
    ∃ t, done s = .next t ∧ s.WentOn t ∧ s.SameRegs t ∧ s.OnlySeqr t := by
  refine ⟨_, done_eq s hs, ⟨?pc, ?loops, ?wait, ?kept⟩, fun r => ?regs, s.onlySeqr_setSeqr _⟩
  case pc => rw [State.seqr_setSeqr, Seqr.finish_pc, State.after_eq]
  case loops => rw [State.seqr_setSeqr, Seqr.finish_loops, State.after_eq]
  case wait => rw [State.seqr_setSeqr, Seqr.finish_wait]
  case kept => simp [Seqr.Kept]
  case regs => simp

theorem onlyAdvances_of_exec (hs : s.stepping = false) (hx : exec i s = done s) : s.OnlyAdvances i := by
  obtain ⟨t, ht, hw⟩ := done_of_not_stepping hs
  exact ⟨t, hx.trans ht, hw⟩

/-! ### Transfers of control -/

theorem jump_of_not_stepping (hs : s.stepping = false) (pc : Word) :
    ∃ t, jump pc s = .next t ∧ s.Jumped t pc ∧ s.SameRegs t ∧ s.OnlySeqr t := by
  refine ⟨_, jump_eq s pc hs, ?jumped, fun r => ?regs, s.onlySeqr_setSeqr _⟩
  case jumped => rw [State.Jumped, State.seqr_setSeqr]; simp [Seqr.Kept, Seqr.jump]
  case regs => simp

theorem skipTo_of_not_stepping (hs : s.stepping = false) (pc : Word) :
    ∃ t, skipTo pc s = .next t ∧ s.Jumped t pc ∧ s.SameRegs t ∧ s.OnlySeqr t := by
  have hskip : skipTo pc s = .next (s.setSeqr (s.seqr.skip s.cur.st pc)) := by
    simp [skipTo, State.modSeqr, stepTrap_of_not_stepping, hs]
  refine ⟨_, hskip, ?jumped, fun r => ?regs, s.onlySeqr_setSeqr _⟩
  case jumped => rw [State.Jumped, State.seqr_setSeqr]; simp [Seqr.Kept, Seqr.skip]
  case regs => simp

theorem onlyJumps_of_exec {pc : Word} (hs : s.stepping = false) (hx : exec i s = jump pc s) : s.OnlyJumps i pc := by
  obtain ⟨t, ht, hj⟩ := jump_of_not_stepping hs pc
  exact ⟨t, hx.trans ht, hj⟩

theorem Seqr.read_write_jump (q : Seqr) {r : Nat} (v : Scalar) (L st : Nat) (pc : Word) (hr : r ≠ 0) :
    ((q.write r v L).jump st pc).read r = if 1 + st < L then q.reg r else v :=
  Seqr.read_write_tick q r v L st hr

/-- A register write followed by a transfer of control. -/
theorem jump_setR (hs : s.stepping = false) (pc : Word) (d : Nat) (v : Word) (L : Nat) :
    ∃ t, jump pc (s.setR d v L) = .next t ∧ s.Jumped t pc ∧ s.Result t d v L ∧ s.OtherRegs t d ∧ s.OnlySeqr t := by
  have hstep : (s.setR d v L).stepping = false := (State.stepping_setSeqr s _).trans hs
  have heq : (s.setR d v L).setSeqr ((s.setR d v L).seqr.jump s.cur.st pc)
      = s.setSeqr ((s.seqr.write d ⟨v, false⟩ L).jump s.cur.st pc) := by
    rw [State.seqr_setR, State.setR, State.modSeqr_eq, State.setSeqr_setSeqr]
  refine ⟨_, (jump_eq _ pc hstep).trans (congrArg Host.Outcome.next heq), ?jumped, ⟨?reg, ?read⟩, fun r hr => ?others,
    s.onlySeqr_setSeqr _⟩
  case jumped => rw [State.Jumped, State.seqr_setSeqr]; simp [Seqr.Kept, Seqr.jump]
  case reg =>
    rw [State.seqr_setSeqr, Seqr.reg_jump, Seqr.reg_write]
    by_cases hd : d = 0 <;> simp [hd]
  case read =>
    rw [State.seqr_setSeqr]
    by_cases hd : d = 0
    · simp [hd]
    · rw [if_neg hd, Seqr.read_write_jump _ _ _ _ _ hd]
  case others => rw [State.seqr_setSeqr, Seqr.reg_jump, Seqr.reg_write, if_neg (fun h => hr h.1)]

/-! ### Completing with a result at once -/

/-- A result of latency 0 is read at once. -/
theorem State.Result.sets {d : Nat} {v : Word} (h : s.Result t d v 0) (ho : s.OtherRegs t d) : s.Sets t d ⟨v, false⟩ := by
  obtain ⟨hreg, hread⟩ := h
  exact ⟨hreg, by simpa using hread, ho⟩

/-- An instruction that changes its crew, but for the registers, PC and loops of its current sequencer, and completes with
v in d. -/
theorem done_modMe_setR {f : Crew → Crew} (d : Nat) (v : Word) (hs : s.stepping = false)
    (he : (f s.myCrew).estep = s.myCrew.estep) (hreg : ∀ r, ((f s.myCrew).seq s.cur.xs).reg r = s.seqr.reg r)
    (hpc : ((f s.myCrew).seq s.cur.xs).pc = s.seqr.pc) (hl : ((f s.myCrew).seq s.cur.xs).loops = s.seqr.loops) :
    ∃ t, done ((s.modMe f).setR d v 0) = .next t ∧ s.Sets t d ⟨v, false⟩
      ∧ (t.seqr.pc = s.after.2 ∧ t.seqr.loops = s.after.1 ∧ t.seqr.wait = none ∧ ((f s.myCrew).seq s.cur.xs).Kept t.seqr)
      ∧ s.OnlyCrew t (f s.myCrew) := by
  have hafter : (s.modMe f).after = s.after := by
    rw [State.after_eq, State.after_eq, State.seqr_modMe, hpc, hl, State.modMe_cur]
  obtain ⟨t, ht, hres, hother, ⟨htpc, htl, htw, hk⟩, honly⟩ :=
    done_setR (s.modMe f) d v 0 ((State.stepping_modMe he).trans hs)
  obtain ⟨h1, h2, h3⟩ := hres.sets hother
  rw [hafter] at htpc htl
  rw [State.seqr_modMe] at hk
  refine ⟨t, ht, ⟨h1, h2, fun r hr => ?_⟩, ⟨htpc, htl, htw, hk⟩, honly.onlyCrew⟩
  rw [h3 r hr, State.seqr_modMe, hreg]

/-- As above, for a change that leaves the current sequencer as it is. -/
theorem done_modMe_setR_wentOn {f : Crew → Crew} (d : Nat) (v : Word) (hs : s.stepping = false)
    (he : (f s.myCrew).estep = s.myCrew.estep) (hq : (f s.myCrew).seq s.cur.xs = s.seqr) :
    ∃ t, done ((s.modMe f).setR d v 0) = .next t ∧ s.Sets t d ⟨v, false⟩ ∧ s.WentOn t ∧ s.OnlyCrew t (f s.myCrew) := by
  obtain ⟨t, ht, hset, hw, honly⟩ := done_modMe_setR (f := f) d v hs he (fun r => by rw [hq]) (by rw [hq]) (by rw [hq])
  rw [hq] at hw
  exact ⟨t, ht, hset, hw, honly⟩

/-- An instruction that changes its crew, but for its current sequencer, and completes. -/
theorem done_modMe {f : Crew → Crew} (hs : s.stepping = false) (he : (f s.myCrew).estep = s.myCrew.estep)
    (hq : (f s.myCrew).seq s.cur.xs = s.seqr) :
    ∃ t, done (s.modMe f) = .next t ∧ s.SameRegs t ∧ s.WentOn t ∧ s.OnlyCrew t (f s.myCrew) := by
  have hseq : (s.modMe f).seqr = s.seqr := (s.seqr_modMe f).trans hq
  have hafter : (s.modMe f).after = s.after := by rw [State.after_eq, State.after_eq, hseq, State.modMe_cur]
  obtain ⟨t, ht, hw, hr, honly⟩ := done_of_not_stepping ((State.stepping_modMe he).trans hs)
  refine ⟨t, ht, fun r => ?_, ?_, honly.onlyCrew⟩
  · rw [hr r, hseq]
  · rwa [State.WentOn, hafter, hseq] at hw

end Sys2Proof.Machine
end

section
/-!
SUPPORT. Branches, jumps and returns (R57, R310).
-/
namespace Sys2Proof.Machine

variable {s : State}

/-! ### Conditions and forms -/

/-- The conditions of R57, whose codes end at 5. -/
theorem condHolds_iff {c : BitVec 3} (hc : c.toNat ≤ 5) (x y : Word) :
    condHolds c.toNat x y = true ↔
      (c = 0 ∧ x = y) ∨ (c = 1 ∧ x ≠ y) ∨ (c = 2 ∧ x.toInt < y.toInt) ∨ (c = 3 ∧ y.toInt ≤ x.toInt)
        ∨ (c = 4 ∧ x.toNat < y.toNat) ∨ (c = 5 ∧ y.toNat ≤ x.toNat) := by
  have hcases : c = 0 ∨ c = 1 ∨ c = 2 ∨ c = 3 ∨ c = 4 ∨ c = 5 := by bv_omega
  rcases hcases with rfl | rfl | rfl | rfl | rfl | rfl <;> simp [condHolds, BitVec.slt, BitVec.ult]

theorem unused_eq_none {xs : List Nat} : unused xs = none ↔ ∀ x ∈ xs, x = 0 := by
  simp [unused, need]

theorem toNat_eq_zero_iff {n : Nat} {x : BitVec n} : x.toNat = 0 ↔ x = 0 := by
  rw [← BitVec.toNat_inj]
  rfl

theorem wellFormed_bcc (f : T32b) : (Instr.bcc f).wellFormed = true ↔ f.cond.toNat ≤ 5 := by
  simp [Instr.wellFormed, Instr.defect, atMost, need]

theorem wellFormed_jmp (f : T32b) : (Instr.jmp f).wellFormed = true ↔ f.a = 0 ∧ f.b = 0 ∧ f.cond = 0 := by
  simp [Instr.wellFormed, Instr.defect, unused_eq_none, toNat_eq_zero_iff]

theorem wellFormed_jal (f : T32b) : (Instr.jal f).wellFormed = true ↔ f.b = 0 ∧ f.cond = 0 := by
  simp [Instr.wellFormed, Instr.defect, unused_eq_none, toNat_eq_zero_iff]

theorem wellFormed_jr (f : T16a) : (Instr.jr f).wellFormed = true ↔ f.b = 0 := by
  simp [Instr.wellFormed, Instr.defect, unused_eq_none, toNat_eq_zero_iff]

/-! ### Execution -/

section
variable (hl : s.atLevelEnd = false)
include hl

theorem exec_bcc_of_ready {f : T32b} (hr : s.ready [f.a.toNat, f.b.toNat] [] = true) :
    exec (.bcc f) s =
      if condHolds f.cond.toNat (s.val f.a.toNat) (s.val f.b.toNat) then jump (target s.seqr.pc f.slot f.disp) s else done s := by
  rw [exec_bcc, execBcc, control_of_not_end s _ hl, use2_of_ready s _ _ _ _ _ hr]

theorem exec_jmp_eq (f : T32b) : exec (.jmp f) s = jump (target s.seqr.pc f.slot f.disp) s :=
  (exec_jmp s f).trans (control_of_not_end s _ hl)

theorem exec_jal_of_ready {f : T32b} (hr : s.ready [] [f.a.toNat] = true) :
    exec (.jal f) s = jump (target s.seqr.pc f.slot f.disp) (s.setR f.a.toNat s.cur.link 1) := by
  rw [exec_jal, execJal, control_of_not_end s _ hl, useRegs_of_ready s _ _ _ _ hr]

theorem exec_jr_of_ready {f : T16a} (hr : s.ready [f.a.toNat] [f.d.toNat] = true) :
    exec (.jr f) s = jump (s.val f.a.toNat) (s.setR f.d.toNat s.cur.link 1) := by
  rw [exec_jr, execJr, control_of_not_end s _ hl, use1_of_ready s _ _ _ _ hr]

/-- A control instruction with a poisoned operand raises POISON at its PC, before its transfer (R310). -/
theorem raises_poison_of_control {i j : Instr} {rs ws : List Nat} {k : List Word → Out}
    (hx : exec i s = control s (useRegs j rs ws s k)) (hb : ∀ r ∈ rs ++ ws, r = 0 ∨ r ∉ s.seqr.busy)
    (hc : (s.core s.myCore).ckstall = false) (hp : ∃ r ∈ rs, (s.seqr.read r).p = true) :
    s.Raises i { code := 13 } s.seqr.pc :=
  raises_of_exec (hx.trans ((control_of_not_end s _ hl).trans (useRegs_of_poison hb hc hp)))

end

/-- Settles O10: each form by its equation above, then what a transfer, or completing, leaves. -/
theorem branchesAndJumps : Obligations.BranchesAndJumps := by
  unfold Obligations.BranchesAndJumps
  intro s hs hl
  refine ⟨fun f => ⟨fun hr hc => ⟨fun h => ?taken, fun h => ?notTaken⟩, ?jmp, fun hr => ?jal⟩, fun f hr => ?jr,
    ⟨fun f => ?bccPoison, fun f => ?jrPoison⟩,
    fun f => ⟨rfl, wellFormed_bcc f, wellFormed_jmp f, wellFormed_jal f⟩, fun f => ⟨rfl, wellFormed_jr f⟩, by decide⟩
  case taken =>
    exact onlyJumps_of_exec hs ((exec_bcc_of_ready hl hr).trans (if_pos ((condHolds_iff hc _ _).2 h)))
  case notTaken =>
    exact onlyAdvances_of_exec hs ((exec_bcc_of_ready hl hr).trans (if_neg (mt (condHolds_iff hc _ _).1 h)))
  case jmp => exact onlyJumps_of_exec hs (exec_jmp_eq hl f)
  case jal =>
    rw [exec_jal_of_ready hl hr]
    exact jump_setR hs _ _ _ _
  case jr =>
    rw [exec_jr_of_ready hl hr]
    exact jump_setR hs _ _ _ _
  case bccPoison => exact raises_poison_of_control hl (exec_bcc s f)
  case jrPoison => exact raises_poison_of_control hl (exec_jr s f)

end Sys2Proof.Machine
end

section
/-!
SUPPORT. Hardware loops (R311 to R315): the rule at a loop end, what opening and breaking a level do, and what raises LOOPSTK.
-/
namespace Sys2Proof.Machine

variable {s : State} {i : Instr}

/-! ### The rule at a loop end (R313) -/

/-- The state with this loop stack in its current sequencer. -/
def State.setLoops (s : State) (ls : List LoopLevel) : State := s.setSeqr { s.seqr with loops := ls }

section
variable (s : State) (ls : List LoopLevel)

@[simp] theorem State.setLoops_pc : (s.setLoops ls).seqr.pc = s.seqr.pc := by rw [State.setLoops, State.seqr_setSeqr]
@[simp] theorem State.setLoops_loops : (s.setLoops ls).seqr.loops = ls := by rw [State.setLoops, State.seqr_setSeqr]
@[simp] theorem State.setLoops_reg (r : Nat) : (s.setLoops ls).seqr.reg r = s.seqr.reg r := by
  rw [State.setLoops, State.seqr_setSeqr]
  rfl
@[simp] theorem State.setLoops_cur : (s.setLoops ls).cur = s.cur := rfl
theorem State.setLoops_stepping : (s.setLoops ls).stepping = s.stepping := State.stepping_setSeqr s _

end

theorem State.kept_of_setLoops {ls : List LoopLevel} {q : Seqr} (h : (s.setLoops ls).seqr.Kept q) : s.seqr.Kept q := by
  rwa [State.setLoops, State.seqr_setSeqr] at h

theorem State.after_of_no_loops (h : s.seqr.loops = []) : s.after = ([], s.cur.link) := by
  rw [State.after_eq, h]
  rfl

section
variable {l : LoopLevel} {r : List LoopLevel} (hl : s.seqr.loops = l :: r)
include hl

theorem State.after_of_not_stop (h : s.seqr.pc ≠ l.stop) : s.after = (l :: r, s.cur.link) := by
  simp [State.after_eq, hl, loopEnd, h]

theorem State.after_of_iterations_left (h : s.seqr.pc = l.stop) (hn : l.index + 1 < l.count) :
    s.after = ({ l with index := l.index + 1 } :: r, l.start) := by
  simp [State.after_eq, hl, loopEnd, h, hn]

/-- A level without iterations left retires, and the next one is tested at the same PC. -/
theorem State.after_of_last_iteration (h : s.seqr.pc = l.stop) (hn : l.count ≤ l.index + 1) :
    s.after = (s.setLoops r).after := by
  simp [State.after_eq, hl, loopEnd, h, Nat.not_lt.2 hn]

end

/-! ### Opening a level (R312) -/

/-- A level that ends at stop may open inside the innermost one. -/
def State.insideInnermost (s : State) (stop : Word) : Prop :=
  ∀ l, s.seqr.loops.head? = some l → stop.toNat ≤ l.stop.toNat

/-- R312 as one choice: the three refusals in their order, the body skipped, or the level opened. -/
theorem openLoop_eq (i : Instr) (count : Nat) (stop : Word) (s : State) [Decidable (s.insideInnermost stop)] :
    openLoop i count stop s =
      if 6 ≤ s.seqr.loops.length then raise { code := Cause.loopstk, reason := 1 } s
      else if stop.toNat < s.cur.link.toNat then raise { code := Cause.loopstk, reason := 2 } s
      else if ¬s.insideInnermost stop then raise { code := Cause.loopstk, reason := 3 } s
      else if count = 0 then goPast i stop s s skipTo
      else done (s.setLoops (⟨s.cur.link, stop, count, 0⟩ :: s.seqr.loops)) := by
  unfold openLoop
  cases hl : s.seqr.loops <;> simp [State.insideInnermost, State.setLoops, hl]

/-- Instruction i opens a level with this count and end and goes on at its start, the link; nothing else changes. -/
def State.Opens (s : State) (i : Instr) (count : Nat) (stop : Word) : Prop :=
  ∃ t, exec i s = .next t ∧ t.seqr.pc = s.cur.link ∧ t.seqr.loops = ⟨s.cur.link, stop, count, 0⟩ :: s.seqr.loops
    ∧ s.seqr.Kept t.seqr ∧ (∀ r, t.seqr.reg r = s.seqr.reg r) ∧ s.OnlySeqr t

theorem goPast_of_seqAfter {stop pc : Word} {t : State} {go : Word → State → Out}
    (h : seqAfter s s.me s.cur.xs stop = some pc) : goPast i stop s t go = go pc t := by
  simp only [goPast, h]

section
variable {count : Nat} {stop : Word}

/-- A level that opens starts at the link, which is not its end. -/
theorem opens_of_exec (hs : s.stepping = false) (hpc : s.seqr.pc.toNat < s.cur.link.toNat)
    (hlink : s.cur.link.toNat ≤ stop.toNat)
    (hx : exec i s = done (s.setLoops (⟨s.cur.link, stop, count, 0⟩ :: s.seqr.loops))) :
    s.Opens i count stop := by
  have hne : s.seqr.pc ≠ stop := by rintro rfl; omega
  obtain ⟨t, ht, ⟨htpc, htl, -, hkept⟩, hregs, honly⟩ :=
    done_of_not_stepping ((s.setLoops_stepping (⟨s.cur.link, stop, count, 0⟩ :: s.seqr.loops)).trans hs)
  rw [State.after_of_not_stop (s.setLoops_loops _) (by rwa [State.setLoops_pc])] at htpc htl
  exact ⟨t, hx.trans ht, htpc, htl, State.kept_of_setLoops hkept, fun r => (hregs r).trans (s.setLoops_reg _ r),
    honly.of_setSeqr⟩

/-- What loop and loopi do once their operand is read (R312). -/
theorem opens_or_skips_of_exec (hs : s.stepping = false) (hpc : s.seqr.pc.toNat < s.cur.link.toNat)
    (hx : exec i s = openLoop i count stop s) (hlen : s.seqr.loops.length < 6) (hlink : s.cur.link.toNat ≤ stop.toNat)
    (hin : s.insideInnermost stop) :
    (count ≠ 0 → s.Opens i count stop)
    ∧ (count = 0 → ∀ pc, seqAfter s s.me s.cur.xs stop = some pc → s.OnlyJumps i pc) := by
  classical
  have hopen : openLoop i count stop s = if count = 0 then goPast i stop s s skipTo
      else done (s.setLoops (⟨s.cur.link, stop, count, 0⟩ :: s.seqr.loops)) := by
    rw [openLoop_eq, if_neg (by omega), if_neg (by omega), if_neg (not_not.2 hin)]
  refine ⟨fun hc => opens_of_exec hs hpc hlink (hx.trans (hopen.trans (if_neg hc))), fun hc pc hafter => ?_⟩
  obtain ⟨t, ht, hj⟩ := skipTo_of_not_stepping hs pc
  exact ⟨t, hx.trans (hopen.trans ((if_pos hc).trans ((goPast_of_seqAfter hafter).trans ht))), hj⟩

/-- The refusals of R312, in their order. -/
theorem refuses_of_exec (hx : exec i s = openLoop i count stop s) :
    (6 ≤ s.seqr.loops.length → s.Raises i { code := 12, reason := 1 } s.seqr.pc)
    ∧ (s.seqr.loops.length < 6 → stop.toNat < s.cur.link.toNat → s.Raises i { code := 12, reason := 2 } s.seqr.pc)
    ∧ (s.seqr.loops.length < 6 → s.cur.link.toNat ≤ stop.toNat →
        (∃ l, s.seqr.loops.head? = some l ∧ l.stop.toNat < stop.toNat) →
        s.Raises i { code := 12, reason := 3 } s.seqr.pc) := by
  classical
  rw [openLoop_eq] at hx
  refine ⟨fun hlen => ?full, fun hlen hlink => ?backward, fun hlen hlink hout => ?outside⟩
  case full => exact raises_of_exec (hx.trans (if_pos hlen))
  case backward => exact raises_of_exec (hx.trans ((if_neg (by omega)).trans (if_pos hlink)))
  case outside =>
    obtain ⟨l, hl, hstop⟩ := hout
    have hin : ¬s.insideInnermost stop := fun h => absurd (h l hl) (by omega)
    exact raises_of_exec (hx.trans ((if_neg (by omega)).trans ((if_neg (by omega)).trans (if_pos hin))))

end

theorem exec_loop_of_ready {f : T32b} (hl : s.atLevelEnd = false) (hr : s.ready [f.a.toNat] [] = true) :
    exec (.loop f) s
      = openLoop (.loop f) ((s.val f.a.toNat).toNat % 2 ^ 32) (target s.seqr.pc f.slot f.disp) s := by
  rw [exec_loop, execLoop, control_of_not_end s _ hl, use1_of_ready s _ _ _ _ hr]

theorem exec_loopi_eq (hl : s.atLevelEnd = false) (f : T48d) :
    exec (.loopi f) s = openLoop (.loopi f) f.imm.toNat (target s.seqr.pc f.slot f.disp) s :=
  (exec_loopi s f).trans (control_of_not_end s _ hl)

/-! ### Breaking out of a level (R314) -/

theorem exec_lbrk_of_loops {l : LoopLevel} {r : List LoopLevel} {pc : Word} (hend : s.atLevelEnd = false)
    (hl : s.seqr.loops = l :: r) (hafter : seqAfter s s.me s.cur.xs l.stop = some pc) :
    exec .lbrk s = jump pc (s.setLoops r) := by
  rw [exec_lbrk, execLbrk, control_of_not_end s _ hend, hl]
  exact goPast_of_seqAfter hafter

theorem breaks_of_loops {l : LoopLevel} {r : List LoopLevel} {pc : Word} (hs : s.stepping = false)
    (hend : s.atLevelEnd = false) (hl : s.seqr.loops = l :: r)
    (hafter : seqAfter s s.me s.cur.xs l.stop = some pc) :
    ∃ t, exec .lbrk s = .next t ∧ t.seqr.loops = r ∧ t.seqr.pc = pc
      ∧ s.seqr.Kept t.seqr ∧ (∀ n, t.seqr.reg n = s.seqr.reg n) ∧ s.OnlySeqr t := by
  obtain ⟨t, ht, ⟨htpc, htl, -, hkept⟩, hregs, honly⟩ :=
    jump_of_not_stepping ((s.setLoops_stepping r).trans hs) pc
  exact ⟨t, (exec_lbrk_of_loops hend hl hafter).trans ht, htl.trans (s.setLoops_loops r), htpc,
    State.kept_of_setLoops hkept, fun n => (hregs n).trans (s.setLoops_reg r n), honly.of_setSeqr⟩

theorem raises_lbrk_of_no_loops (hl : s.seqr.loops = []) : s.Raises .lbrk { code := 12, reason := 5 } s.seqr.pc := by
  have hend : s.atLevelEnd = false := by simp [State.atLevelEnd, hl]
  have hx : exec .lbrk s = raise { code := Cause.loopstk, reason := 5 } s := by
    rw [exec_lbrk, execLbrk, control_of_not_end s _ hend, hl]
  exact raises_of_exec hx

/-! ### Reading an index (R315) -/

/-- What lidx reads of the level that its operand names. -/
def levelReading (f : T32a) (l : LoopLevel) : Nat :=
  if f.imm.getLsbD 3 then l.count - l.index - 1 else l.index

theorem levelReading_index {f : T32a} {l : LoopLevel} (h : f.imm.getLsbD 3 = false) : levelReading f l = l.index :=
  if_neg (by rw [h]; exact Bool.false_ne_true)

theorem levelReading_remaining {f : T32a} {l : LoopLevel} (h : f.imm.getLsbD 3 = true) :
    levelReading f l = l.count - l.index - 1 := if_pos h

theorem bitOf_toNat {n : Nat} (x : BitVec n) (j : Nat) : bitOf x.toNat j = x.getLsbD j := by
  rw [BitVec.getLsbD, Nat.testBit_eq_decide_div_mod_eq]
  rfl

theorem exec_lidx_of_ready {f : T32a} (hr : s.ready [] [f.d.toNat] = true) :
    exec (.lidx f) s = done (s.setR f.d.toNat
      (BitVec.ofNat 64 ((s.seqr.loops.reverse[f.imm.toNat % 8]?.map (levelReading f)).getD 0)) 1) := by
  have hk : bitsOf f.imm.toNat 0 3 = f.imm.toNat % 8 := by simp [bitsOf]
  rw [exec_lidx, execLidx, useRegs_of_ready s _ _ _ _ hr, hk, loopLevel]
  cases s.seqr.loops.reverse[f.imm.toNat % 8]? with
  | none => rfl
  | some l => simp only [bitOf_toNat]; rfl

theorem firstDefect_eq_none {l : List (Option IllForm)} : firstDefect l = none ↔ ∀ x ∈ l, x = none := by
  induction l with
  | nil => simp [firstDefect]
  | cons x r ih => cases x <;> simp [firstDefect, ih]

theorem wellFormed_lidx (f : T32a) :
    (Instr.lidx f).wellFormed = true ↔ f.a = 0 ∧ f.imm.toNat < 16 ∧ f.imm.toNat % 8 < 6 := by
  have hd : (Instr.lidx f).wellFormed = true ↔ f.a = 0 ∧ f.imm.toNat % 8 ≤ 5 ∧ f.imm.toNat / 16 % 262144 = 0 := by
    simp [Instr.wellFormed, Instr.defect, firstDefect_eq_none, unused_eq_none, need, bitsOf, toNat_eq_zero_iff]
  have hlt := f.imm.isLt
  exact hd.trans (and_congr_right fun _ => by omega)

/-! ### The statement -/

/-- Settles O11: opening, breaking and reading by their lemmas above, the loop end by the cases of loopEnd, and each refusal
by the check that makes it. -/
theorem hardwareLoops : Obligations.HardwareLoops := by
  unfold Obligations.HardwareLoops
  refine ⟨fun s hs hpc => ⟨fun f hl hr => ?loop, fun f hl => ?loopi, fun l r pc hend hl hafter => ?lbrk, fun f hr => ?lidx,
    by decide, by decide⟩, fun s hs => ⟨?nop, State.after_of_no_loops, fun l r hl => ⟨?goesOn, ?again, ?retires⟩⟩,
    fun s => ⟨fun h => ?atEnd, raises_lbrk_of_no_loops, fun hl => ⟨fun f => ?loopiBad, fun f hr => ?loopBad⟩⟩⟩
  case loop => exact opens_or_skips_of_exec hs hpc (exec_loop_of_ready hl hr)
  case loopi => exact opens_or_skips_of_exec hs hpc (exec_loopi_eq hl f)
  case lbrk => exact breaks_of_loops hs hend hl hafter
  case lidx =>
    have hgives := gives_of_exec hs (exec_lidx_of_ready hr)
    refine ⟨fun hk => ?_, fun l hl => ?_, rfl, wellFormed_lidx f⟩
    · rwa [List.getElem?_eq_none (by rwa [List.length_reverse])] at hgives
    · rw [hl] at hgives
      exact ⟨fun hn => by rwa [Option.map_some, levelReading_index hn] at hgives,
        fun hn => by rwa [Option.map_some, levelReading_remaining hn] at hgives⟩
  case nop => exact onlyAdvances_of_exec hs (exec_nop s)
  case goesOn => exact State.after_of_not_stop hl
  case again => exact State.after_of_iterations_left hl
  case retires => exact State.after_of_last_iteration hl
  case atEnd =>
    exact ⟨raises_at_level_end h (exec_exit s), raises_at_level_end h (exec_yield s), raises_at_level_end h (exec_bkpt s),
      raises_at_level_end h (exec_lbrk s), fun f => raises_at_level_end h (exec_trap s f),
      fun f => raises_at_level_end h (exec_bcc s f), fun f => raises_at_level_end h (exec_jmp s f),
      fun f => raises_at_level_end h (exec_jal s f), fun f => raises_at_level_end h (exec_jr s f),
      fun f => raises_at_level_end h (exec_loop s f), fun f => raises_at_level_end h (exec_loopi s f)⟩
  case loopiBad => exact refuses_of_exec (exec_loopi_eq hl f)
  case loopBad => exact refuses_of_exec (exec_loop_of_ready hl hr)

end Sys2Proof.Machine
end

section
/-!
SUPPORT. The scalar queue instructions of the A stream (R323, R325, R326, R332) and its lane requests (R337, R338).
-/
namespace Sys2Proof.Machine

variable {s : State} {i : Instr} {f : T32e}

/-! ### Pushes, branch bits, slip and drains -/

theorem exec_cqpush_of_ready (hx : s.cur.xs = false) (hr : s.ready [f.a.toNat] [] = true) :
    exec (.cqpush f) s =
      if 16 ≤ s.myCrew.cq.length then queueWait (.cqpush f) 13 false s
      else done (s.modMe (fun c => { c with cq := c.cq ++ [⟨false, s.val f.a.toNat⟩] })) := by
  rw [exec_cqpush, execCqpush, inA_of_A s _ hx, use1_of_ready s _ _ _ _ hr]
  rfl

/-- A wait for room in a queue, of a crew that nothing stops, has no effect but to stand at its instruction (R316). -/
theorem queueWait_of_no_stop {queue : Nat} (h : s.myCrew.stop = .none) :
    queueWait i queue false s = .next (s.setSeqr { s.seqr with wait := some i }) := by
  simp [queueWait, h, waitAt, State.modSeqr]

theorem exec_cqpush_of_poison (hx : s.cur.xs = false) (hb : f.a.toNat = 0 ∨ f.a.toNat ∉ s.seqr.busy)
    (hc : (s.core s.myCore).ckstall = false) (hp : (s.seqr.read f.a.toNat).p = true) :
    exec (.cqpush f) s = raise { code := Cause.poison } s := by
  rw [exec_cqpush, execCqpush, inA_of_A s _ hx]
  exact useRegs_of_poison (by simpa using hb) hc (by simpa using hp)

theorem takeTrap_keeps_cq (s : State) (c : Trap) : (takeTrap c s).myCrew.cq = s.myCrew.cq := by
  rw [myCrew_takeTrap, Crew.setSeq_cq, Crew.takeTrap_cq]

theorem wellFormed_cqpush (f : T32e) :
    (Instr.cqpush f).wellFormed = true ↔ f.d = 0 ∧ f.b = 0 ∧ f.cc = 0 ∧ f.scope = 0 ∧ f.imm = 0 := by
  simp only [Instr.wellFormed, Instr.defect, onlyDA, beq_iff_eq, unused_eq_none, Bool.false_eq_true, if_false, if_true,
    List.append_nil, List.cons_append, List.nil_append, List.forall_mem_cons, toNat_eq_zero_iff, List.not_mem_nil,
    false_imp_iff, implies_true]
  tauto

theorem exec_bqb_of_ready {v : Word} {r : List Word} (hx : s.cur.xs = false) (hr : s.ready [] [f.d.toNat] = true)
    (hq : s.myCrew.bq = v :: r) :
    exec (.bqb f) s = done ((s.modMe (fun c => { c with bq := r })).setR f.d.toNat v 0) := by
  rw [exec_bqb, execBqb, inA_of_A s _ hx, useRegs_of_ready s _ _ _ _ hr, hq]

theorem slipOf_toNat (q : Nat) (n : BitVec 10) :
    slipOf q n.toNat = if n = 0 then 8 * q - 16 else min (max n.toNat 16) (8 * q - 16) := by
  simp only [slipOf, toNat_eq_zero_iff]

/-- A queue is selected by its bit of the mask; a mask of 0 selects all nine (R326). -/
theorem bitOf_drainMask (m : BitVec 10) {j : Nat} (hj : j < 9) :
    bitOf (if m.toNat = 0 then 511 else m.toNat) j = true ↔ m = 0 ∨ m.getLsbD j = true := by
  by_cases hm : m = 0
  · have hall : bitOf 511 j = true := by interval_cases j <;> rfl
    simp [hm, hall]
  · rw [if_neg (mt toNat_eq_zero_iff.1 hm), bitOf_toNat, or_iff_right hm]

theorem drainBusy_eq_false {c : Crew} {m : BitVec 10}
    (hlq : ∀ j, j < 8 → (m = 0 ∨ m.getLsbD j = true) → c.lqAt j = [] ∧ ∀ l ∈ c.loads, l.pushes = true → l.q ≠ j)
    (hcq : (m = 0 ∨ m.getLsbD 8 = true) → c.cq = []) : drainBusy c m.toNat = false := by
  rw [drainBusy, Bool.or_eq_false_iff]
  constructor
  · rw [List.any_eq_false]
    intro j hj hbusy
    rw [List.mem_range] at hj
    rw [Bool.and_eq_true, bitOf_drainMask m (by omega)] at hbusy
    obtain ⟨hsel, hbusy⟩ := hbusy
    obtain ⟨hempty, hloads⟩ := hlq j hj hsel
    obtain ⟨l, hl, hpush, hq⟩ : ∃ l ∈ c.loads, l.pushes = true ∧ l.q = j := by simpa [hempty] using hbusy
    exact hloads l hl hpush hq
  · rw [Bool.and_eq_false_imp, bitOf_drainMask m (by omega)]
    intro hsel
    rw [hcq hsel]
    rfl

theorem exec_qdrain_of_drained (hx : s.cur.xs = false) (h : drainBusy s.myCrew f.imm.toNat = false) :
    exec (.qdrain f) s = done s := by
  rw [exec_qdrain, execQdrain, inA_of_A s _ hx, h]
  rfl

/-! ### Lane requests (R337, R338) -/

/-- n lane groups from base x are there, and no other slot of the core holds one of them. -/
def State.fitsAt (s : State) (n x : Nat) : Prop :=
  x + n ≤ 8 ∧ ∀ j, x ≤ j → j < x + n → ∀ k ∈ coreCrews (crewCore s.me), k = s.me ∨ holds s k j = false

theorem rangeFree_iff (s : State) (n x : Nat) : rangeFree s s.me x n = true ↔ s.fitsAt n x := by
  simp only [rangeFree, available, State.fitsAt, Bool.and_eq_true, decide_eq_true_eq, List.all_eq_true, List.mem_range,
    Bool.or_eq_true, beq_iff_eq, Bool.not_eq_true']
  refine and_congr_right fun hn => ⟨fun h j hj hjn => ?_, fun h i hi => ⟨by omega, h _ (by omega) (by omega)⟩⟩
  have hcrews := (h (j - x) (by omega)).2
  rwa [Nat.add_sub_cancel' hj] at hcrews

/-- The base of the range that lpreq is given (R337). -/
def State.lpreqBase (s : State) (n : Nat) : Option Nat :=
  if n < 1 ∨ n > 8 then none
  else if rangeFree s s.me (s.shareOf s.me).b n then some (s.shareOf s.me).b
  else (List.range 8).find? (fun x => rangeFree s s.me x n)

section
variable {n : Nat} (h1 : 1 ≤ n) (h8 : n ≤ 8)
include h1 h8

theorem State.lpreqBase_of_none_fits (h : ∀ x, ¬s.fitsAt n x) : s.lpreqBase n = none := by
  rw [lpreqBase, if_neg (by omega), if_neg (mt (rangeFree_iff s _ _).1 (h _)), List.find?_eq_none]
  exact fun x _ hx => h x ((rangeFree_iff s _ _).1 hx)

theorem State.lpreqBase_of_own_fits (h : s.fitsAt n (s.shareOf s.me).b) :
    s.lpreqBase n = some (s.shareOf s.me).b := by
  rw [lpreqBase, if_neg (by omega), if_pos ((rangeFree_iff s _ _).2 h)]

theorem State.lpreqBase_of_least_fits {x : Nat} (hown : ¬s.fitsAt n (s.shareOf s.me).b) (hx : s.fitsAt n x)
    (hleast : ∀ y, y < x → ¬s.fitsAt n y) : s.lpreqBase n = some x := by
  have hx8 : x < 8 := by obtain ⟨hle, -⟩ := hx; omega
  rw [lpreqBase, if_neg (by omega), if_neg (mt (rangeFree_iff s _ _).1 hown), List.find?_range_eq_some]
  refine ⟨(rangeFree_iff s _ _).2 hx, List.mem_range.2 hx8, fun y hy => ?_⟩
  rw [Bool.not_eq_true', Bool.eq_false_iff]
  exact mt (rangeFree_iff s _ _).1 (hleast y hy)

end

section
variable (hx : s.cur.xs = false) (hr : s.ready [f.a.toNat] [f.d.toNat] = true)
include hx hr

theorem exec_lpreq_of_base_none (hb : s.lpreqBase (s.val f.a.toNat).toNat = none) :
    exec (.lpreq f) s = done (s.setR f.d.toNat 0 0) := by
  rw [State.lpreqBase] at hb
  rw [exec_lpreq, execLpreq, inA_of_A s _ hx, use1_of_ready s _ _ _ _ hr]
  dsimp only
  rw [hb]

theorem exec_lpreq_of_base_some {x : Nat} (hb : s.lpreqBase (s.val f.a.toNat).toNat = some x) :
    exec (.lpreq f) s
      = done ((s.setShare s.me ⟨x, (s.val f.a.toNat).toNat⟩).setR f.d.toNat (s.val f.a.toNat) 0) := by
  rw [State.lpreqBase] at hb
  rw [exec_lpreq, execLpreq, inA_of_A s _ hx, use1_of_ready s _ _ _ _ hr]
  dsimp only
  rw [hb]

theorem exec_lprel_of_ready :
    exec (.lprel f) s =
      if 1 ≤ (s.val f.a.toNat).toNat ∧ (s.val f.a.toNat).toNat < (s.shareOf s.me).g then
        done ((s.setShare s.me ⟨(s.shareOf s.me).b, (s.val f.a.toNat).toNat⟩).setR f.d.toNat (s.val f.a.toNat) 0)
      else done (s.setR f.d.toNat (BitVec.ofNat 64 (s.shareOf s.me).g) 0) := by
  rw [exec_lprel, execLprel, inA_of_A s _ hx, use1_of_ready s _ _ _ _ hr]

end

/-- An instruction that makes sh the share of its slot and completes with v in d. -/
theorem setsShare_of_exec {sh : Share} {d : Nat} {v : Word} (hs : s.stepping = false)
    (h : exec i s = done ((s.setShare s.me sh).setR d v 0)) :
    ∃ t, exec i s = .next t ∧ s.Sets t d ⟨v, false⟩ ∧ s.WentOn t ∧ (s.setShare s.me sh).OnlySeqr t := by
  obtain ⟨t, ht, hres, hother, hw, honly⟩ := done_setR (s.setShare s.me sh) d v 0 hs
  exact ⟨t, h.trans ht, hres.sets hother, hw, honly⟩

end Sys2Proof.Machine
end

section
/-!
SUPPORT. What the X stream takes from cq: length tokens (R105, R106) and scalars (R107).
-/
namespace Sys2Proof.Machine

variable {s : State} {f : T32g} {e : CqEntry} {r : List CqEntry}

theorem wfield_eq (w : Word) (lo n : Nat) : wfield w lo n = (w.extractLsb' lo n).toNat := by
  simp [wfield, bitsOf, BitVec.extractLsb'_toNat, Nat.shiftRight_eq_div_pow]

section
variable (hx : s.cur.xs = true) (hr : s.ready [] [f.x.toNat] = true) (hcq : s.myCrew.cq = e :: r)
include hx hr hcq

theorem exec_vtake_of_ready :
    exec (.vtake f) s =
      if !e.isLen then raise { code := Cause.cqkind, queue := 13 } s
      else done ((adoptToken e.v (e.v.extractLsb' 0 15).toNat s).setR f.x.toNat
        (BitVec.ofNat 64 (e.v.extractLsb' 0 15).toNat) 0) := by
  rw [exec_vtake, execVtake, inX_of_X s _ hx, useRegs_of_ready s _ _ _ _ hr, hcq, ← wfield_eq]

theorem exec_cqpop_of_ready :
    exec (.cqpop f) s =
      if e.isLen then raise { code := Cause.cqkind, queue := 13 } s
      else done ((s.modMe (fun c => { c with cq := r })).setR f.x.toNat e.v 0) := by
  rw [exec_cqpop, execCqpop, inX_of_X s _ hx, useRegs_of_ready s _ _ _ _ hr, hcq]

theorem exec_vtakeq_of_ready {k : Tok} {rest : List Tok} (hlq : s.myCrew.lqAt f.q.toNat = k :: rest) :
    exec (.vtakeq f) s =
      if !e.isLen then raise { code := Cause.cqkind, queue := 13 } s
      else if k.marker then markerStop (.vtakeq f) s
      else if k.n > (e.v.extractLsb' 0 15).toNat then
        raise { code := Cause.qlen, queue := f.q.toNat,
                cinfo := qlenInfo k (e.v.extractLsb' 0 15).toNat (e.v.extractLsb' 16 2).toNat } s
      else done ((adoptToken e.v k.n s).setR f.x.toNat (BitVec.ofNat 64 k.n) 0) := by
  rw [exec_vtakeq, execVtakeq, inX_of_X s _ hx, useRegs_of_ready s _ _ _ _ hr, hcq, hlq, ← wfield_eq, ← wfield_eq]

end

/-- The crew that has taken the length token v from the head of cq with m elements (R105). -/
def Crew.adopt (c : Crew) (v : Word) (m : Nat) : Crew :=
  { c with
    cq := c.cq.tail,
    x := { c.x with vl := m, vtype := ⟨wfield v 16 2, wfield v 18 2, wfield v 20 2⟩, share := tokenShare v } }

theorem adoptToken_eq (v : Word) (m : Nat) (s : State) : adoptToken v m s = s.modMe (fun c => c.adopt v m) := rfl

theorem Crew.adopt_vtype (c : Crew) (v : Word) (m : Nat) :
    (c.adopt v m).x.vtype = ⟨(v.extractLsb' 16 2).toNat, (v.extractLsb' 18 2).toNat, (v.extractLsb' 20 2).toNat⟩ := by
  simp only [adopt, wfield_eq]

theorem Crew.adopt_share (c : Crew) (v : Word) (m : Nat) :
    (c.adopt v m).x.share = ⟨(v.extractLsb' 24 3).toNat, (v.extractLsb' 27 4).toNat⟩ := by
  simp only [adopt, tokenShare, wfield_eq]

theorem State.seqr_of_X (hx : s.cur.xs = true) : s.seqr = s.myCrew.x := by rw [State.seqr, hx]; rfl

/-- An instruction that adopts the length token at the head of cq with m elements: vl becomes m, type and share are those
of the token, and it leaves cq (R105, R106). -/
theorem adopts_of_exec {i : Instr} {d m : Nat} (hx : s.cur.xs = true) (hs : s.stepping = false)
    (hcq : s.myCrew.cq = e :: r)
    (h : exec i s = done ((adoptToken e.v m s).setR d (BitVec.ofNat 64 m) 0)) :
    ∃ t, exec i s = .next t ∧ s.Sets t d ⟨BitVec.ofNat 64 m, false⟩ ∧ s.Advanced t ∧ t.seqr.vl = m
      ∧ t.seqr.vtype = ⟨(e.v.extractLsb' 16 2).toNat, (e.v.extractLsb' 18 2).toNat, (e.v.extractLsb' 20 2).toNat⟩
      ∧ t.seqr.share = ⟨(e.v.extractLsb' 24 3).toNat, (e.v.extractLsb' 27 4).toNat⟩
      ∧ s.OnlyCrew t { s.myCrew with cq := r } := by
  have hseq := State.seqr_of_X hx
  rw [adoptToken_eq] at h
  obtain ⟨t, ht, hset, ⟨hpc, hl, hw, hrun, -, hvl, hvt, hsh⟩, honly, hbytes⟩ :=
    done_modMe_setR (s := s) (f := fun c => c.adopt e.v m) d (BitVec.ofNat 64 m) hs rfl
      (fun r => by rw [hseq, hx]; rfl) (by rw [hseq, hx]; rfl) (by rw [hseq, hx]; rfl)
  rw [hx] at hrun hvl hvt hsh honly
  refine ⟨t, h.trans ht, hset, ⟨hpc, hl, hw, by rw [hrun, hseq]; rfl⟩, hvl, hvt.trans (Crew.adopt_vtype _ _ _),
    hsh.trans (Crew.adopt_share _ _ _), honly.trans ?crew, hbytes⟩
  case crew =>
    rw [hx, Crew.adopt, hcq]
    rfl

/-! ### The statement -/

/-- Settles O16: each instruction by its equation above, then what completing, waiting or trapping leaves. -/
theorem scalarQueues : Obligations.ScalarQueues := by
  unfold Obligations.ScalarQueues
  refine ⟨fun s f hx hs => ⟨fun hr hroom => ?push, fun hr hfull hstop => ?pushWaits, fun hb hc hp => ?pushPoison, rfl,
    wellFormed_cqpush f, by decide, fun v r hr hbq => ?bqb, ?qslip, fun hlq hcq => ?qdrain, fun hr => ?lpreq,
    fun hr => ?lprel⟩,
    fun s f e r hx hs hr hcq => ⟨fun hlen => ?vtake, fun hlen => ?vtakeKind, fun hlen => ?cqpop, fun hlen => ?cqpopKind,
      fun k rest hlq => ⟨fun hlen hmark hn => ?vtakeq, fun hlen => ?vtakeqKind, fun hlen hmark hn => ?vtakeqLength⟩⟩⟩
  case push =>
    rw [exec_cqpush_of_ready hx hr, if_neg (by omega)]
    exact done_modMe hs rfl rfl
  case pushWaits => rw [exec_cqpush_of_ready hx hr, if_pos hfull, queueWait_of_no_stop hstop]
  case pushPoison =>
    have hpoison := exec_cqpush_of_poison hx hb hc hp
    refine ⟨raises_of_exec hpoison, fun t ht => ?_⟩
    rw [hpoison] at ht
    cases ht
    exact takeTrap_keeps_cq _ _
  case bqb =>
    rw [exec_bqb_of_ready hx hr hbq]
    exact done_modMe_setR_wentOn _ _ hs rfl rfl
  case qslip =>
    intro q
    rw [exec_qslip, execQslip, inA_of_A s _ hx, slipOf_toNat]
    exact done_modMe hs rfl rfl
  case qdrain => exact onlyAdvances_of_exec hs (exec_qdrain_of_drained hx (drainBusy_eq_false hlq hcq))
  case lpreq =>
    refine ⟨fun hn => ?_, fun h1 h8 h => ?_, fun h1 h8 h => ?_, fun x h1 h8 hown h hleast => ?_⟩
    · exact gives_of_exec hs (exec_lpreq_of_base_none hx hr (if_pos hn))
    · exact gives_of_exec hs (exec_lpreq_of_base_none hx hr (State.lpreqBase_of_none_fits h1 h8 h))
    · exact setsShare_of_exec hs (exec_lpreq_of_base_some hx hr (State.lpreqBase_of_own_fits h1 h8 h))
    · exact setsShare_of_exec hs (exec_lpreq_of_base_some hx hr (State.lpreqBase_of_least_fits h1 h8 hown h hleast))
  case lprel =>
    refine ⟨fun hn => ?_, fun hn => ?_⟩
    · exact setsShare_of_exec hs ((exec_lprel_of_ready hx hr).trans (if_pos hn))
    · exact gives_of_exec hs ((exec_lprel_of_ready hx hr).trans (if_neg hn))
  case vtake => exact adopts_of_exec hx hs hcq ((exec_vtake_of_ready hx hr hcq).trans (by rw [hlen]; rfl))
  case vtakeKind => exact raises_of_exec ((exec_vtake_of_ready hx hr hcq).trans (by rw [hlen]; rfl))
  case cqpop =>
    rw [exec_cqpop_of_ready hx hr hcq, hlen]
    exact done_modMe_setR_wentOn _ _ hs rfl rfl
  case cqpopKind => exact raises_of_exec ((exec_cqpop_of_ready hx hr hcq).trans (if_pos hlen))
  case vtakeq =>
    refine adopts_of_exec hx hs hcq ((exec_vtakeq_of_ready hx hr hcq hlq).trans ?_)
    rw [hlen, hmark, if_neg (by decide), if_neg (by decide), if_neg (by omega)]
  case vtakeqKind => exact raises_of_exec ((exec_vtakeq_of_ready hx hr hcq hlq).trans (by rw [hlen]; rfl))
  case vtakeqLength =>
    refine raises_of_exec ((exec_vtakeq_of_ready hx hr hcq hlq).trans ?_)
    rw [hlen, hmark, if_neg (by decide), if_neg (by decide), if_pos hn]
    rfl

end Sys2Proof.Machine
end

section
/-!
SUPPORT. Pausing, leaving and trapping by an instruction (R45, R317, R318, R407), and the first queue whose tokens a
sequencer that exits has left (R318).
-/
namespace Sys2Proof.Machine

variable {s : State} {i : Instr}

/-! ### The first queue that holds a token (R318) -/

theorem find?_nonempty_eq_none {α : Type} {g : Nat → List α} {m : Nat} (h : ∀ n, n < m → g n = []) :
    (List.range m).find? (fun n => !(g n).isEmpty) = none := by
  rw [List.find?_eq_none]
  intro n hn
  simp [h n (List.mem_range.1 hn)]

theorem find?_nonempty_eq_some {α : Type} {g : Nat → List α} {m n : Nat} (hn : n < m) (hg : g n ≠ [])
    (hfirst : ∀ j, j < n → g j = []) : (List.range m).find? (fun n => !(g n).isEmpty) = some n := by
  rw [List.find?_range_eq_some]
  exact ⟨by simpa using hg, List.mem_range.2 hn, fun j hj => by simp [hfirst j hj]⟩

section
variable {c : Crew} {n : Nat}

theorem residue_X_of_lq (hn : n < 8) (hq : c.lqAt n ≠ []) (hfirst : ∀ m, m < n → c.lqAt m = []) :
    residue c true = some n := by
  rw [residue, if_pos rfl, find?_nonempty_eq_some hn hq hfirst]
  rfl

theorem residue_X_of_no_lq (hlq : ∀ n, n < 8 → c.lqAt n = []) :
    residue c true = if c.cq.isEmpty then none else some 13 := by
  rw [residue, if_pos rfl, find?_nonempty_eq_none hlq]
  rfl

theorem residue_A_of_sq (hn : n < 4) (hq : c.sqAt n ≠ []) (hfirst : ∀ m, m < n → c.sqAt m = []) :
    residue c false = some (8 + n) := by
  rw [residue, if_neg Bool.false_ne_true, find?_nonempty_eq_some hn hq hfirst]
  rfl

theorem residue_A_of_no_sq (hsq : ∀ n, n < 4 → c.sqAt n = []) :
    residue c false =
      if c.iq.isEmpty then (if c.bq.isEmpty then none else some 14) else some 12 := by
  rw [residue, if_neg Bool.false_ne_true, find?_nonempty_eq_none hsq]
  split <;> rfl

end

theorem Crew.lqAt_of_lq_nil {c : Crew} (h : c.lq = []) (n : Nat) : c.lqAt n = [] := by
  rw [Crew.lqAt, h, get_nil]

theorem Crew.sqAt_of_sq_nil {c : Crew} (h : c.sq = []) (n : Nat) : c.sqAt n = [] := by
  rw [Crew.sqAt, h, get_nil]

/-! ### Leaving (R318) -/

/-- How an exit ends once its work has drained: QRESID of the first queue with a token for its sequencer, if there is one;
else the sequencer leaves. -/
def exitDrained (s : State) (reason : Nat) (left : Option Nat) : Out :=
  left.elim (exitNow s) (fun n => raise { code := Cause.qresid, reason := reason, queue := n } s)

/-- The access stream has nothing to wait for before it leaves (R192, R318). -/
def State.exitDrainedA (s : State) : Prop :=
  s.myCrew.wcb = [] ∧ s.myCrew.loads = [] ∧ s.myCrew.sc = none ∧ redPending s s.me = false ∧ s.myCrew.follow ≠ .awaiting

theorem drainAll_of_wcb_nil {k : Nat} (h : (s.crew k).wcb = []) : drainAll s k = some s := by
  rw [drainAll, h, drainLines]

section
variable (hl : s.atLevelEnd = false) (hstop : s.myCrew.stop = .none)
include hl hstop

theorem exec_exit_of_X (hx : s.cur.xs = true) (hviq : s.myCrew.viq = []) :
    exec .exit s = exitDrained s 1 (residue s.myCrew true) := by
  rw [exec_exit, execExit, control_of_not_end s _ hl, hstop, hx, hviq]
  cases residue s.myCrew true <;> rfl

theorem exec_exit_of_A (hx : s.cur.xs = false) (h : s.exitDrainedA) :
    exec .exit s = exitDrained s 2 (residue s.myCrew false) := by
  obtain ⟨hwcb, hloads, hsc, hred, hfollow⟩ := h
  rw [exec_exit, execExit, control_of_not_end s _ hl, hstop, hx, drainAll_of_wcb_nil hwcb]
  dsimp only
  rw [beq_eq_false_iff_ne.2 hfollow, hloads, hsc, hred]
  cases residue s.myCrew false <;> rfl

theorem exec_yield_of_no_stop : exec .yield s = done s := by
  rw [exec_yield, execYield, control_of_not_end s _ hl]
  exact if_pos (.inl hstop)

end

theorem exits_of_exec {reason : Nat} {left : Option Nat} (hx : exec i s = exitDrained s reason left) (hleft : left = none) :
    ∃ t, exec i s = .next t ∧ t.seqr.run = .exited ∧ t.seqr.pc = s.seqr.pc
      ∧ (∀ r, t.seqr.reg r = s.seqr.reg r) ∧ s.OnlySeqr t := by
  subst hleft
  refine ⟨s.setSeqr { s.seqr with run := .exited, wait := none }, hx.trans ?_, ?run, ?pc, fun r => ?reg,
    s.onlySeqr_setSeqr _⟩
  · rw [exitDrained, Option.elim_none, exitNow, State.modSeqr_eq]
  case run => rw [State.seqr_setSeqr]
  case pc => rw [State.seqr_setSeqr]
  case reg => rw [State.seqr_setSeqr]; rfl

theorem raises_qresid_of_exec {reason n : Nat} {left : Option Nat} (hx : exec i s = exitDrained s reason left)
    (hleft : left = some n) : s.Raises i { code := 11, reason := reason, queue := n } s.seqr.pc := by
  subst hleft
  exact raises_of_exec hx

/-! ### Trapping (R407) -/

theorem wellFormed_trap (f : T32a) : (Instr.trap f).wellFormed = true ↔ f.d = 0 ∧ f.a = 0 := by
  simp [Instr.wellFormed, Instr.defect, unused_eq_none, toNat_eq_zero_iff]

/-- The first trap of a crew leaves in sys.tval what its cause records there (R403). -/
theorem takeTrap_tval {c : Trap} (h : s.myCrew.stop ≠ .trap) : (takeTrap c s).myCrew.trap.tval = c.tvalReg := by
  rw [myCrew_takeTrap, Crew.setSeq_trap, Crew.takeTrap_trap_first _ _ _ h]

/-! ### The statement -/

/-- Settles O12: each instruction by its equation above; an exit by the first queue that still holds a token for it. -/
theorem leavingAndPausing : Obligations.LeavingAndPausing := by
  unfold Obligations.LeavingAndPausing
  intro s hl
  refine ⟨fun hs => ?nop, fun hs hstop => ?yield, fun hstop hx hviq hlq hcq => ?leavesX,
    fun hstop hx hwcb hloads hsc hred hfollow hsq hiq hbq => ?leavesA, fun hstop hx hviq => ?residueX,
    fun hstop hx hwcb hloads hsc hred hfollow => ?residueA, ?bkpt, fun f => ⟨?trap, fun h => ?tval, rfl, wellFormed_trap f,
    by decide⟩⟩
  case nop => exact onlyAdvances_of_exec hs (exec_nop s)
  case yield => exact onlyAdvances_of_exec hs (exec_yield_of_no_stop hl hstop)
  case leavesX =>
    refine exits_of_exec (exec_exit_of_X hl hstop hx hviq) ?_
    rw [residue_X_of_no_lq (fun n _ => Crew.lqAt_of_lq_nil hlq n), hcq]
    rfl
  case leavesA =>
    refine exits_of_exec (exec_exit_of_A hl hstop hx ⟨hwcb, hloads, hsc, hred, hfollow⟩) ?_
    rw [residue_A_of_no_sq (fun n _ => Crew.sqAt_of_sq_nil hsq n), hiq, hbq]
    rfl
  case residueX =>
    have hexit := exec_exit_of_X hl hstop hx hviq
    refine ⟨fun n hn hq hfirst => raises_qresid_of_exec hexit (residue_X_of_lq hn hq hfirst),
      fun hlq hcq => raises_qresid_of_exec hexit ?_⟩
    rw [residue_X_of_no_lq hlq, if_neg (by simpa using hcq)]
  case residueA =>
    have hexit := exec_exit_of_A hl hstop hx ⟨hwcb, hloads, hsc, hred, hfollow⟩
    refine ⟨fun n hn hq hfirst => raises_qresid_of_exec hexit (residue_A_of_sq hn hq hfirst),
      fun hsq hiq => raises_qresid_of_exec hexit ?iq, fun hsq hiq hbq => raises_qresid_of_exec hexit ?bq⟩
    case iq => rw [residue_A_of_no_sq hsq, if_neg (by simpa using hiq)]
    case bq => rw [residue_A_of_no_sq hsq, hiq, if_pos List.isEmpty_nil, if_neg (by simpa using hbq)]
  case bkpt => exact raises_of_exec ((exec_bkpt s).trans (control_of_not_end s _ hl))
  case trap => exact raises_of_exec ((exec_trap s f).trans (control_of_not_end s _ hl))
  case tval => exact takeTrap_tval h

end Sys2Proof.Machine
end
